-- ==== Sys2Proof/Word.lean ====
section
/-! DEFINITION. The machine words of the KN-3216 and their plainest arithmetic. -/

namespace Sys2Proof

/-- One byte of a payload or a memory. -/
abbrev Byte := BitVec 8

/-- A register, an event word or a scalar of a cell: 32 bits. -/
abbrev Word := BitVec 32

/-- A word of a cell queue, a record or a command descriptor: 64 bits. -/
abbrev DWord := BitVec 64

/-- A vector register of a cell: 64 bytes. -/
abbrev VReg := BitVec 512

/-- An address-generator descriptor: 32 bytes. -/
abbrev GReg := BitVec 256

/-- Bits `hi` down to `lo` of a natural number. -/
def bitsOf (n hi lo : Nat) : Nat := n / 2 ^ lo % 2 ^ (hi + 1 - lo)

/-- Bit `i` of a natural number. -/
def bitAt (n i : Nat) : Bool := n / 2 ^ i % 2 == 1

/-- A truth value as one bit. -/
def bitOf (b : Bool) : Nat := if b then 1 else 0

/-- The value of an `n`-bit pattern read as two's complement. -/
def signedOf (n v : Nat) : Int := if v % 2 ^ n < 2 ^ (n - 1) then (v % 2 ^ n : Nat) else (v % 2 ^ n : Nat) - (2 ^ n : Nat)

/-- The `n`-bit two's complement pattern of an integer, modulo 2^n. -/
def patternOf (n : Nat) (v : Int) : Nat := (v % (2 ^ n : Nat)).toNat

/-- Clamp an integer into `[lo, hi]`. -/
def clampInt (lo hi v : Int) : Int := if v < lo then lo else if hi < v then hi else v

end Sys2Proof
end

