-- ==== Sys2Proof/Syntax.lean ====
section
/-! DEFINITION. The commands the KN-3216 takes: one constructor per row of spec/opcode_table.json, and the operand types they carry. -/

namespace Sys2Proof

/-- What the PHY makes of a packet header: sound, corrected, or beyond correction (R70, R71). -/
inductive HeaderCond where
  | ok | corrected | bad
  deriving DecidableEq, Repr

/-- An upset met while a FIFO word is decoded: none, bad parity (R99), or a disagreement of the two copies at stage `i + 1`, one of the per-port stages 1 to 3 (R96, R98). -/
inductive WordFault where
  | none
  | parity
  | mismatch (i : Fin 3)
  deriving DecidableEq, Repr

/-- Who put an item into the mesh. -/
inductive Source where
  | port (n : Fin 16)
  | cell (c : Fin 256)
  | hub (c : Fin 16)
  | steward
  deriving DecidableEq, Repr

/-- The register and immediate fields of a cell instruction word (R202). -/
structure Fields where
  d : BitVec 5
  a : BitVec 5
  b : BitVec 5
  pred : BitVec 3
  imm : BitVec 34
  deriving DecidableEq, Repr

/-- A hardware upset met by a cell operation: none, `n` corrected single-bit errors (R166), an uncorrectable word in a bank (R167), uncorrectable queue words by their places among the words that are read, or a residue mismatch at an array column, once or twice (R265). -/
inductive Upset where
  | none
  | corrected (n : Nat)
  | uncorrectable (bank : Fin 12)
  | queueWords (places : List Nat)
  | residue (col : Nat) (twice : Bool)
  deriving DecidableEq, Repr

/-- The upsets a command meets in cells it writes or reads as a whole (R163, R166, R167). -/
abbrev CellUpsets := List (Fin 256 × Upset)

/-- What ECC finds in the words of a central memory or of LPDDR5X that a command reads: nothing, `n` corrected errors, or one beyond correction (R497, R504, R552). -/
inductive Ecc where
  | clean
  | corrected (n : Nat)
  | uncorrectable
  deriving DecidableEq, Repr

/-- What the Steward's own checks find: its cores disagree, `n` corrected errors of its memory, or one beyond correction (R497, R504). -/
inductive StewardFault where
  | lockstep
  | corrected (n : Nat)
  | memory
  deriving DecidableEq, Repr

/-- What comes from outside the step unit at a ridge close: the device's own spending in the step but for its leakage, and that leakage (R485, R491), a disagreement of the zone copies (R501), what ECC finds in Fusion memory and in the reserved area, with the words of the scene memory region that inline ECC has corrected since the last close (R504, R552; log entry 77), unreadable scene tokens (R552), the words of the privileged queues that fail their parity as they are drained (R130), and the upsets of the writes into cells where the close loads an image (R163). -/
structure RidgeInputs where
  spend : Nat
  leakage : Nat
  zoneMismatch : Bool
  fusion : Ecc
  reserved : Ecc
  lostTokens : List Nat
  poisoned : List (Fin 16 × Nat)
  upsets : CellUpsets
  deriving DecidableEq, Repr

/-- The eight words of a command descriptor (15, Commands). -/
abbrev Descriptor := Vector DWord 8

/-- A shingle an image gives to a cell: its place, the first lines of its Thatch and CWM blocks, and the queues bound to it (R17, R173). -/
structure Shingle where
  port : Fin 16
  col : Fin 64
  row : Fin 64
  tbase : Nat
  cbase : Nat
  queues : List (Fin 256)
  deriving DecidableEq, Repr

/-- What an image holds for one logical cell: CEL register values by window offset, code from CWM address 0, further CWM and Thatch bytes, and its shingles (R20, R170, R174). -/
structure CellImage where
  cell : Fin 256
  regs : List (Nat × Word)
  code : List Byte
  cwm : List (Nat × Byte)
  thatch : List (Nat × Byte)
  shingles : List Shingle
  deriving DecidableEq, Repr

/-- A program image: its cells, its bytes of the Weight Store, and the values it gives to registers outside the cells (R309, R431). -/
structure Image where
  cells : List CellImage
  weights : List (Nat × Byte)
  regs : List (Nat × Word)
  deriving DecidableEq, Repr

/-- The payload of a Driex container, by KIND (R520, R528, R537). -/
inductive Payload where
  | image (i : Image)
  | enrol (slot : Nat) (op : Nat) (keyHash : BitVec 256) (imgKey : BitVec 256) (zeroOk : Bool)
  | firmware (version : Word)
  | unlock (challenge : BitVec 256) (serial : BitVec 64) (level : Byte) (zeroOk : Bool)
  deriving DecidableEq, Repr

/-- A Driex container as the device reads it: its size, the header words d0 to d31, the digest of its modulus, what its cryptographic checks find, the digest of its signed region, and the payload (R520 to R522). -/
structure Container where
  size : Nat
  head : Vector DWord 32
  modHash : BitVec 256
  modSigZero : Bool
  sigOk : Bool
  phashOk : Bool
  decOk : Bool
  digest : BitVec 256
  payload : Payload
  deriving DecidableEq, Repr

/-- A firmware container in flash as the ROM reads it: its header, its digest, and whether every check of R521 but that of its counter passes (R523). -/
structure FlashCopy where
  head : Vector DWord 32
  version : Word
  digest : BitVec 256
  sound : Bool
  deriving DecidableEq, Repr

/-- How a sentinel run ended (R500). -/
inductive SentinelResult where
  | pass
  | engine (detail : Nat)
  | loopback
  | comparators
  deriving DecidableEq, Repr

/-- Boundary-scan instructions (R539). -/
inductive JtagInstr where
  | bypass | idcode | samplePreload | extest | clamp | highz | other
  deriving DecidableEq, Repr

/-- The self-test verdict on a mesh position (R15). -/
inductive PosTest where
  | healthy | routerLive | routerDead
  deriving DecidableEq, Repr

/-- What a reset finds outside the device: the boot pins, the firmware copies, the self-test results and the health of the TRNG (R16, R523, R525, R546). -/
structure BootInputs where
  bootsel : BitVec 2
  flash : List (Option FlashCopy)
  failing : List (Fin 256 × PosTest)
  hubFail : BitVec 16
  trngOk : Bool
  deriving DecidableEq, Repr

/-- What a wake finds: the banks whose scrub fails, the words it corrects, the leakage charged, and the source (R186, R477, R490). -/
structure WakeInputs where
  lostT : List (Fin 256 × Fin 8)
  lostC : List (Fin 256 × Fin 4)
  corrected : List (Fin 256 × Nat)
  leakage : Nat
  pins : BitVec 4
  deriving DecidableEq, Repr

/-- The functions whose readiness `DEV_READY` and `DEV_READY_SP` show (R466). -/
inductive DevFunction where
  | clutch (c : Fin 16)
  | hostPort (h : Fin 2)
  | mem | fus | trk | scm | mot
  | sensor (n : Fin 16)
  deriving DecidableEq, Repr

/-- How memory training ended: a capacity in GiB, or the failing channel and its code (R551, R554). -/
inductive Training where
  | done (gib : Nat)
  | failed (channel : BitVec 4) (code : BitVec 4)
  deriving DecidableEq, Repr

/-- The commands, one constructor per row of spec/opcode_table.json. An operand for what is not met in ordinary operation (an upset, an error, the rest of a request) has the ordinary value as its default. -/
inductive Instr where
  /-- `CSI2_LONG_PACKET` (R73). -/
  | csi2LongPacket (p : Fin 16) (vc : BitVec 2) (vcx : Bool) (dt : BitVec 6) (h : HeaderCond) (crcOk : Bool) (payload : List Byte)
  /-- `CSI2_SHORT_PACKET` (R69). -/
  | csi2ShortPacket (p : Fin 16) (dt : BitVec 6) (h : HeaderCond)
  /-- `STATUS_BLOCK_PACKET` (R90). -/
  | statusBlockPacket (p : Fin 16) (vc : BitVec 2) (vcx : Bool) (h : HeaderCond) (crcOk : Bool) (payload : List Byte)
  /-- `EV_WORD` (R79). -/
  | evWord (p : Fin 16) (f : WordFault)
  /-- `VEC_WORD` (R85). -/
  | vecWord (p : Fin 16) (f : WordFault)
  /-- `MASK_WORD` (R86). -/
  | maskWord (p : Fin 16) (f : WordFault)
  /-- `TB_LO` (R81). -/
  | tbLo (p : Fin 16) (f : WordFault)
  /-- `TB_HI` (R80). -/
  | tbHi (p : Fin 16) (f : WordFault)
  /-- `STATUS_WORD` (R89). -/
  | statusWord (p : Fin 16) (f : WordFault)
  /-- `TRIGGER_WORD` (R91). -/
  | triggerWord (p : Fin 16) (f : WordFault)
  /-- `PAD_WORD` (R77). -/
  | padWord (p : Fin 16) (f : WordFault)
  /-- `RESERVED_WORD` (R78). -/
  | reservedWord (p : Fin 16) (f : WordFault)
  /-- `LANE_ARBITRATION` (R118). -/
  | laneArbitration (bad : List (Fin 16 × Fin 3))
  /-- `INTAKE_PUSH` (R119). -/
  | intakePush (p : Fin 16) (bad : List (Fin 16))
  /-- `PORT_SILENCE_EXPIRY` (R33). -/
  | portSilenceExpiry (p : Fin 16)
  /-- `PORT_ENABLE` (R93). -/
  | portEnable (hp : Fin 2) (p : Fin 16)
  /-- `PORT_DISABLE` (R94). -/
  | portDisable (hp : Fin 2) (p : Fin 16)
  /-- `INK_TSWAP_ARM` (R109). -/
  | inkTswapArm (hp : Fin 2) (mask : BitVec 16)
  /-- `TABLE_COPYBACK_DONE` (R111). -/
  | tableCopybackDone
  /-- `STEP_RUN_SET` (R42). -/
  | stepRunSet (hp : Fin 2)
  /-- `STEP_RUN_CLEAR` (R43). -/
  | stepRunClear (hp : Fin 2)
  /-- `FIRST_STEP_OPEN` (R42). -/
  | firstStepOpen (ups : CellUpsets := [])
  /-- `RIDGE_DUE` (R45). -/
  | ridgeDue
  /-- `RIDGE_CLOSE` (R49). -/
  | ridgeClose (d : RidgeInputs)
  /-- `HBEAT_TOGGLE` (R62). -/
  | hbeatToggle
  /-- `RIDGE_WATCHDOG_EXPIRY` (R50). -/
  | ridgeWatchdogExpiry
  /-- `REMAP_ROUTES_WRITTEN` (R175). -/
  | remapRoutesWritten (c : Fin 256) (ups : CellUpsets := [])
  /-- `REMAP_DEADLINE_EXPIRY` (R510). -/
  | remapDeadlineExpiry (c : Fin 256)
  /-- `DELIVERY_BUDGET_EXPIRY` (R317). -/
  | deliveryBudgetExpiry (r : Fin 4)
  /-- `FABRIC_ITEM_ADMIT` (R140). -/
  | fabricItemAdmit (src : Source) (c : Fin 256) (q : Fin 256)
  /-- `STATUS_RECORD_SEND` (R196). -/
  | statusRecordSend (c : Fin 256)
  /-- `DUE_RIDGE_OBSERVED` (R217). -/
  | dueRidgeObserved (c : Fin 256)
  /-- `MOULT_SHARE` (R182). -/
  | moultShare (c : Fin 256) (u : Upset := .none)
  /-- `TOKEN_FREE` (R207). -/
  | tokenFree (c : Fin 256) (t : Fin 16)
  /-- `WAITQ_COMPLETE` (R221). -/
  | waitqComplete (c : Fin 256)
  /-- `WAITQ_LIMIT_EXPIRY` (R222). -/
  | waitqLimitExpiry (c : Fin 256)
  /-- `RIDGE_COMPLETE` (R224). -/
  | ridgeComplete (c : Fin 256)
  /-- `RDUCE_RESULT` (R235). -/
  | rduceResult (cl : Fin 16) (tag : Fin 16)
  /-- `HUB_WEIGHT_BROADCAST` (R12). -/
  | hubWeightBroadcast (cl : Fin 16) (cells : BitVec 16) (src : Nat) (addr : Nat) (len : Nat) (ecc : Ecc) (ups : CellUpsets := [])
  /-- `CEL_SEQ_START` (R191). -/
  | celSeqStart (hp : Fin 2) (c : Fin 256)
  /-- `CEL_SEQ_STOP` (R192). -/
  | celSeqStop (hp : Fin 2) (c : Fin 256)
  /-- `NOP` (R202). `op` is 0, or the reserved MAJOR and MINOR of a word that no instruction has (R205). -/
  | nop (c : Fin 256) (f : Fields) (op : BitVec 12 := 0)
  /-- `BR` (R199). -/
  | br (c : Fin 256) (f : Fields)
  /-- `JAL` (R199). -/
  | jal (c : Fin 256) (f : Fields)
  /-- `JR` (R199). -/
  | jr (c : Fin 256) (f : Fields)
  /-- `LOOP` (R212). -/
  | loop (c : Fin 256) (f : Fields)
  /-- `RDSYS` (R214). -/
  | rdsys (c : Fin 256) (f : Fields)
  /-- `WAIT` (R215). -/
  | wait (c : Fin 256) (f : Fields)
  /-- `WAITQ` (R220). -/
  | waitq (c : Fin 256) (f : Fields)
  /-- `RIDGE` (R224). -/
  | ridge (c : Fin 256) (f : Fields)
  /-- `ADD` (R199). -/
  | sAdd (c : Fin 256) (imm : Bool) (f : Fields)
  /-- `SUB` (R199). -/
  | sSub (c : Fin 256) (imm : Bool) (f : Fields)
  /-- `AND` (R199). -/
  | sAnd (c : Fin 256) (imm : Bool) (f : Fields)
  /-- `OR` (R199). -/
  | sOr (c : Fin 256) (imm : Bool) (f : Fields)
  /-- `XOR` (R199). -/
  | sXor (c : Fin 256) (imm : Bool) (f : Fields)
  /-- `SHL` (R199). -/
  | shl (c : Fin 256) (imm : Bool) (f : Fields)
  /-- `SHR` (R199). -/
  | shr (c : Fin 256) (imm : Bool) (f : Fields)
  /-- `SRA` (R199). -/
  | sra (c : Fin 256) (imm : Bool) (f : Fields)
  /-- `MUL` (R199). -/
  | mul (c : Fin 256) (imm : Bool) (f : Fields)
  /-- `MULHU` (R199). -/
  | mulhu (c : Fin 256) (imm : Bool) (f : Fields)
  /-- `MULHS` (R199). -/
  | mulhs (c : Fin 256) (imm : Bool) (f : Fields)
  /-- `MIN` (R199). -/
  | sMin (c : Fin 256) (imm : Bool) (f : Fields)
  /-- `MAX` (R199). -/
  | sMax (c : Fin 256) (imm : Bool) (f : Fields)
  /-- `MINU` (R199). -/
  | minu (c : Fin 256) (imm : Bool) (f : Fields)
  /-- `MAXU` (R199). -/
  | maxu (c : Fin 256) (imm : Bool) (f : Fields)
  /-- `SEL` (R199). -/
  | sel (c : Fin 256) (f : Fields)
  /-- `CMP_EQ` (R199). -/
  | cmpEq (c : Fin 256) (f : Fields)
  /-- `CMP_NE` (R199). -/
  | cmpNe (c : Fin 256) (f : Fields)
  /-- `CMP_LT` (R199). -/
  | cmpLt (c : Fin 256) (f : Fields)
  /-- `CMP_LE` (R199). -/
  | cmpLe (c : Fin 256) (f : Fields)
  /-- `CMP_LTU` (R199). -/
  | cmpLtu (c : Fin 256) (f : Fields)
  /-- `CMP_LEU` (R199). -/
  | cmpLeu (c : Fin 256) (f : Fields)
  /-- `CMPI_EQ` (R199). -/
  | cmpiEq (c : Fin 256) (f : Fields)
  /-- `CMPI_NE` (R199). -/
  | cmpiNe (c : Fin 256) (f : Fields)
  /-- `CMPI_LT` (R199). -/
  | cmpiLt (c : Fin 256) (f : Fields)
  /-- `CMPI_LE` (R199). -/
  | cmpiLe (c : Fin 256) (f : Fields)
  /-- `CMPI_LTU` (R199). -/
  | cmpiLtu (c : Fin 256) (f : Fields)
  /-- `CMPI_LEU` (R199). -/
  | cmpiLeu (c : Fin 256) (f : Fields)
  /-- `PAND` (R199). -/
  | pand (c : Fin 256) (f : Fields)
  /-- `POR` (R199). -/
  | por (c : Fin 256) (f : Fields)
  /-- `PXOR` (R199). -/
  | pxor (c : Fin 256) (f : Fields)
  /-- `PNOT` (R199). -/
  | pnot (c : Fin 256) (f : Fields)
  /-- `LDX_W` (R225). -/
  | ldxW (c : Fin 256) (cwm : Bool) (f : Fields) (u : Upset)
  /-- `LDX_H` (R225). -/
  | ldxH (c : Fin 256) (cwm : Bool) (f : Fields) (u : Upset)
  /-- `LDX_HS` (R225). -/
  | ldxHs (c : Fin 256) (cwm : Bool) (f : Fields) (u : Upset)
  /-- `LDX_B` (R225). -/
  | ldxB (c : Fin 256) (cwm : Bool) (f : Fields) (u : Upset)
  /-- `LDX_BS` (R225). -/
  | ldxBs (c : Fin 256) (cwm : Bool) (f : Fields) (u : Upset)
  /-- `LDX_V` (R225). -/
  | ldxV (c : Fin 256) (cwm : Bool) (f : Fields) (u : Upset)
  /-- `STX_W` (R225). -/
  | stxW (c : Fin 256) (cwm : Bool) (f : Fields) (u : Upset)
  /-- `STX_H` (R225). -/
  | stxH (c : Fin 256) (cwm : Bool) (f : Fields) (u : Upset)
  /-- `STX_B` (R225). -/
  | stxB (c : Fin 256) (cwm : Bool) (f : Fields) (u : Upset)
  /-- `STX_V` (R225). -/
  | stxV (c : Fin 256) (cwm : Bool) (f : Fields) (u : Upset)
  /-- `LDG` (R209). -/
  | ldg (c : Fin 256) (f : Fields) (u : Upset)
  /-- `STG` (R209). -/
  | stg (c : Fin 256) (f : Fields) (u : Upset)
  /-- `GADD` (R209). -/
  | gadd (c : Fin 256) (f : Fields)
  /-- `GSET` (R209). -/
  | gset (c : Fin 256) (f : Fields)
  /-- `VINS` (R198). -/
  | vins (c : Fin 256) (f : Fields)
  /-- `VEXT` (R198). -/
  | vext (c : Fin 256) (f : Fields)
  /-- `VMOV` (R198). -/
  | vmov (c : Fin 256) (f : Fields)
  /-- `VSPLAT` (R198). -/
  | vsplat (c : Fin 256) (f : Fields)
  /-- `VZERO` (R198). -/
  | vzero (c : Fin 256) (f : Fields)
  /-- `POP` (R227). -/
  | pop (c : Fin 256) (f : Fields) (u : Upset)
  /-- `POPV` (R228). -/
  | popv (c : Fin 256) (f : Fields) (u : Upset)
  /-- `PEEK` (R229). -/
  | peek (c : Fin 256) (f : Fields) (u : Upset)
  /-- `PUSH` (R230). -/
  | push (c : Fin 256) (f : Fields)
  /-- `PUSHV` (R230). -/
  | pushv (c : Fin 256) (f : Fields)
  /-- `QFLUSH` (R143). -/
  | qflush (c : Fin 256) (f : Fields)
  /-- `QSTAT` (R133). -/
  | qstat (c : Fin 256) (f : Fields)
  /-- `SEND` (R231). -/
  | send (c : Fin 256) (f : Fields)
  /-- `BCAST` (R231). -/
  | bcast (c : Fin 256) (f : Fields)
  /-- `RDUCE` (R234). -/
  | rduce (c : Fin 256) (f : Fields)
  /-- `TSUPD` (R252). -/
  | tsupd (c : Fin 256) (f : Fields) (u : Upset)
  /-- `TSRD` (R253). -/
  | tsrd (c : Fin 256) (f : Fields) (u : Upset)
  /-- `ARC` (R254). -/
  | arc (c : Fin 256) (f : Fields) (u : Upset)
  /-- `FLOWFIT` (R256). -/
  | flowfit (c : Fin 256) (f : Fields) (u : Upset)
  /-- `MM` (R258). -/
  | mm (c : Fin 256) (f : Fields) (u : Upset)
  /-- `CONV` (R260). -/
  | conv (c : Fin 256) (f : Fields) (u : Upset)
  /-- `DCONV` (R261). -/
  | dconv (c : Fin 256) (f : Fields) (u : Upset)
  /-- `FCONV_FIRST` (R267). -/
  | fconvFirst (c : Fin 256) (f : Fields) (u : Upset)
  /-- `FCONV_LAST` (R268). -/
  | fconvLast (c : Fin 256) (f : Fields) (u : Upset)
  /-- `VADD` (R269). -/
  | vadd (c : Fin 256) (f : Fields) (u : Upset)
  /-- `VSUB` (R269). -/
  | vsub (c : Fin 256) (f : Fields) (u : Upset)
  /-- `VMUL` (R269). -/
  | vmul (c : Fin 256) (f : Fields) (u : Upset)
  /-- `VMAX` (R269). -/
  | vmax (c : Fin 256) (f : Fields) (u : Upset)
  /-- `VMIN` (R269). -/
  | vmin (c : Fin 256) (f : Fields) (u : Upset)
  /-- `VABS` (R269). -/
  | vabs (c : Fin 256) (f : Fields) (u : Upset)
  /-- `VSHL` (R269). -/
  | vshl (c : Fin 256) (f : Fields) (u : Upset)
  /-- `VSRA` (R269). -/
  | vsra (c : Fin 256) (f : Fields) (u : Upset)
  /-- `VCVT` (R269). -/
  | vcvt (c : Fin 256) (f : Fields) (u : Upset)
  /-- `VRED` (R269). -/
  | vred (c : Fin 256) (f : Fields) (u : Upset)
  /-- `VDW` (R270). -/
  | vdw (c : Fin 256) (f : Fields) (u : Upset)
  /-- `VARGMAX` (R271). -/
  | vargmax (c : Fin 256) (f : Fields) (u : Upset)
  /-- `VMRED` (R272). -/
  | vmred (c : Fin 256) (f : Fields) (u : Upset)
  /-- `NINT_CONV` (R274). -/
  | nintConv (c : Fin 256) (f : Fields) (u : Upset)
  /-- `NINT_LIST` (R275). -/
  | nintList (c : Fin 256) (f : Fields) (u : Upset)
  /-- `NFIRE` (R276). -/
  | nfire (c : Fin 256) (f : Fields) (u : Upset)
  /-- `NLEAK` (R277). -/
  | nleak (c : Fin 256) (f : Fields) (u : Upset)
  /-- `PSKIP` (R278). -/
  | pskip (c : Fin 256) (f : Fields) (u : Upset)
  /-- `PFLUSH` (R280). -/
  | pflush (c : Fin 256) (f : Fields) (u : Upset)
  /-- `ECHK` (R281). -/
  | echk (c : Fin 256) (f : Fields)
  /-- `EADMIT` (R282). -/
  | eadmit (c : Fin 256) (f : Fields)
  /-- `SPI_TRANSACTION` (R324). -/
  | spiTransaction (m : Fin 4) (bytes : List Byte)
  /-- `IMU_FRAME` (R331). -/
  | imuFrame (m : Fin 4) (bad : List (Fin 4) := []) (ecc : Ecc := .clean)
  /-- `TWIST_FRAME` (R331). -/
  | twistFrame (m : Fin 4) (bad : List (Fin 4) := []) (ecc : Ecc := .clean)
  /-- `PAD_FRAME` (R328). -/
  | padFrame (m : Fin 4) (bad : List (Fin 4) := [])
  /-- `OUTPUT_BRIDGE_FORWARD` (R336). -/
  | outputBridgeForward (c : Fin 256) (scene : Bool) (u : Upset := .none)
  /-- `FEATURE_ITEM` (R341). -/
  | featureItem (ecc : Ecc)
  /-- `EVIDENCE_ITEM` (R343). -/
  | evidenceItem (ecc : Ecc)
  /-- `FEATURE_OBSERVATION` (R355). -/
  | featureObservation (ecc : Ecc := .clean)
  /-- `OBJECT_OBSERVATION` (R354). -/
  | objectObservation (ecc : Ecc := .clean)
  /-- `ATTN_DEASSERT` (R152). -/
  | attnDeassert
  /-- `ZONE_STALE_EXPIRY` (R352). -/
  | zoneStaleExpiry
  /-- `FUS_SNS_CLR_WRITE` (R348). -/
  | fusSnsClrWrite (hp : Fin 2) (mask : BitVec 16)
  /-- `FUS_TSWAP_ARM` (R344). -/
  | fusTswapArm (hp : Fin 2) (kinds : BitVec 3)
  /-- `TRACK_ASSOCIATION` (R358). -/
  | trackAssociation (ecc : Ecc := .clean)
  /-- `TOKEN_ITEM` (R385). -/
  | tokenItem
  /-- `RETRIEVAL_SHARE_STREAM` (R391). -/
  | retrievalShareStream (cl : Fin 16) (rid : BitVec 16) (lost : List Nat)
  /-- `PARTIAL_ITEM` (R392). -/
  | partialItem
  /-- `RETRIEVAL_MERGE_COMPLETE` (R397). -/
  | retrievalMergeComplete (rid : BitVec 16) (lost : List Nat)
  /-- `RETRIEVAL_TIMEOUT` (R398). -/
  | retrievalTimeout (rid : BitVec 16)
  /-- `SCM_ENABLE` (R381). -/
  | scmEnable (hp : Fin 2)
  /-- `SCM_DISABLE` (R401). -/
  | scmDisable (hp : Fin 2)
  /-- `SCM_GEOM_WRITE` (R381). -/
  | scmGeomWrite (hp : Fin 2) (v : Word)
  /-- `SCM_ERASE` (R400). -/
  | scmErase (hp : Fin 2)
  /-- `ERASE_COMPLETE` (R400). -/
  | eraseComplete
  /-- `COMMAND_DOORBELL` (R422). -/
  | commandDoorbell (hp : Fin 2) (count : Word)
  /-- `CONSUMER_DOORBELL` (R412). -/
  | consumerDoorbell (hp : Fin 2) (ring : Fin 256) (count : Word)
  /-- `COMMAND_TIMEOUT` (R424): of the command in progress, or of the descriptor fetched so many places behind it. -/
  | commandTimeout (hp : Fin 2) (ahead : Option (Nat × Descriptor) := none)
  /-- `CMD_NOP` (R425). -/
  | cmdNop (hp : Fin 2) (d : Descriptor)
  /-- `LOAD_IMAGE` (R429). -/
  | loadImage (hp : Fin 2) (d : Descriptor) (img : Option Container) (ecc : Ecc := .clean)
  /-- `START` (R425). -/
  | cmdStart (hp : Fin 2) (d : Descriptor)
  /-- `STOP` (R43). -/
  | cmdStop (hp : Fin 2) (d : Descriptor)
  /-- `SWAP_SLOT` (R431). -/
  | swapSlot (hp : Fin 2) (d : Descriptor) (ecc : Ecc := .clean) (ups : CellUpsets := [])
  /-- `SET_BUDGET` (R486). -/
  | setBudget (hp : Fin 2) (d : Descriptor)
  /-- `SET_PL` (R471). -/
  | setPl (hp : Fin 2) (d : Descriptor)
  /-- `TABLE_WRITE` (R108). -/
  | tableWrite (hp : Fin 2) (d : Descriptor) (words : Option (List Word))
  /-- `SNAPSHOT` (R428). -/
  | snapshot (hp : Fin 2) (d : Descriptor)
  /-- `RETRIEVE` (R394). -/
  | retrieve (hp : Fin 2) (d : Descriptor) (query : Option (List Byte))
  /-- `ATTEST` (R533). -/
  | attest (hp : Fin 2) (d : Descriptor) (nonce : Option (List Byte))
  /-- `POWER` (R482). -/
  | cmdPower (hp : Fin 2) (d : Descriptor)
  /-- `QUERY` (R553). -/
  | cmdQuery (hp : Fin 2) (d : Descriptor)
  /-- `CELL_ITEM` (R419). -/
  | cellItem (c : Fin 256) (u : Upset := .none)
  /-- `SEM_ACQUIRE` (R433). -/
  | semAcquire (hp : Fin 2) (n : Fin 64) (be : BitVec 4)
  /-- `SEM_RELEASE` (R434). -/
  | semRelease (hp : Fin 2) (n : Fin 64)
  /-- `SEM_LEASE_SET` (R434). -/
  | semLeaseSet (hp : Fin 2) (n : Fin 64) (lease : Byte)
  /-- `LEASE_EXPIRY` (R435). -/
  | leaseExpiry (n : Fin 64)
  /-- `LINK_LOSS` (R439). -/
  | linkLoss (hp : Fin 2)
  /-- `LINK_UP` (R439). -/
  | linkUp (hp : Fin 2) (gen : BitVec 2)
  /-- `MAILBOX_SELECT` (R460). -/
  | mailboxSelect (hp : Fin 2) (sel : BitVec 16)
  /-- `MAILBOX_CAPTURE` (R461). -/
  | mailboxCapture (hp : Fin 2)
  /-- `REGISTER_WRITE` (R446, R451): the first doubleword of a request with its byte enables, and the rest of the request. -/
  | registerWrite (hp : Fin 2) (off : Nat) (be : BitVec 4) (v : Word) (rest : List (BitVec 4 × Word) := [])
  /-- `CFG_SCAN_PASS` (R458). `struck` are the upsets of the registers' storage since the pass before: a CFG bit, or the parity bit (32). -/
  | cfgScanPass (struck : List (Nat × Fin 33))
  /-- `LEVEL_REQUEST_WRITE` (R470). -/
  | levelRequestWrite (hp : Fin 2) (cl : Fin 16) (lvl : BitVec 2)
  /-- `LEVEL_SWITCH_DONE` (R470). -/
  | levelSwitchDone (cl : Fin 16)
  /-- `THERMAL_SAMPLE` (R472). -/
  | thermalSample (sensor : Byte) (tj : Byte)
  /-- `CLUTCH_CLOCK_GATE` (R474). -/
  | clutchClockGate (cl : Fin 16)
  /-- `POWER_E2_REACHED` (R478). -/
  | powerE2Reached
  /-- `E2_LIMIT_EXPIRY` (R479). -/
  | e2LimitExpiry
  /-- `POWER_COMMIT` (R478). -/
  | powerCommit
  /-- `SLEEP_STATE_REACHED` (R481). -/
  | sleepStateReached
  /-- `WAKE_PIN` (R476). -/
  | wakePin (n : Fin 4) (levels : BitVec 4)
  /-- `HOST_ACCESS_WAKE` (R475). -/
  | hostAccessWake (hp : Fin 2) (off : Nat)
  /-- `WAKE_COMPLETE` (R483). -/
  | wakeComplete (w : WakeInputs)
  /-- `SENTINEL_TIMER_EXPIRY` (R498). -/
  | sentinelTimerExpiry
  /-- `SENTINEL_RUN_COMPLETE` (R500). -/
  | sentinelRunComplete (c : Fin 256) (r : SentinelResult)
  /-- `SENTINEL_LOOPBACK_TIMEOUT` (R500). -/
  | sentinelLoopbackTimeout (c : Fin 256)
  /-- `HUB_SENTINEL_TIMEOUT` (R500). -/
  | hubSentinelTimeout (cl : Fin 16)
  /-- `OUTPUT_READBACK_FAULT` (R502). -/
  | outputReadbackFault (pin : Fin 8) (lasts : Bool := false)
  /-- `CLOCK_MONITOR_FAULT` (R497). -/
  | clockMonitorFault (domain : Fin 7)
  /-- `SUPPLY_MONITOR_FAULT` (R567). -/
  | supplyMonitorFault (rail : BitVec 16)
  /-- `STEWARD_LOCKSTEP_FAULT` (R497). -/
  | stewardLockstepFault (f : StewardFault := .lockstep)
  /-- `SAF_ARM` (R506). -/
  | safArm (hp : Fin 2) (arm : Bool)
  /-- `SAF_CLEAR` (R508). -/
  | safClear (hp : Fin 2) (mask : BitVec 9)
  /-- `TRNG_HEALTH_FAIL` (R525). -/
  | trngHealthFail
  /-- `MEASUREMENT_RECOMPUTE` (R531). -/
  | measurementRecompute (fusion : Bool)
  /-- `DEBUG_CHALLENGE` (R536). -/
  | debugChallenge (hp : Fin 2)
  /-- `JTAG_INSTRUCTION` (R539). -/
  | jtagInstruction (j : JtagInstr) (b : BootInputs)
  /-- `TAMPER_DETECT` (R540). -/
  | tamperDetect (src : BitVec 4) (b : BootInputs)
  /-- `POWER_ON_RESET` (R542). -/
  | powerOnReset (b : BootInputs)
  /-- `SYSTEM_RESET` (R542). -/
  | systemReset (b : BootInputs)
  /-- `FUNCTION_READY` (R548). -/
  | functionReady (fn : DevFunction) (ups : CellUpsets := [])
  /-- `MEMORY_TRAINING_DONE` (R551). -/
  | memoryTrainingDone (r : Training)
  /-- `START_OF_TRANSMISSION` (R95). -/
  | startOfTransmission (p : Fin 16)
  /-- `LANE_SYNC_LOSS` (R95). -/
  | laneSyncLoss (p : Fin 16)
  deriving DecidableEq, Repr

end Sys2Proof
end

