-- ==== Sys2Proof/Decode.lean ====
section
/-! DEFINITION. The command a word of the opcode table spells: the table gives no row any bits, so no word spells one. -/

namespace Sys2Proof

/-- The command a word spells by the table's bits: none, because spec/opcode_table.json gives bits to no row. -/
def decodeTableWord (_nbits _w : Nat) : Option Instr := none

end Sys2Proof
end

