-- ==== Sys2Proof/Config.lean ====
section
/-! DEFINITION. What one part of the KN-3216 fixes and the spec leaves open: the free values. None of these constants has a body a proof could see. -/

namespace Sys2Proof.Config

/-- Cycles since the cell's start, as `RDSYS` selector 10 reads them (R214): wall time, which the model does not count. Log entry 2. -/
opaque freeCycles : Nat → BitVec 32

/-- Units the ledger charges an operation in a class counted in clock cycles or bank line accesses, which the model does not count (R484): by index and class. Log entry 9. -/
opaque freeUnits : Nat → Nat → Nat

/-- Which of several orders the device takes where the spec fixes none (R248). Log entry 2. -/
opaque freeOrder : Nat → Nat

/-- A rounding, a tie or a cost the spec does not settle: by index and place (R327, R364). Log entries 25 and 27. -/
opaque freeRound : Nat → Nat → Nat

/-- Sign (bit 31) and fraction of the NaN the device writes in a format of the given width: the spec says NaN and no pattern. Log entry 8. -/
opaque freeNan : Nat → BitVec 32

/-- Bits of a register or accumulator that the spec leaves open after an operation (R259, R269). Log entry 8. -/
opaque freeBits : Nat → BitVec 512

/-- Clock cycles a wait has counted, by index (R43, R161, R206, R231, R244, R312). Log entry 30. -/
opaque freeWait : Nat → Nat

/-- Where in its four rows and columns a clutch hub sits (R18). Log entry 51. -/
opaque hubPlace : Nat → Nat

/-- Is the higher side of a way tried first for a detour? (R19) Log entry 51. -/
opaque detourHigh : Nat → Bool

/-- Bits of the true random number generator (R525). Log entry 3. -/
opaque trng : Nat → BitVec 256

/-- SHA-256 of a byte string, an uninterpreted function. Log entry 4. -/
opaque sha256 : List (BitVec 8) → BitVec 256

/-- The digest of the OTP lifecycle fields that M5 is extended with at boot (R524): the spec does not lay the fields out, so it is an uninterpreted function of their values. Log entry 4. -/
opaque lifeDigest : List Nat → BitVec 256

/-- The vendor root key hash and the vendor debug key hash in OTP, fixed at manufacture (R518, R523). Log entry 4. -/
opaque vendorKeyHash : BitVec 256
opaque debugKeyHash : BitVec 256

/-- The wrapped identity key with its PUF helper data, 1,600 bytes, and the ledger costs and sensor trims, 512 bytes, in OTP, fixed at manufacture (R518), by byte. Log entry 4. -/
opaque wrappedKey : Nat → BitVec 8
opaque trims : Nat → BitVec 8

/-- The ciphertext of a 128-byte unit of LPDDR5X under a data key and a tweak key, by its tweak (R402, R524), uninterpreted. Log entry 4. -/
opaque xtsUnit : BitVec 256 → BitVec 256 → Nat → List (BitVec 8) → List (BitVec 8)

/-- DEVCERT, fixed at manufacture (R518), by byte. Log entry 4. -/
opaque devCert : Nat → BitVec 8

/-- Byte `j` of the signature of the device identity key over a byte string (R533), uninterpreted; the first argument indexes the random salt. Log entry 4. -/
opaque signIdentity : Nat → List (BitVec 8) → Nat → BitVec 8

/-- `DEV_ID` MAJOR and MINOR, by stepping (R467). Log entry 21. -/
opaque stepping : BitVec 8

/-- The device serial number, fixed at manufacture (R464). Log entry 21. -/
opaque serial : BitVec 64

end Sys2Proof.Config
end

