-- ==== Sys2Proof/Machine/State.lean ====
section
/-! DEFINITION. The state of the KN-3216: every register, buffer, memory, mode and pin the spec gives the device, as plain data, and the queue of commands that wait. -/

namespace Sys2Proof.Machine

/-- A sparse store: pairs of a key and a value, keys rising, no value equal to what an unlisted key reads as. -/
abbrev Assoc (α : Type) := List (Nat × α)

/-- A byte memory in the same form (`Host.Cell` is its pair). -/
abbrev Memory := List Host.Cell

/-! ## Steps and intake (02 to 05) -/

/-- State of a sensor port (R33, R37); `disabled` while `INK_PENB.EN` is 0. -/
inductive PortMode where
  | disabled | silent | active | returning
  deriving DecidableEq, Repr

/-- A decoded event: pixel, polarity, stamp and the late flag of R54. -/
structure Event where
  x : Nat
  y : Nat
  on : Bool
  stamp : Nat
  late : Bool
  deriving DecidableEq, Repr

/-- What waits before lane arbitration: an event past the filters or a trigger (R117, R118). -/
inductive Ready where
  | event (e : Event)
  | trigger (stamp : Nat) (chan : Nat)
  deriving DecidableEq, Repr

/-- One item the Intake is to push: destination queue address, its two words, and whether it is a lap copy (R113 to R116). -/
structure OutItem where
  cell : Fin 256
  queue : Fin 256
  w0 : DWord
  w1 : DWord
  lap : Bool
  deriving DecidableEq, Repr

/-- The four tables of one bank of a port (R108). -/
structure PortTables where
  hot : Assoc Word
  mesh : Assoc Word
  calrec : Assoc Word
  rmap : Assoc Word
  deriving DecidableEq, Repr

/-- One entry of the refractory table (R101). -/
structure RefrEntry where
  x : Nat
  y : Nat
  stamp : Nat
  deriving DecidableEq, Repr

/-- One sensor port. -/
structure Port where
  mode : PortMode
  rx : Bool
  lock : Bool
  horizon : Option Nat
  baseHi : BitVec 28
  baseLo : BitVec 28
  notb : Bool
  staged : Option (BitVec 28)
  prevTb : Option Nat
  fifo : List (List Word)
  rd : Nat
  flow : Bool
  held : List Event
  ready : List Ready
  lanes : List (List OutItem)
  refr : Assoc (List (Option RefrEntry))
  active : PortTables
  shadow : PortTables
  trail : Bool
  lead : Bool
  suspect : Bool
  excluded : Bool
  cohRun : Nat
  cmp : Bool
  trig : Option (Nat × Nat)
  events : Nat
  deriving DecidableEq, Repr

/-- The step unit (R42 to R52, R61 to R63). `halting`: a STOP clears the cells' RUN bits at the last ridge. -/
structure StepUnit where
  running : Bool
  stopping : Bool
  halting : Bool
  k : Nat
  due : Bool
  closed : Option (Nat × Nat)
  ridges : Nat
  sinceLoad : Option Nat
  refHz : Option Nat
  expired : BitVec 4
  hbeat : Bool
  hbPend : Nat
  intakeStopped : Bool
  lastStep : Word
  cnz : Vector Word 8
  deriving DecidableEq, Repr

/-- A table swap armed or just made: the step named, what is masked, and the status bits of R110 and R111. -/
structure TableSwap where
  armed : Bool
  step : Nat
  mask : BitVec 16
  lateArm : Bool
  copying : BitVec 16
  deriving DecidableEq, Repr

/-! ## Fabric and cells (05 to 11) -/

/-- An item in the mesh: where it goes, its words, the spike marking of R313 and what its end reports to; `refused`: it waits at its destination bridge and holds the link into it (R140). -/
structure MeshItem where
  src : Source
  cell : Fin 256
  queue : Fin 256
  words : List DWord
  spike : Option (Fin 4 × Nat)
  tok : Option (Fin 16)
  credit : Bool
  refused : Bool
  deriving DecidableEq, Repr

/-- A word in a cell queue with its start-of-item flag, its poisoned tag, and the cell step at its admission (R128, R130, R336, R419). -/
structure QWord where
  data : DWord
  soi : Bool
  poison : Bool
  step : Option Nat
  deriving DecidableEq, Repr

/-- One cell queue (R131 to R147, R155, R218). `mark` counts the unread words that were present when the open ridge became due; `fence` the pre-fence words once the cell has observed it. -/
structure Queue where
  words : List QWord
  last : DWord
  rd : Nat
  bp : Bool
  part : Bool
  mark : Option Nat
  fence : Option Nat
  ovr : Bool
  unr : Bool
  poison : Bool
  flpart : Bool
  ign : Bool
  deriving DecidableEq, Repr

/-- `CEL_STS.STATE` (R190). -/
inductive CellMode where
  | stopped | running | stopping | faulted | hosted
  deriving DecidableEq, Repr

/-- What a started operation still has to write when its token frees (R207). `engine` is its engine's major, 0 for the fabric; `order` its place among the cell's operations. -/
structure PendingOp where
  engine : Nat
  order : Nat
  status : Word
  sregs : List (Nat × Word)
  vregs : List (Nat × VReg)
  pregs : List (Nat × Bool)
  queue : Option (Fin 256)
  words : List QWord
  copies : Nat
  admitted : Bool
  noroute : Bool
  sends : Bool
  deriving DecidableEq, Repr

/-- A completion token: its status word and, while busy, the operation that holds it (R206 to R208). -/
structure Token where
  status : Word
  op : Option PendingOp
  deriving DecidableEq, Repr

/-- One loop stack entry: first and last instruction of the body, as instruction indexes, and the passes left (R212). -/
structure LoopEntry where
  start : Nat
  stop : Nat
  left : Nat
  deriving DecidableEq, Repr

/-- What the sequencer waits in (R221, R224). -/
inductive CellWait where
  | none
  | waitq (mask : BitVec 256) (limit : Nat) (dst : Nat)
  | ridge (dst : Nat)
  deriving DecidableEq, Repr

/-- A status record kept by the Steward; `refused` at the ridge count given, if queue 255 could not take it (R195, R196). -/
structure StatusRec where
  kind : BitVec 8
  arg : BitVec 4
  step : Word
  data : Word
  refused : Option Nat
  deriving DecidableEq, Repr

/-- An accumulator bank of the array: the outputs it holds, what an unlisted output holds (zero, or the free value at index `isOpen` plus its place), and whether its numbers are FP32 (R247, R248, R259). -/
structure AccBank where
  vals : Assoc (BitVec 48)
  isOpen : Option Nat
  isFloat : Bool
  deriving DecidableEq, Repr

/-- One logical cell. `clearing`: the clear pass of R184 has not ended. `stalled` is the window offset of the stall counter its sequencer counts in at present (R206, R231), `rebuild` the ridges its hosted shingles still need to rebuild their state (R22, R345). -/
structure Cell where
  mode : CellMode
  pc : BitVec 16
  sreg : Vector Word 32
  preg : Vector Bool 8
  vreg : Vector VReg 16
  greg : Vector GReg 8
  acc : Vector AccBank 4
  tok : Vector Token 16
  loops : List LoopEntry
  step : Option Nat
  wait : CellWait
  dueSeen : Bool
  moultDone : Bool
  moultPos : Nat
  moultFull : Bool
  clearing : Bool
  queues : Vector Queue 256
  thatch : Memory
  cwm : Memory
  hostedT : Nat
  hostedC : Nat
  hostedQ : Nat
  hosts : BitVec 16
  shActive : Bool
  cause : BitVec 4
  lost : BitVec 8
  restored : BitVec 4
  pfault : Word
  kept : List StatusRec
  frac : Nat
  spent : Nat
  reserved : Nat
  sentinel : Bool
  removed : Bool
  participates : Bool
  detectedRemap : Bool
  overdue : Bool
  stalled : Option Nat
  rebuild : Option Nat
  deriving DecidableEq, Repr

/-- A shingle of a hosted logical cell and the sibling that serves it, with the queues bound to it (R17, R171). -/
structure HostedShingle where
  lcell : Fin 256
  port : Fin 16
  col : Fin 64
  row : Fin 64
  sibling : Fin 256
  queues : List (Fin 256)
  tbase : Nat
  cbase : Nat
  deriving DecidableEq, Repr

/-- A pending `RDUCE` reduction of a clutch hub (R234, R235). -/
structure Reduction where
  mask : BitVec 16
  op : Nat
  queue : Fin 256
  received : BitVec 16
  contribs : List (Nat × VReg)
  step : Nat
  deriving DecidableEq, Repr

/-- One clutch: service, performance level (`req`: the request that has taken effect), governor, pending reductions (R21, R234, R469, R470, R474, R489). -/
structure Clutch where
  inService : Bool
  served : Bool
  req : BitVec 2
  level : BitVec 2
  cap : BitVec 2
  chg : Bool
  gated : Bool
  gov : Nat
  up : Nat
  dn : Nat
  lastS : Nat
  spent : Assoc Nat
  allow : Nat
  allowNext : Nat
  allowPast : Assoc Nat
  reductions : Vector (Option Reduction) 16
  deriving DecidableEq, Repr

/-! ## Motion, Fusion, tracking, scene memory (12 to 14) -/

/-- Three FP32 numbers. -/
structure Vec3 where
  x : Word
  y : Word
  z : Word
  deriving DecidableEq, Repr

/-- A quaternion in FP32. -/
structure Quat where
  w : Word
  x : Word
  y : Word
  z : Word
  deriving DecidableEq, Repr

/-- The state of ego-motion at a knot (12, Ego-motion). -/
structure Knot where
  q : Quat
  p : Vec3
  v : Vec3
  omega : Vec3
  deriving DecidableEq, Repr

/-- An accepted motion frame: source, kind, completed stamp and its six values (R326, R327). -/
structure MotFrame where
  twist : Bool
  source : Fin 16
  stamp : Nat
  vals : Vector Word 6
  deriving DecidableEq, Repr

/-- A word of a motion FIFO or of a privileged queue: its data, its start-of-item flag, and whether its parity fails (R128). -/
structure FifoWord where
  data : DWord
  soi : Bool
  poison : Bool
  deriving DecidableEq, Repr

/-- A motion port: its FIFO, four words to a frame, and the threshold signal of R325. -/
structure MotionPort where
  fifo : List FifoWord
  above : Bool
  deriving DecidableEq, Repr

/-- Ego-motion: kept frames in stamp order, knots from index `first`, newest last (R329 to R334). -/
structure Ego where
  frames : List MotFrame
  knots : List Knot
  first : Nat
  levelled : Bool
  xstale : Bool
  total : Nat
  lastHorizon : Option Nat
  deriving DecidableEq, Repr

/-- An item forwarded by an output bridge: its cell, its step and its words (R336, R387, R419). -/
structure BridgeItem where
  cell : Fin 256
  step : Nat
  words : List DWord
  deriving DecidableEq, Repr

/-- A zone state (R349), in the order of the ZONE record's codes. -/
inductive ZoneState where
  | clear | intrusion | disputed | blind
  deriving DecidableEq, Repr

/-- The last evaluation of a zone (`FUS_ZSTSz`). -/
structure Zone where
  state : ZoneState
  en : Bool
  nocc : Nat
  deriving DecidableEq, Repr

/-- What Fusion keeps of a sensor (`FUS_SNSn`). -/
structure Sensor where
  suspect : Bool
  usable : Bool
  drun : Nat
  deriving DecidableEq, Repr

/-- One bank of the Fusion tables (R343). -/
structure FusTables where
  zone : Assoc Word
  cov : Assoc Word
  mext : Assoc Word
  deriving DecidableEq, Repr

/-- An item of the open step that Fusion has applied: its cell, its words, the grid cell or accumulator it went to, and the open value it left where the word was uncorrectable (R23, R336, R504). -/
structure Given where
  cell : Fin 256
  words : List DWord
  place : Nat
  raw : Option Nat
  deriving DecidableEq, Repr

/-- The grid and the accumulators as the open step found them (R23). -/
structure FusBase where
  grid : Memory
  cellMeta : Memory
  touched : List Nat
  acc : Assoc Nat
  deriving DecidableEq, Repr

/-- Fusion (R335 to R353). -/
structure Fusion where
  grid : Memory
  cellMeta : Memory
  gox : Int
  goy : Int
  evalStep : Word
  acc : Assoc Nat
  active : FusTables
  shadow : FusTables
  dueBank : Option FusTables
  sensors : Vector Sensor 16
  zones : Vector Zone 16
  stale : Bool
  abandoned : Bool
  touched : List Nat
  inbox : List BridgeItem
  given : List Given
  base : FusBase
  deriving DecidableEq, Repr

/-- State of a track (R356). -/
inductive TrackState where
  | new | tentative | confirmed
  deriving DecidableEq, Repr

/-- A Track Table entry (R356). -/
structure Track where
  valid : Bool
  obj : Bool
  state : TrackState
  port : Fin 16
  cls : Byte
  miss : Nat
  hits : Nat
  id : Word
  hist : Word
  birth : Word
  lastHit : Word
  extent : Word
  x : Word
  y : Word
  vx : Word
  vy : Word
  desc : DWord
  tlast : Nat
  deriving DecidableEq, Repr

/-- A buffered observation: a feature in rectified eighths of a pixel or an object in the world frame (R354, R355). -/
structure Obs where
  cell : Fin 256
  obj : Bool
  port : Fin 16
  cls : Byte
  score : Nat
  u : Int
  v : Int
  x : Word
  y : Word
  stamp : Nat
  desc : DWord
  extentMm : Nat
  flow : Option (BitVec 16 × BitVec 16)
  deriving DecidableEq, Repr

/-- The Track Manager (R356 to R376). `waiting` holds the closed steps that await association with their ends, oldest first (R52); `gated`: its clock is held (R474). -/
structure Tracker where
  table : List (Nat × Track)
  idCtr : Word
  wrapped : Bool
  obs : List (Nat × List Obs)
  waiting : List (Nat × Nat)
  lastAssoc : Option Nat
  rleft : Nat
  behind : Bool
  gated : Bool
  deriving DecidableEq, Repr

/-- One share of a retrieval, dealt to a retrieval clutch (R391, R392, R397): its buckets; how far the hub has streamed it (`stage` items of queue 240, the buckets not begun, the slots of the begun one); what has come back. -/
structure Share where
  clutch : Fin 16
  buckets : List Nat
  stage : Nat
  todo : List Nat
  slots : List Nat
  entries : List (Nat × Word × Word)
  scanned : Option Nat
  deriving DecidableEq, Repr

/-- How a retrieval ends (14, RESULT record). -/
inductive ResultStatus where
  | ok | timeout | erased | disabled
  deriving DecidableEq, Repr

/-- An accepted retrieval (R394 to R399). `doom` is the status an erase or a disable gives it at the next ridge; `ended` its result until a ridge issues it. -/
structure Retrieval where
  rid : BitVec 16
  k : Nat
  cx : Word
  cy : Word
  radius : Nat
  gmask : BitVec 16
  rmax : Nat
  query : List Byte
  k0 : Option Nat
  snap : Option Word
  ridges : Nat
  shares : List Share
  doom : Option ResultStatus
  ended : Option (ResultStatus × Nat × List (List DWord × Word))
  deriving DecidableEq, Repr

/-- A token written since the last frame: its cell and step, its slot, SCORE, WSEQ and words (R389). -/
structure FreshToken where
  cell : Fin 256
  step : Nat
  slot : Nat
  score : Nat
  wseq : Word
  words : List DWord
  deriving DecidableEq, Repr

/-- Scene Memory (R378 to R402): token memory by byte of the region, the directory, the write counter, the tokens of the next frame; `gated`: its clock is held (R474). -/
structure Scene where
  mem : Memory
  next : Assoc Nat
  count : Assoc Nat
  wctr : Word
  fresh : List FreshToken
  frameFirst : Option Nat
  taken : Assoc Nat
  retrievals : List Retrieval
  erasing : Bool
  geoErr : Bool
  avail : Nat
  inbox : List BridgeItem
  gated : Bool
  deriving DecidableEq, Repr

/-! ## Host ports, power, safety, security (15 to 20) -/

/-- What the device has written to host memory: a record in a ring at a byte count, a PAD by its header, data a command writes, or a count in the port's pointer block (R409). The log is newest first. -/
inductive HostWrite where
  | record (port : Fin 2) (ring : Nat) (count : Word) (words : List DWord)
  | pad (port : Fin 2) (ring : Nat) (count : Word) (head : List DWord)
  | data (port : Fin 2) (addr : Nat) (bytes : List Byte)
  | count (port : Fin 2) (addr : Nat) (value : Word)
  deriving DecidableEq, Repr

/-- A command between its start and its completion (R422 to R424): `data` and `load` are what it has read from host memory and still needs, `after` its place in the order of fetch: more than that of a command fetched before it that was in progress then (R534). -/
structure ActiveCmd where
  op : Nat
  tag : BitVec 16
  desc : Descriptor
  committed : Bool
  data : List Byte
  load : Option (Option Container × Ecc)
  after : Nat
  deriving DecidableEq, Repr

/-- A staged CELL record (R420). -/
structure StagedRec where
  cell : Fin 256
  ring : Nat
  words : List DWord
  deriving DecidableEq, Repr

/-- The mailbox of a port (R460 to R464). -/
structure Mailbox where
  sel : BitVec 16
  valid : Bool
  badsel : Bool
  capturing : Bool
  step : Word
  d : Vector Word 4
  deriving DecidableEq, Repr

/-- One host port: link (`lost`: down by a link loss; `owed`: wake notices that await the link, R477), ring counts (P by ring; descriptors fetched, of these those that have had their turn, and those abandoned before it: R422, R424), the command in progress, staged records, the output queues (the records that await the link by their rings, oldest first: R127), the register writes that stall until a wake completes (R475), mailbox. -/
structure HostPort where
  up : Bool
  bme : Bool
  gen : BitVec 2
  lost : Bool
  owed : List Word
  prod : Assoc Word
  fetched : Word
  started : Word
  gone : List Word
  cmd : Option ActiveCmd
  staged : List StagedRec
  stagedBytes : Nat
  outq : List (Nat × List DWord)
  late : List (Nat × BitVec 4 × Word)
  mbx : Mailbox
  deriving DecidableEq, Repr

/-- A semaphore: its holder, LEASE and LEFT (R432). -/
structure Sem where
  owner : Option (Fin 2)
  lease : Byte
  left : Byte
  deriving DecidableEq, Repr

/-- An image in a program slot (15, Program slots). -/
structure Slot where
  image : Image
  digest : BitVec 256
  signer : BitVec 4
  svn : BitVec 6
  advance : Bool
  deriving DecidableEq, Repr

/-- Program slots and a pending swap: the port that asked, its TAG, the named step, and whether the swap has been made and waits for its first step (R429 to R431). -/
structure Slots where
  active : Option Slot
  staged : Option Slot
  swap : Option (Fin 2 × Word)
  swapped : Bool
  snapshots : Word
  lastSnap : DWord
  deriving DecidableEq, Repr

/-- Power states (R473 to R483). `entry` is the target of a pending or committed entry, `owner` the port whose POWER command waits for it, `qOwner` the one whose queued request waits, `qMask` the wake mask of that request, `waking` the state an exit in progress goes to. -/
structure Power where
  state : BitVec 2
  point : Nat
  entry : Option (BitVec 2)
  owner : Option (Fin 2)
  committed : Bool
  queued : Option (BitVec 2)
  qOwner : Option (Fin 2)
  qMask : BitVec 4
  wakePend : Bool
  entryMask : BitVec 4
  waking : Option (BitVec 2)
  wakeSrc : BitVec 4
  wakePins : BitVec 4
  lastClosed : Word
  lastWake : Word
  temp : Word
  deriving DecidableEq, Repr

/-- The ledger's device side and its wide totals by mailbox selector (R485, R491). -/
structure Ledger where
  dLast : Option Nat
  totals : Assoc Nat
  deriving DecidableEq, Repr

/-- Faults and fault pins (R495 to R516). `latched` and `live` are numbered as `SAF_FSTS`. -/
structure Safety where
  latched : BitVec 32
  live : BitVec 32
  first : Word
  log : Vector (Word × Word) 16
  seq : Word
  ridgeSince : Bool
  sentSince : BitVec 16
  noFault : Bool
  hot : Bool
  deriving DecidableEq, Repr

/-- Keys, lifecycle and measurements (R518 to R541). `memKeys` are the XTS data key and tweak key of LPDDR5X, `flash` the firmware copies this device has written over those it was given, `booted` the copy that booted, `halted` that the ROM found no firmware. -/
structure Security where
  enrolled : BitVec 4
  revoked : BitVec 4
  reqsig : Bool
  keyHash : Vector (BitVec 256) 4
  imgKey : Vector (BitVec 256) 4
  svnFw : BitVec 6
  svnImg : BitVec 6
  m : Vector (BitVec 256) 6
  busyInk : Bool
  busyFus : Bool
  dbg : BitVec 2
  trngFail : Bool
  idKey : Bool
  challenge : Option (BitVec 256)
  tamper : Word
  memKeys : Option (BitVec 256 × BitVec 256)
  flash : List (Nat × FlashCopy)
  booted : Option Nat
  fw : Word
  running : Bool
  halted : Bool
  deriving DecidableEq, Repr

/-- Discovery and readiness (R14 to R21, R466, R548 to R551). Every router's table has an entry for a logical cell of `routed`, and the routes go around the positions of `dead` (R18, R19). -/
structure Discovery where
  tests : Vector PosTest 256
  lcell : Vector (Option (Fin 256)) 256
  healthy : BitVec 256
  hubFail : BitVec 16
  routed : BitVec 256
  dead : BitVec 256
  hosted : List HostedShingle
  ready : BitVec 7
  readySp : BitVec 16
  memGib : Byte
  memSts : Word
  boot : Word
  cfgMismatch : Bool
  cfgAddr : BitVec 20
  accLast : Word
  deriving DecidableEq, Repr

/-- The output pins (R545), numbered as DETAIL of cause 0x27 for `held`, the pins that something holds at a level (R502): zone levels (bits 0 to 3 the pins, the rest what `FUS_ZSTSz.LOW` shows for zones without one), the fault pair, `ATTN_n` asserted. `HBEAT` and `FLOW` are in the step unit and the ports. -/
structure Pins where
  zone : BitVec 16
  faultA : Bool
  faultB : Bool
  attn : Bool
  held : List (Fin 8 × Bool)
  deriving DecidableEq, Repr

/-- The whole device. `weights` is the Weight Store. `pending` is the queue of commands, first in first out; `par` holds the parity bits of the registers where they are not those of the reset values (R457); `free` counts the free values taken; `waits` and `latWaits` give a counter of clock cycles, and its copy, the index of the free number of cycles counted on top of what `cnt` and `lat` hold (log entry 30). -/
structure State where
  pending : List Instr
  free : Nat
  hostOut : List HostWrite
  regs : Assoc Word
  par : Assoc Bool
  cnt : Assoc Word
  lat : Assoc Word
  waits : Assoc Nat
  latWaits : Assoc Nat
  step : StepUnit
  ports : Vector Port 16
  lastPort : Fin 16
  inkSwap : TableSwap
  fusSwap : TableSwap
  mesh : List MeshItem
  cells : Vector Cell 256
  weights : Memory
  clutches : Vector Clutch 16
  motion : Vector MotionPort 4
  ego : Ego
  fus : Fusion
  pq : Vector (List FifoWord) 16
  pqOvr : BitVec 16
  trk : Tracker
  scm : Scene
  hosts : Vector HostPort 2
  sems : Vector Sem 64
  slots : Slots
  pwr : Power
  led : Ledger
  saf : Safety
  sec : Security
  disc : Discovery
  pins : Pins
  deriving DecidableEq, Repr

/-- Reasons the machine could stop with. No command of the KN-3216 stops it: every fault of the spec is a next state (NOTES.md, Stops). -/
inductive Fault where
  /-- Raised by nothing; kept so that the interface has a type of faults. Safe. -/
  | unreachable
  deriving DecidableEq, Repr

/-- Reasons a command could be refused. -/
inductive Refusal where
  /-- The command has no meaning in the model. Raised only by an arm of `exec` that names it. Safe. -/
  | notModelled (mnemonic : String)
  deriving DecidableEq, Repr

/-! ## Reset (R543, R545 and each chapter's reset column) -/

/-- Empty tables of a port. -/
def PortTables.reset : PortTables := ⟨[], [], [], []⟩

/-- A sensor port after reset. -/
def Port.reset : Port where
  mode := .disabled
  rx := false
  lock := false
  horizon := none
  baseHi := 0
  baseLo := 0
  notb := true
  staged := none
  prevTb := none
  fifo := []
  rd := 0
  flow := false
  held := []
  ready := []
  lanes := []
  refr := []
  active := PortTables.reset
  shadow := PortTables.reset
  trail := false
  lead := false
  suspect := false
  excluded := false
  cohRun := 0
  cmp := false
  trig := none
  events := 0

/-- The step unit after reset. -/
def StepUnit.reset : StepUnit where
  running := false
  stopping := false
  halting := false
  k := 0
  due := false
  closed := none
  ridges := 0
  sinceLoad := none
  refHz := none
  expired := 0
  hbeat := false
  hbPend := 0
  intakeStopped := false
  lastStep := 0
  cnz := Vector.replicate 8 0

/-- A table swap after reset. -/
def TableSwap.reset : TableSwap := ⟨false, 0, 0, false, 0⟩

/-- A cell queue after reset: empty, last word delivered zero (R135). -/
def Queue.reset : Queue where
  words := []
  last := 0
  rd := 0
  bp := false
  part := false
  mark := none
  fence := none
  ovr := false
  unr := false
  poison := false
  flpart := false
  ign := false

/-- A token never taken holds status zero (R208). -/
def Token.reset : Token := ⟨0, none⟩

/-- A logical cell after reset. -/
def Cell.reset : Cell where
  mode := .stopped
  pc := 0
  sreg := Vector.replicate 32 0
  preg := Vector.replicate 8 false
  vreg := Vector.replicate 16 0
  greg := Vector.replicate 8 0
  acc := Vector.replicate 4 ⟨[], none, false⟩
  tok := Vector.replicate 16 Token.reset
  loops := []
  step := none
  wait := .none
  dueSeen := false
  moultDone := false
  moultPos := 0
  moultFull := false
  clearing := false
  queues := Vector.replicate 256 Queue.reset
  thatch := []
  cwm := []
  hostedT := 0
  hostedC := 0
  hostedQ := 0
  hosts := 0
  shActive := false
  cause := 0
  lost := 0
  restored := 0
  pfault := 0
  kept := []
  frac := 0
  spent := 0
  reserved := 0
  sentinel := false
  removed := false
  participates := false
  detectedRemap := false
  overdue := false
  stalled := none
  rebuild := none

/-- A clutch after reset: PL2 asked and in force, no cap, not in service (R492). -/
def Clutch.reset : Clutch where
  inService := false
  served := false
  req := 2
  level := 2
  cap := 3
  chg := false
  gated := false
  gov := 0
  up := 0
  dn := 0
  lastS := 0
  spent := []
  allow := 4294967295
  allowNext := 4294967295
  allowPast := []
  reductions := Vector.replicate 16 none

/-- Ego-motion after reset. -/
def Ego.reset : Ego := ⟨[], [], 0, false, false, 0, none⟩

/-- Fusion after reset: GOX and GOY are -256 (R339). -/
def Fusion.reset : Fusion where
  grid := []
  cellMeta := []
  gox := -256
  goy := -256
  evalStep := 0
  acc := []
  active := ⟨[], [], []⟩
  shadow := ⟨[], [], []⟩
  dueBank := none
  sensors := Vector.replicate 16 ⟨false, false, 0⟩
  zones := Vector.replicate 16 ⟨.clear, false, 0⟩
  stale := false
  abandoned := false
  touched := []
  inbox := []
  given := []
  base := ⟨[], [], [], []⟩

/-- The Track Manager after reset: an empty table. The identifier counter is 1, as an image load sets it (DESIGN CHOICE, log entry 5). -/
def Tracker.reset : Tracker := ⟨[], 1, false, [], [], none, 0, false, false⟩

/-- Scene Memory after reset. -/
def Scene.reset : Scene where
  mem := []
  next := []
  count := []
  wctr := 0
  fresh := []
  frameFirst := none
  taken := []
  retrievals := []
  erasing := false
  geoErr := false
  avail := 0
  inbox := []
  gated := false

/-- The mailbox after reset. -/
def Mailbox.reset : Mailbox := ⟨0, false, false, false, 0, Vector.replicate 4 0⟩

/-- A host port after reset: link down. -/
def HostPort.reset : HostPort where
  up := false
  bme := false
  gen := 0
  lost := false
  owed := []
  prod := []
  fetched := 0
  started := 0
  gone := []
  cmd := none
  staged := []
  stagedBytes := 0
  outq := []
  late := []
  mbx := Mailbox.reset

/-- Power after reset: S0, nothing pending. -/
def Power.reset : Power where
  state := 0
  point := 0
  entry := none
  owner := none
  committed := false
  queued := none
  qOwner := none
  qMask := 0
  wakePend := false
  entryMask := 0
  waking := none
  wakeSrc := 0
  wakePins := 0
  lastClosed := 0xFFFFFFFF
  lastWake := 0
  temp := 0

/-- Safety after reset: no cause latched, the fault pins at fault (R505). -/
def Safety.reset : Safety where
  latched := 0
  live := 0
  first := 0
  log := Vector.replicate 16 (0, 0)
  seq := 0
  ridgeSince := false
  sentSince := 0
  noFault := false
  hot := false

/-- Security after reset: an OPEN part (DESIGN CHOICE, log entry 5). -/
def Security.reset : Security where
  enrolled := 0
  revoked := 0
  reqsig := false
  keyHash := Vector.replicate 4 0
  imgKey := Vector.replicate 4 0
  svnFw := 0
  svnImg := 0
  m := Vector.replicate 6 0
  busyInk := false
  busyFus := false
  dbg := 0
  trngFail := false
  idKey := false
  challenge := none
  tamper := 0
  memKeys := none
  flash := []
  booted := none
  fw := 0
  running := false
  halted := false

/-- Discovery after reset: nothing found yet. -/
def Discovery.reset : Discovery where
  tests := Vector.replicate 256 .healthy
  lcell := Vector.replicate 256 none
  healthy := 0
  hubFail := 0
  routed := 0
  dead := 0
  hosted := []
  ready := 0
  readySp := 0
  memGib := 0
  memSts := 0
  boot := 0
  cfgMismatch := false
  cfgAddr := 0
  accLast := 0

/-- The machine right after reset. -/
def State.reset : State where
  pending := []
  free := 0
  hostOut := []
  regs := []
  par := []
  cnt := []
  lat := []
  waits := []
  latWaits := []
  step := StepUnit.reset
  ports := Vector.replicate 16 Port.reset
  lastPort := 15
  inkSwap := TableSwap.reset
  fusSwap := TableSwap.reset
  mesh := []
  cells := Vector.replicate 256 Cell.reset
  weights := []
  clutches := Vector.replicate 16 Clutch.reset
  motion := Vector.replicate 4 ⟨[], false⟩
  ego := Ego.reset
  fus := Fusion.reset
  pq := Vector.replicate 16 []
  pqOvr := 0
  trk := Tracker.reset
  scm := Scene.reset
  hosts := Vector.replicate 2 HostPort.reset
  sems := Vector.replicate 64 ⟨none, 0, 0⟩
  slots := ⟨none, none, none, false, 0, 0⟩
  pwr := Power.reset
  led := ⟨none, []⟩
  saf := Safety.reset
  sec := Security.reset
  disc := Discovery.reset
  pins := ⟨0, false, true, false, []⟩

end Sys2Proof.Machine
end

