-- ==== Sys2Proof/Machine/Assoc.lean ====
section
/-! DEFINITION. Sparse stores in canonical form: the one way registers, counters and memories are read and written. -/

namespace Sys2Proof.Machine

variable {α : Type}

/-- The value at a key, `d` where nothing is listed. -/
def assocGet (m : List (Nat × α)) (d : α) (k : Nat) : α :=
  match m with
  | [] => d
  | (k', v) :: t => if k' = k then v else assocGet t d k

/-- Take a key out. -/
def assocErase (m : List (Nat × α)) (k : Nat) : List (Nat × α) :=
  match m with
  | [] => []
  | (k', v) :: t => if k' = k then assocErase t k else (k', v) :: assocErase t k

/-- List a value at its place in rising key order. -/
def assocPut (m : List (Nat × α)) (k : Nat) (v : α) : List (Nat × α) :=
  match m with
  | [] => [(k, v)]
  | (k', v') :: t =>
    if k < k' then (k, v) :: (k', v') :: t
    else if k' = k then (k, v) :: t
    else (k', v') :: assocPut t k v

/-- Write a value: listed unless it is what the key reads as unlisted. -/
def assocSet [DecidableEq α] (m : List (Nat × α)) (d : α) (k : Nat) (v : α) : List (Nat × α) :=
  if v = d then assocErase m k else assocPut m k v

/-- Keys strictly rising, all above a bound already seen. -/
def assocRising (lo : Option Nat) (m : List (Nat × α)) : Bool :=
  match m with
  | [] => true
  | (k, _) :: t => (match lo with | none => true | some l => decide (l < k)) && assocRising (some k) t

/-- Canonical form: keys rising, no value equal to the default of its key. -/
def assocWf [DecidableEq α] (d : Nat → α) (m : List (Nat × α)) : Bool :=
  assocRising none m && m.all fun kv => decide (kv.2 ≠ d kv.1)

/-! ## Byte memories: an unlisted address reads zero (DESIGN CHOICE, log entry 6) -/

/-- The canonical form of a memory. -/
def Memory.wf (m : Memory) : Bool := assocWf (fun _ => 0) m

/-- One byte. -/
def memRead (m : Memory) (a : Nat) : Byte := assocGet m 0 a

/-- Write one byte. -/
def memWrite (m : Memory) (a : Nat) (v : Byte) : Memory := assocSet m 0 a v

/-- `n` bytes from an address, lowest first. -/
def memBytes (m : Memory) (a n : Nat) : List Byte :=
  match n with
  | 0 => []
  | k + 1 => memRead m a :: memBytes m (a + 1) k

/-- Write bytes from an address up. -/
def memWriteBytes (m : Memory) (a : Nat) (bs : List Byte) : Memory :=
  match bs with
  | [] => m
  | b :: t => memWriteBytes (memWrite m a b) (a + 1) t

/-- A little-endian number of bytes. -/
def leNat (bs : List Byte) : Nat :=
  match bs with
  | [] => 0
  | b :: t => b.toNat + 256 * leNat t

/-- The `n` bytes of a number, lowest first. -/
def natLe (n v : Nat) : List Byte :=
  match n with
  | 0 => []
  | k + 1 => BitVec.ofNat 8 v :: natLe k (v / 256)

/-- `n` little-endian bytes as a number. -/
def memNat (m : Memory) (a n : Nat) : Nat := leNat (memBytes m a n)

/-- Write a number as `n` little-endian bytes. -/
def memWriteNat (m : Memory) (a n v : Nat) : Memory := memWriteBytes m a (natLe n v)

/-- Zero `n` bytes from an address. -/
def memZero (m : Memory) (a n : Nat) : Memory := m.filter fun kv => decide (kv.1 < a) || decide (a + n ≤ kv.1)

end Sys2Proof.Machine
end

