-- ==== Sys2Proof/Machine/RegMap.lean ====
section
/-! DEFINITION. The BAR0 register map (R443): every register the defining chapters list, with the bits of each field class and its reset value. -/

namespace Sys2Proof.Machine

/-- The default decay table, entry i = min(65535, round(65536 exp(-i/32))) (06, Lazy decay). -/
def decayDefault : List Nat :=
  [65535, 63520, 61565, 59671, 57835, 56056, 54331, 52660, 51039, 49469, 47947, 46472, 45042, 43656, 42313, 41011, 39750, 38527, 37341, 36192, 35079, 34000, 32954, 31940, 30957, 30005, 29081, 28187, 27319, 26479, 25664, 24875] ++
  [24109, 23368, 22649, 21952, 21276, 20622, 19987, 19372, 18776, 18199, 17639, 17096, 16570, 16060, 15566, 15087, 14623, 14173, 13737, 13314, 12905, 12508, 12123, 11750, 11388, 11038, 10698, 10369, 10050, 9741, 9441, 9151] ++
  [8869, 8596, 8332, 8076, 7827, 7586, 7353, 7127, 6907, 6695, 6489, 6289, 6096, 5908, 5726, 5550, 5380, 5214, 5054, 4898, 4747, 4601, 4460, 4323, 4190, 4061, 3936, 3815, 3697, 3584, 3473, 3366] ++
  [3263, 3162, 3065, 2971, 2879, 2791, 2705, 2622, 2541, 2463, 2387, 2314, 2243, 2174, 2107, 2042, 1979, 1918, 1859, 1802, 1746, 1693, 1641, 1590, 1541, 1494, 1448, 1403, 1360, 1318, 1278, 1238] ++
  [1200, 1163, 1128, 1093, 1059, 1027, 995, 964, 935, 906, 878, 851, 825, 800, 775, 751, 728, 706, 684, 663, 642, 623, 604, 585, 567, 550, 533, 516, 500, 485, 470, 456] ++
  [442, 428, 415, 402, 390, 378, 366, 355, 344, 333, 323, 313, 303, 294, 285, 276, 268, 260, 252, 244, 236, 229, 222, 215, 209, 202, 196, 190, 184, 178, 173, 168] ++
  [162, 157, 153, 148, 143, 139, 135, 131, 127, 123, 119, 115, 112, 108, 105, 102, 99, 95, 93, 90, 87, 84, 82, 79, 77, 74, 72, 70, 68, 66, 64, 62] ++
  [60, 58, 56, 54, 53, 51, 50, 48, 47, 45, 44, 42, 41, 40, 39, 37, 36, 35, 34, 33, 32, 31, 30, 29, 28, 27, 27, 26, 25, 24, 23, 23]

/-- What a register is beside its CFG, CTL and ENB fields: a plain register, a counter, the ridge copy of the counter at a key, a semaphore, or the mailbox selector (R5, R432, R460). -/
inductive RegKind where
  | plain
  | cnt
  | lat (counter : Nat)
  | sem
  | mbx
  deriving DecidableEq, Repr

/-- One row of a register table: `count` registers from `base`, `stride` bytes apart. -/
structure RegRow where
  base : Nat
  stride : Nat
  count : Nat
  kind : RegKind
  cfg : Nat
  ctl : Nat
  enb : Nat
  reset : Nat
  deriving DecidableEq, Repr

def rowCfg (base count mask reset : Nat) : RegRow := ⟨base, 4, count, .plain, mask, 0, 0, reset⟩
def rowCtl (base count mask reset : Nat) : RegRow := ⟨base, 4, count, .plain, 0, mask, 0, reset⟩
def rowEnb (base : Nat) : RegRow := ⟨base, 4, 1, .plain, 0, 0, 1, 0⟩
def rowSts (base count : Nat) : RegRow := ⟨base, 4, count, .plain, 0, 0, 0, 0⟩
def rowCnt (base count : Nat) : RegRow := ⟨base, 4, count, .cnt, 0, 0, 0, 0⟩
def rowLat (base count counter : Nat) : RegRow := ⟨base, 4, count, .lat counter, 0, 0, 0, 0⟩

/-- DEV (R66, R467, R432). -/
def devRows : List RegRow :=
  [rowSts 0x00 6, rowSts 0x40 2, rowCnt 0x80 3, rowLat 0xA0 3 0x80, rowSts 0xC0 1,
   ⟨0x100, 4, 1, .mbx, 0, 0, 0, 0⟩, rowSts 0x104 2, rowSts 0x110 4,
   rowCfg 0x200 1 0x3F 0x08, rowEnb 0x204, rowSts 0x208 3, rowCfg 0x214 1 0xFFFFFFFF 0x000C3500,
   rowCnt 0x220 4, rowLat 0x230 4 0x220, rowSts 0x240 1, rowSts 0x300 8,
   ⟨0x400, 4, 64, .sem, 0, 0, 0, 0⟩]

/-- HIF (R442). -/
def hifRows : List RegRow :=
  [⟨0x00, 4, 1, .plain, 0x2, 0, 0x1, 0⟩, rowCfg 0x04 1 0xFFFFF800 0, rowCfg 0x08 1 0xFFFFFFFF 0,
   rowSts 0x0C 2, rowCfg 0x20 5 0x1FF 0x02, rowCnt 0x40 8, rowLat 0x80 8 0x40, rowSts 0xC0 1,
   ⟨0x1000, 16, 256, .plain, 0xFFFFF000, 0, 0, 0⟩, ⟨0x1004, 16, 256, .plain, 0xFFFFFFFF, 0, 0, 0⟩,
   ⟨0x1008, 16, 1, .plain, 0x0300001F, 0, 0x80000000, 0x04⟩,
   ⟨0x1018, 16, 1, .plain, 0x0300001F, 0, 0x80000000, 0x01000010⟩,
   ⟨0x1028, 16, 254, .plain, 0x0300001F, 0, 0x80000000, 0x02000010⟩,
   ⟨0x100C, 16, 256, .plain, 0, 0xFFFFFFFF, 0, 0⟩]

/-- INK device registers (R66, R126). -/
def inkRows : List RegRow :=
  [rowCtl 0x100 1 0xFFFFFFFF 0, rowCtl 0x104 1 0x8000FFFF 0, rowSts 0x108 1, rowCnt 0x140 3, rowLat 0x160 3 0x140,
   rowCfg 0xF00 1 0xFFFFFFFF 0x00030D40, rowCfg 0xF04 1 0xFFFF 0x07D0, rowCfg 0xF08 1 0x1 1]

/-- The window of one sensor port (R66, R95, R126, R158). -/
def inkPortRows : List RegRow :=
  [rowEnb 0x000, rowCfg 0x004 1 0x00F0FF0F 0x00005A08, rowCfg 0x008 1 0xF 0x1, rowCfg 0x00C 1 0x07FF07FF 0x031F04FF,
   rowCfg 0x010 1 0x1 0, rowSts 0x020 1, rowCnt 0x040 13, rowLat 0x080 13 0x040, rowSts 0x0C0 2, rowSts 0x100 16,
   rowCfg 0x200 1 0x000103FF 0, rowCfg 0x204 1 0x013F3F00 0x00103000, rowSts 0x208 2, rowCnt 0x240 10,
   rowLat 0x280 10 0x240, rowCnt 0x300 1, rowSts 0x308 1, rowLat 0x340 1 0x300,
   rowSts 0xF00 1, rowCnt 0xF04 4, rowLat 0xF14 4 0xF04]

/-- MOT (R353). -/
def motRows : List RegRow :=
  [⟨0x00, 0x20, 4, .plain, 0, 0, 1, 0⟩, ⟨0x04, 0x20, 4, .plain, 0x87FF07FF, 0, 0, 0x03000100⟩,
   ⟨0x08, 0x20, 4, .plain, 0, 0, 0, 0⟩, ⟨0x0C, 0x20, 4, .cnt, 0, 0, 0, 0⟩, ⟨0x10, 0x20, 4, .cnt, 0, 0, 0, 0⟩,
   ⟨0x14, 0x20, 4, .lat 0x0C, 0, 0, 0, 0⟩, ⟨0x18, 0x20, 4, .lat 0x10, 0, 0, 0, 0⟩,
   rowCfg 0x100 16 0x80000303 0x100, rowCfg 0x200 1 0xFFFFFFFF 0x00210A3D, rowCfg 0x204 1 0xFFFF 0x07D0, rowSts 0x208 1,
   rowCnt 0x300 16, rowCnt 0x340 16, rowCnt 0x380 16, rowLat 0x400 16 0x300, rowLat 0x440 16 0x340, rowLat 0x480 16 0x380,
   rowCnt 0x500 4, rowLat 0x540 4 0x500]

/-- FUS (R353). -/
def fusRows : List RegRow :=
  [rowCfg 0x00 1 0x0F0FFFFF 0x00001040, rowCfg 0x04 1 0x0007FFFF 0x00014040, rowCfg 0x08 1 0xFFFF03FF 0x00000130,
   rowCfg 0x0C 1 0xFFFFFFFF 0x0030D400, rowCfg 0x10 1 0xFFFF 0x64, rowCtl 0x20 1 0xFFFFFFFF 0, rowCtl 0x24 1 0x80000007 0,
   rowSts 0x28 1, rowCtl 0x30 1 0xFFFF 0, rowSts 0x40 16, rowSts 0x80 16, rowSts 0xC0 1, rowCnt 0x100 7, rowLat 0x140 7 0x100]

/-- TRK (R377). -/
def trkRows : List RegRow :=
  [rowCfg 0x00 1 0xFFFFFF 0x040100, rowCfg 0x04 1 0xFFFFFF 0x0209C4, rowCfg 0x08 1 0xFFFF3F3F 0x0A020805,
   rowCfg 0x0C 1 0xFFFF 0xC040, rowCfg 0x10 1 0xFF0FFFFF 0x08010000, rowCtl 0x14 1 0x1 0, rowCfg 0x18 1 0x3 0,
   rowSts 0x20 2, rowCnt 0x40 10, rowLat 0x80 10 0x40]

/-- SCM (R403). -/
def scmRows : List RegRow :=
  [rowEnb 0x00, rowCfg 0x04 1 0x0F1FFFFF 0x0B017704, rowCfg 0x08 1 0x80FFFFFF 0x000A4000, rowCfg 0x0C 1 0xFFFFF 0,
   rowCfg 0x10 1 0xFF001FFF 0x01000200, rowCfg 0x14 1 0xFFFFF 0, rowCtl 0x20 1 0x1 0, rowSts 0x24 3,
   rowCnt 0x40 9, rowLat 0x80 9 0x40]

/-- MEM (R554). -/
def memRows : List RegRow := [rowSts 0x00 1, rowCnt 0x40 3, rowLat 0x60 3 0x40, rowSts 0x80 1]

/-- PWR (R492). -/
def pwrRows : List RegRow :=
  [rowSts 0x00 1, rowCtl 0x04 1 0xF0F 0xF, rowSts 0x08 1, rowCfg 0x0C 1 0xFFFF 0x07D0, rowCfg 0x10 1 0xFFFFFF 0x000FA0,
   rowCfg 0x14 1 0xFFFF 0x0564, rowSts 0x18 1, rowCtl 0x40 16 0x3 0x2, rowCnt 0x80 5, rowLat 0xA0 5 0x80, rowSts 0xC0 1]

/-- LED (R492). The class costs are calibration values; their reset is the typical cost of R484 (DESIGN CHOICE, log entry 5). -/
def ledRows : List RegRow :=
  [rowCtl 0x000 1 0xFFFF 0, rowCfg 0x004 1 0x870FF0FF 0x070820C0, rowCfg 0x040 16 0xFF 0x10,
   rowCfg 0x080 1 0xFFFF 58, rowCfg 0x084 1 0xFFFF 62, rowCfg 0x088 1 0xFFFF 52, rowCfg 0x08C 1 0xFFFF 21,
   rowCfg 0x090 1 0xFFFF 2, rowCfg 0x094 1 0xFFFF 9, rowCfg 0x098 1 0xFFFF 3, rowCfg 0x09C 1 0xFFFF 12,
   rowCfg 0x0A0 1 0xFFFF 41, rowCfg 0x0A4 1 0xFFFF 38, rowCfg 0x0A8 1 0xFFFF 6, rowCfg 0x0AC 1 0xFFFF 4,
   rowCfg 0x0B0 1 0xFFFF 10, rowCfg 0x0B4 1 0xFFFF 5,
   rowSts 0x100 16, rowSts 0x140 16, rowSts 0x180 16, rowCnt 0x200 7, rowCnt 0x240 16, rowLat 0x280 7 0x200,
   rowLat 0x2C0 16 0x240, rowSts 0x300 1]

/-- SAF (R159, R517). -/
def safRows : List RegRow :=
  [rowEnb 0x000, rowSts 0x004 3, rowCtl 0x010 1 0x1FF 0, rowSts 0x014 1, rowCfg 0x020 1 0xFF 0x6E, rowSts 0x030 1,
   rowCnt 0x080 6, rowLat 0x0A0 6 0x080, rowSts 0x0C0 1, rowSts 0x100 32, rowCfg 0x400 16 0x1FF 0x040, rowSts 0x440 16,
   rowCnt 0x480 2, rowLat 0x490 2 0x480, rowSts 0x4A0 1]

/-- SEC (R541). -/
def secRows : List RegRow :=
  [rowSts 0x00 3, rowCtl 0x10 1 0x1 0, rowSts 0x20 8, rowSts 0x40 1, rowCnt 0x80 2, rowLat 0xA0 2 0x80, rowSts 0xC0 1]

/-- FAB (R322). -/
def fabRows : List RegRow :=
  [rowCfg 0x100 1 0xFFFFFFFF 0x00013880, rowCfg 0x110 4 0xFFFF 0, rowSts 0x120 4, rowCnt 0x140 4, rowLat 0x160 4 0x140,
   rowCnt 0x180 1, rowLat 0x184 1 0x180]

/-- The window of one logical cell (R157, R197, R238, R283, R322). -/
def celRows : List RegRow :=
  [rowEnb 0x000, rowSts 0x004 3, rowCfg 0x010 1 0x7FFF8 0, rowSts 0x014 2, rowCfg 0x020 1 0x3FFF0000 0x3C000000,
   rowCfg 0x024 1 0x1FFF0000 0x1E000000, rowSts 0x028 1, rowSts 0x030 1, rowCfg 0x034 1 0x3FFF1FFF 0,
   rowCfg 0x040 8 0xBFFF3FFF 0, rowCfg 0x060 8 0xFFFFF 0x4189, rowSts 0x100 12, rowCnt 0x200 7, rowLat 0x240 7 0x200,
   rowSts 0x280 1, rowSts 0x300 1, rowCnt 0x310 5, rowLat 0x340 5 0x310, rowSts 0x380 1, rowCfg 0x400 128 0xFFFFFFFF 0,
   rowCfg 0x600 16 0xFFFFFFFF 0x00000100, rowCnt 0x680 6, rowLat 0x6C0 6 0x680, rowSts 0x6F0 1, rowCnt 0x700 3,
   rowLat 0x740 3 0x700, rowSts 0x780 1,
   rowCfg 0x1000 255 0x9FFF1FFF 0, rowCfg 0x13FC 1 0x9FFF1FFF 0x0FF00010, rowCfg 0x1400 256 0x3FFF3FFF 0,
   rowSts 0x1800 256, rowCnt 0x1C00 7, rowLat 0x1C40 7 0x1C00, rowSts 0x1C80 1]

/-- Does a row hold the register at this offset of its table? -/
def rowHolds (r : RegRow) (o : Nat) : Bool :=
  decide (r.base ≤ o) && (o - r.base) % r.stride == 0 && decide ((o - r.base) / r.stride < r.count)

/-- The table of a BAR0 offset and the start of its window (R443). -/
def regTable (off : Nat) : List RegRow × Nat :=
  if off < 0x10000 then (devRows, 0)
  else if off < 0x20000 then (hifRows, 0x10000)
  else if off < 0x21000 then (inkRows, 0x20000)
  else if off < 0x31000 then (inkPortRows, 0x21000 + (off - 0x21000) / 0x1000 * 0x1000)
  else if off < 0x40000 then ([], 0)
  else if off < 0x50000 then (motRows, 0x40000)
  else if off < 0x60000 then (fusRows, 0x50000)
  else if off < 0x70000 then (trkRows, 0x60000)
  else if off < 0x80000 then (scmRows, 0x70000)
  else if off < 0x90000 then (memRows, 0x80000)
  else if off < 0xA0000 then (pwrRows, 0x90000)
  else if off < 0xB0000 then (ledRows, 0xA0000)
  else if off < 0xC0000 then (safRows, 0xB0000)
  else if off < 0xD0000 then (secRows, 0xC0000)
  else if off < 0xE0000 then (fabRows, 0xD0000)
  else if off < 0x200000 then ([], 0)
  else if off < 0x400000 then (celRows, 0x200000 + (off - 0x200000) / 0x2000 * 0x2000)
  else ([], 0)

/-- The register at a BAR0 offset, absent where the offset is unmapped (R443, R448). -/
def regRow? (off : Nat) : Option RegRow :=
  (regTable off).1.find? fun r => rowHolds r (off - (regTable off).2)

/-- The counter a ridge copy belongs to, as a BAR0 offset. -/
def latCounter (off : Nat) (r : RegRow) : Option Nat :=
  match r.kind with
  | .lat c => some ((regTable off).2 + c + (off - (regTable off).2 - r.base))
  | _ => none

/-- Is the offset one of the decay-table registers `CEL_DLUTj`? -/
def isDecay (off : Nat) : Bool :=
  decide (0x200000 ≤ off) && decide (0x400 ≤ off % 0x2000) && decide (off % 0x2000 < 0x600)

/-- The bytes from HP0's copy of a port-local register to HP1's in the model's key space (R406): beyond BAR0. -/
def portStride : Nat := 0x400000

/-- The reset value of a register key (each chapter's table). -/
def resetOf (key : Nat) : BitVec 32 :=
  let off := key % portStride
  if isDecay off then
    let j := (off % 0x2000 - 0x400) / 4
    BitVec.ofNat 32 (decayDefault.getD (2 * j) 0 + 65536 * decayDefault.getD (2 * j + 1) 0)
  else
    match regRow? off with
    | some r => BitVec.ofNat 32 r.reset
    | none => 0

/-- The CFG bits of a register key. -/
def cfgMaskOf (key : Nat) : Nat := match regRow? (key % portStride) with | some r => r.cfg | none => 0

/-- Odd parity of the listed bits of a number: is the number of ones odd? -/
def oddBits (n : Nat) : Bool := (List.range 32).foldl (fun a i => xor a (n.testBit i)) false

/-- The parity over the CFG fields of a register (R457). -/
def cfgParity (key : Nat) (v : BitVec 32) : Bool := oddBits (Nat.land v.toNat (cfgMaskOf key))

/-- The key of a register seen from a host port: HIF registers and the mailbox are each port's own (R406). -/
def regKey (hp : Fin 2) (off : Nat) : Nat :=
  if (0x10000 ≤ off ∧ off < 0x20000) ∨ (0x100 ≤ off ∧ off < 0x120) then off + hp.val * portStride else off

/-- A register of sensor port `n`'s window. -/
def inkP (n : Fin 16) (o : Nat) : Nat := 0x21000 + n.val * 0x1000 + o

/-- A register of logical cell `c`'s CEL window. -/
def celR (c : Fin 256) (o : Nat) : Nat := 0x200000 + c.val * 0x2000 + o

/-- A register of host port `hp`'s own HIF block. -/
def hifR (hp : Fin 2) (o : Nat) : Nat := 0x10000 + o + hp.val * portStride

end Sys2Proof.Machine
end

