-- ==== Sys2Proof/Machine/Ops.lean ====
section
/-! DEFINITION. The named operations every command is written over: registers and counters, device time, records and notices, faults and cell failure. -/

namespace Sys2Proof.Machine

/-- The outcome of a command. -/
abbrev Res := Host.Outcome State Fault Refusal

/-! ## Access to the parts of the state -/

def State.cell (s : State) (c : Fin 256) : Cell := s.cells[c.val]
def State.setCell (s : State) (c : Fin 256) (x : Cell) : State := { s with cells := s.cells.set c.val x c.isLt }
def State.modCell (s : State) (c : Fin 256) (f : Cell → Cell) : State := s.setCell c (f (s.cell c))
def State.port (s : State) (p : Fin 16) : Port := s.ports[p.val]
def State.setPort (s : State) (p : Fin 16) (x : Port) : State := { s with ports := s.ports.set p.val x p.isLt }
def State.modPort (s : State) (p : Fin 16) (f : Port → Port) : State := s.setPort p (f (s.port p))
def State.clutch (s : State) (c : Fin 16) : Clutch := s.clutches[c.val]
def State.setClutch (s : State) (c : Fin 16) (x : Clutch) : State := { s with clutches := s.clutches.set c.val x c.isLt }
def State.modClutch (s : State) (c : Fin 16) (f : Clutch → Clutch) : State := s.setClutch c (f (s.clutch c))
def State.host (s : State) (h : Fin 2) : HostPort := s.hosts[h.val]
def State.setHost (s : State) (h : Fin 2) (x : HostPort) : State := { s with hosts := s.hosts.set h.val x h.isLt }
def State.modHost (s : State) (h : Fin 2) (f : HostPort → HostPort) : State := s.setHost h (f (s.host h))
def State.sem (s : State) (n : Fin 64) : Sem := s.sems[n.val]
def State.setSem (s : State) (n : Fin 64) (x : Sem) : State := { s with sems := s.sems.set n.val x n.isLt }
def State.mot (s : State) (m : Fin 4) : MotionPort := s.motion[m.val]
def State.setMot (s : State) (m : Fin 4) (x : MotionPort) : State := { s with motion := s.motion.set m.val x m.isLt }

/-- Fold a state change over a list. -/
def State.each {β : Type} (s : State) (l : List β) (f : State → β → State) : State := l.foldl f s

/-- The clutch of a logical cell (R9). -/
def clutchOf (c : Fin 256) : Fin 16 := ⟨c.val / 16, by omega⟩

/-- Logical cell `16 cl + i` (R9). -/
def cellOf (cl i : Fin 16) : Fin 256 := ⟨16 * cl.val + i.val, by omega⟩

/-! ## Registers and counters -/

/-- A stored register: its CFG, CTL and ENB fields and the STS values that no other part of the state gives. -/
def State.reg (s : State) (key : Nat) : Word := assocGet s.regs (resetOf key) key

/-- Bits `hi` to `lo` of a stored register. -/
def State.fld (s : State) (key hi lo : Nat) : Nat := bitsOf (s.reg key).toNat hi lo

/-- Bit `i` of a stored register. -/
def State.bit (s : State) (key i : Nat) : Bool := bitAt (s.reg key).toNat i

/-- The parity bit a register keeps over its CFG fields (R457). -/
def State.parity (s : State) (key : Nat) : Bool := assocGet s.par (cfgParity key (resetOf key)) key

/-- The parity bits after a write: the register's own follows where its CFG fields change (R457). -/
def State.parAfter (s : State) (key : Nat) (v : Word) : Assoc Bool :=
  if Nat.land (s.reg key).toNat (cfgMaskOf key) = Nat.land v.toNat (cfgMaskOf key) then s.par
  else assocSet s.par (cfgParity key (resetOf key)) key (cfgParity key v)

/-- Store a register, its parity with it (R457). -/
def State.setReg (s : State) (key : Nat) (v : Word) : State :=
  { s with regs := assocSet s.regs (resetOf key) key v, par := s.parAfter key v }

/-- Registers go back to their reset values, their parity with them. -/
def State.dropRegs (s : State) (p : Nat → Bool) : State :=
  { s with regs := s.regs.filter fun kv => !p kv.1, par := s.par.filter fun kv => !p kv.1 }

/-- An upset of a register's storage: bit `i` of its CFG fields, or the parity bit itself, `i` being 32 (R457, R459). -/
def State.strike (s : State) (key : Nat) (i : Fin 33) : State :=
  if i.val = 32 then
    if cfgMaskOf key = 0 then s
    else { s with par := assocSet s.par (cfgParity key (resetOf key)) key (!s.parity key) }
  else if (cfgMaskOf key).testBit i.val then
    { s with regs := assocSet s.regs (resetOf key) key (s.reg key ^^^ BitVec.ofNat 32 (2 ^ i.val)) }
  else s

/-- Does a register's parity bit disagree with its CFG fields? (R458, R459) -/
def State.parityBad (s : State) (key : Nat) : Bool := s.parity key != cfgParity key (s.reg key)

/-- Replace bits `hi` to `lo` of a stored register. -/
def State.setFld (s : State) (key hi lo v : Nat) : State :=
  let old := (s.reg key).toNat
  s.setReg key (BitVec.ofNat 32 (old - bitsOf old hi lo * 2 ^ lo + v % 2 ^ (hi + 1 - lo) * 2 ^ lo))

/-- A counter. -/
def State.ctr (s : State) (key : Nat) : Word := assocGet s.cnt 0 key

/-- Add `n` to a counter, saturating (R455). -/
def State.bump (s : State) (key : Nat) (n : Nat := 1) : State :=
  { s with cnt := assocSet s.cnt 0 key (BitVec.ofNat 32 (min 0xFFFFFFFF ((s.ctr key).toNat + n))) }

/-- Load a counter (R5). -/
def State.setCtr (s : State) (key : Nat) (v : Word) : State :=
  { s with cnt := assocSet s.cnt 0 key v, waits := assocErase s.waits key }

/-- Take a fresh index for a free value. -/
def State.tick (s : State) : State := { s with free := s.free + 1 }

/-- Take `n` fresh indexes for free values. -/
def State.ticks (s : State) (n : Nat) : State := { s with free := s.free + n }

/-- A wait begins or goes on: its counter counts a free number of clock cycles (log entry 30). -/
def State.countWait (s : State) (key : Nat) : State := ({ s with waits := assocPut s.waits key s.free }).tick

/-- A stall cycle of a cell's sequencer or engine: one at least is counted, and a free number more. -/
def State.countStall (s : State) (c : Fin 256) (o : Nat) : State := (s.bump (celR c o)).countWait (celR c o)

/-- The number of cycles at an index of a wait, none without one. -/
def waited (l : Assoc Nat) (key : Nat) : Nat :=
  match (l.find? fun kv => kv.1 == key) with
  | some kv => Config.freeWait kv.2
  | none => 0

/-! ## Steps and data time (02) -/

/-- The step period P in microseconds (R41). -/
def State.period (s : State) : Nat := 125 * s.fld 0x200 5 0

/-- Output time of step k: its end (R52). -/
def State.endOf (s : State) (k : Nat) : Nat := (k + 1) * s.period

/-- A 32-bit step index. -/
def stepIdx (k : Nat) : Word := BitVec.ofNat 32 k

/-- Does the port's `INK_PENB.EN` read 1? -/
def State.portOn (s : State) (p : Fin 16) : Bool := s.bit (inkP p 0) 0

/-- Is the port kept out of the device horizon under R40? -/
def State.isExcluded (s : State) (p : Fin 16) : Bool := (s.port p).excluded

/-- Ports in state ACTIVE. -/
def State.activePorts (s : State) : List (Fin 16) := (List.finRange 16).filter fun p => (s.port p).mode == .active

/-- Horizons of the ports whose horizons count. -/
def State.countedHorizons (s : State) : List Nat :=
  (s.activePorts.filter fun p => !s.isExcluded p).filterMap fun p => (s.port p).horizon

/-- The least number of a list. -/
def leastOf (l : List Nat) : Option Nat :=
  match l with
  | [] => none
  | x :: t => match leastOf t with | none => some x | some y => some (min x y)

/-- The device horizon: the least horizon of the ACTIVE ports that are not excluded (R32). -/
def State.horizon (s : State) : Option Nat := leastOf s.countedHorizons

/-- Insert into a rising list. -/
def insertNat (x : Nat) (l : List Nat) : List Nat :=
  match l with
  | [] => [x]
  | y :: t => if x ≤ y then x :: y :: t else y :: insertNat x t

/-- Sort numbers, least first. -/
def sortNat (l : List Nat) : List Nat :=
  match l with
  | [] => []
  | x :: t => insertNat x (sortNat t)

/-- The lower median of a list (02, The coherence check). -/
def lowerMedian (l : List Nat) : Option Nat := (sortNat l)[(l.length - 1) / 2]?

/-- The reference horizon: the lower median over the ACTIVE ports not excluded, over all ACTIVE ports when every one is excluded. -/
def State.reference (s : State) : Option Nat :=
  match s.countedHorizons with
  | [] => lowerMedian (s.activePorts.filterMap fun p => (s.port p).horizon)
  | l => lowerMedian l

/-- Has the step of this stamp closed? (R42, R54) -/
def State.stepClosed (s : State) (stamp : Nat) : Bool := s.step.running && decide (stamp / s.period < s.step.k)

/-! ## Records and notices (15) -/

/-- The first two words of a record (R414). -/
def recordHead (type len : Nat) (step : Word) (time : Nat) : List DWord :=
  [BitVec.ofNat 64 (type * 2 ^ 56 + len % 2 ^ 24 * 2 ^ 32 + step.toNat), BitVec.ofNat 64 (time % 2 ^ 62)]

/-- A whole record. -/
def recordOf (type : Nat) (step : Word) (time : Nat) (payload : List DWord) : List DWord :=
  recordHead type (payload.length + 2) step time ++ payload

/-- Kind of a ring: 0 command, 1 notice, 2 output, 3 token (R408). -/
def State.ringKind (s : State) (h : Fin 2) (n : Nat) : Nat := s.fld (hifR h (0x1008 + 16 * n)) 25 24

/-- Is a ring of a port enabled, and the port's host interface with it? -/
def State.ringOn (s : State) (h : Fin 2) (n : Nat) : Bool := s.bit (hifR h 0) 0 && s.bit (hifR h (0x1008 + 16 * n)) 31

/-- Can a port's link take writes? (R405) -/
def State.linkTakes (s : State) (h : Fin 2) : Bool := (s.host h).up && (s.host h).bme

/-- Size of a ring in bytes. -/
def State.ringSize (s : State) (h : Fin 2) (n : Nat) : Nat := 2 ^ s.fld (hifR h (0x1008 + 16 * n)) 4 0

/-- The device's count P of a ring, and the host's count C. -/
def State.ringP (s : State) (h : Fin 2) (n : Nat) : Word := assocGet (s.host h).prod 0 n
def State.ringC (s : State) (h : Fin 2) (n : Nat) : Word := s.reg (hifR h (0x100C + 16 * n))

/-- The causes that hold `ATTN_n` after its minimum (R152, R441). -/
def State.attnCause (s : State) : Bool :=
  (List.finRange 16).any (fun z => decide (s.fld (0xB0400 + 4 * z.val) 8 0 ≤ (s.pq[z.val]).length)) ||
  (List.finRange 2).any (fun h => s.bit (hifR h 0) 1 && s.ringOn h 1 && s.ringP h 1 != s.ringC h 1)

/-- Assert `ATTN_n` if a cause of R441 holds. -/
def State.updAttn (s : State) : State :=
  if s.attnCause then { s with pins := { s.pins with attn := true } } else s

/-- Address of a ring's entry in the pointer block of its port (R409). -/
def State.ptrEntry (s : State) (h : Fin 2) (n : Nat) : Nat :=
  s.fld (hifR h 8) 31 0 * 2 ^ 32 + s.fld (hifR h 4) 31 11 * 2 ^ 11 + 8 * n

/-- The PAD record of so many bytes before a record: its header, with the STEP and TIME of that record (R414; DESIGN CHOICE, log entry 63). -/
def padHead (words : List DWord) (bytes : Nat) : List DWord :=
  recordHead 0 (bytes / 8) ((words.getD 0 0).setWidth 32) ((words.getD 1 0).toNat)

/-- Write one record into an enabled ring, after a PAD where it would cross the end; then its count in the pointer block; discard it whole where it does not fit (R409 to R411). -/
def State.writeRing (s : State) (h : Fin 2) (n : Nat) (words : List DWord) : State :=
  let bytes := (words.length * 8 + 63) / 64 * 64
  let size := s.ringSize h n
  let p := s.ringP h n
  let pos := p.toNat % size
  let pad := if size < pos + bytes then size - pos else 0
  let used := (p - s.ringC h n).toNat
  if bytes + pad + used ≤ size then
    let p1 := p + BitVec.ofNat 32 pad
    let padLog := if pad = 0 then [] else [HostWrite.pad h n p (padHead words pad)]
    let p2 := p1 + BitVec.ofNat 32 bytes
    let s1 := { s with hostOut := HostWrite.count h (s.ptrEntry h n) p2 :: HostWrite.record h n p1 words :: (padLog ++ s.hostOut) }
    let s2 := s1.modHost h fun x => { x with prod := assocSet x.prod 0 n p2 }
    s2.updAttn
  else
    (s.bump (hifR h 0x44)).setFld (hifR h 0x0C) 7 0 n

/-- A record for an enabled ring: written at once, or, while the link cannot take it, kept in the ring's output queue (R127, R421). -/
def State.putRecord (s : State) (h : Fin 2) (n : Nat) (words : List DWord) : State :=
  if s.linkTakes h then s.writeRing h n words else s.modHost h fun x => { x with outq := x.outq ++ [(n, words)] }

/-- The output queues of a port drain into its rings (R127, R421). -/
def State.drainOut (s : State) (h : Fin 2) : State :=
  (s.modHost h fun x => { x with outq := [] }).each (s.host h).outq fun t r => if t.ringOn h r.1 then t.writeRing h r.1 r.2 else t

/-- Do the output queues hold back the cells' output bridges: do records wait for some link? (R127; log entry 64) -/
def State.outHeld (s : State) : Bool := (List.finRange 2).any fun h => !(s.host h).outq.isEmpty

/-- Write a record to ring `n` of a port if that ring is enabled and of the kind wanted (R417). -/
def State.postTo (s : State) (h : Fin 2) (n kind : Nat) (words : List DWord) : State :=
  if s.ringOn h n && s.ringKind h n == kind then s.putRecord h n words else s

/-- STEP and TIME of a notice: the open step and its output time, or all ones and 0 (R415). -/
def State.noticeTime (s : State) : Word × Nat :=
  if s.step.running then (stepIdx s.step.k, s.endOf s.step.k) else (0xFFFFFFFF, 0)

/-- A notice record of the present moment. -/
def State.noticeOf (s : State) (type : Nat) (p0 p1 : DWord) : List DWord :=
  recordOf type s.noticeTime.1 s.noticeTime.2 [p0, p1]

/-- Post a notice to one port's notice ring. -/
def State.noticeTo (s : State) (h : Fin 2) (type : Nat) (p0 p1 : DWord) : State :=
  s.postTo h 1 1 (s.noticeOf type p0 p1)

/-- Post a notice to the notice ring of each port that has one. -/
def State.notice (s : State) (type : Nat) (p0 p1 : DWord) : State :=
  (s.noticeTo 0 type p0 p1).noticeTo 1 type p0 p1

/-- A routed record, TYPE 0x10 + t, to the ring `HIF_ROUTEt` names on each port (R416, R417). -/
def State.routed (s : State) (t : Nat) (words : List DWord) : State :=
  s.each [0, 1] fun s h =>
    let ring := s.fld (hifR h (0x20 + 4 * t)) 7 0
    if s.bit (hifR h (0x20 + 4 * t)) 8 && decide (2 ≤ s.ringKind h ring) && s.ringOn h ring then
      s.putRecord h ring words
    else s

/-- Token ring 0 of a port: its lowest-numbered enabled ring of kind token (R408). -/
def State.tokenRing (s : State) (h : Fin 2) : Option Nat :=
  ((List.range 256).filter fun n => decide (2 ≤ n) && s.ringOn h n && s.ringKind h n == 3).head?

/-- A record to token ring 0 of each port that has one. -/
def State.toTokenRing (s : State) (words : List DWord) : State :=
  s.each [0, 1] fun s h => match s.tokenRing h with | some n => s.putRecord h n words | none => s

/-! ## Faults (18) -/

/-- Is the device in S0 or S1? -/
def State.awake (s : State) : Bool := decide (s.pwr.state.toNat < 2)

/-- Do the clocks of the blocks that S2 and S3 hold run: E3 not reached? (R473, R478) -/
def State.clocked (s : State) : Bool := decide (s.pwr.point < 3)

/-- A first access: a gated clutch runs again (R474). -/
def State.ungate (s : State) (cl : Fin 16) : State := s.modClutch cl fun x => { x with gated := false }

/-- Every zone pin low. -/
def State.dropZones (s : State) : State := { s with pins := { s.pins with zone := 0 } }

/-- Drive the fault levels; the zone pins are low while they stand (R351, R507). -/
def State.driveFault (s : State) : State :=
  { s with pins := { s.pins with faultA := false, faultB := true, zone := 0 }, saf := { s.saf with noFault := false } }

/-- Drive the no-fault levels (R506). -/
def State.driveNoFault (s : State) : State :=
  { s with pins := { s.pins with faultA := true, faultB := false }, saf := { s.saf with noFault := true } }

/-- Count and log a fault, SEQ rising (R496, R515). -/
def State.logFault (s : State) (p0 detail : Word) : State :=
  let seq := s.saf.seq + 1
  { s with saf := { s.saf with seq := seq, log := s.saf.log.set (seq.toNat % 16) (p0, detail) (Nat.mod_lt _ (by decide)) } }

/-- The first 32 bits of a FAULT NOTICE: CAUSE, UNIT, UKIND, CLASS (R515). -/
def faultWord (cause unit ukind cls : Nat) : Word :=
  BitVec.ofNat 32 (cause * 2 ^ 24 + unit % 256 * 2 ^ 16 + ukind * 2 ^ 12 + cls)

/-- Post a FAULT NOTICE (R496). -/
def State.faultNotice (s : State) (p0 detail : Word) : State :=
  s.notice 0x05 (BitVec.ofNat 64 p0.toNat) (BitVec.ofNat 64 (s.saf.seq.toNat * 2 ^ 32 + detail.toNat))

/-- A CELL fault: counted, logged, posted; the pins stay (R495, R496). -/
def State.cellFault (s : State) (cause : Nat) (c : Fin 256) (detail : Word) : State :=
  let p0 := faultWord cause c.val 1 1
  ((s.bump 0xB0084).logFault p0 detail).faultNotice p0 detail

/-- A DEVICE fault, bit `b` of `SAF_FSTS`: counted and logged; if its cause was not latched, latched, posted, and the pins driven (R495, R496, R507). `stays` says the cause is present after the detection. -/
def State.deviceFault (s : State) (cause b unit ukind : Nat) (detail : Word) (stays : Bool) : State :=
  let p0 := faultWord cause unit ukind 2
  let s1 := (s.bump 0xB0080).logFault p0 detail
  let s2 := if stays then { s1 with saf := { s1.saf with live := s1.saf.live ||| BitVec.ofNat 32 (2 ^ b) } } else s1
  if s2.saf.latched.getLsbD b then s2
  else
    let s3 := { s2 with saf := { s2.saf with
      latched := s2.saf.latched ||| BitVec.ofNat 32 (2 ^ b)
      first := if s2.saf.first.toNat % 4 = 0 then p0 else s2.saf.first } }
    (s3.faultNotice p0 detail).driveFault

/-- A cause is no longer present. -/
def State.causeGone (s : State) (b : Nat) : State :=
  { s with saf := { s.saf with live := s.saf.live &&& ~~~(BitVec.ofNat 32 (2 ^ b)) } }

end Sys2Proof.Machine
end

