-- ==== Sys2Proof/Machine/Grid.lean ====
section
/-! DEFINITION. Fusion's memory (12): the fields of an item, a FEATURE item in the grid, an EVIDENCE item in a sector accumulator, and taking both back for a failed cell (R23, R339 to R343). -/

namespace Sys2Proof.Machine

/-! ## Items (R336, R337) -/

/-- KIND, PORT, U, V and RANGE of an item. -/
def itemKind (l : List DWord) : Nat := bitsOf (l.headD 0).toNat 63 60
def itemPort (l : List DWord) : Fin 16 := ⟨bitsOf (l.headD 0).toNat 59 56 % 16, Nat.mod_lt _ (by decide)⟩
def itemU (l : List DWord) : Int := signedOf 16 (bitsOf (l.headD 0).toNat 47 32)
def itemV (l : List DWord) : Int := signedOf 16 (bitsOf (l.headD 0).toNat 31 16)
def itemRange (l : List DWord) : Nat := bitsOf (l.headD 0).toNat 15 0
def itemWord (l : List DWord) (i : Nat) : Nat := (l.getD i 0).toNat
def itemStamp (l : List DWord) : Nat := itemWord l 1 % 2 ^ 62

/-! ## The grid (R339 to R342) -/

/-- int8 feature `n` of a cell. -/
def State.feature (s : State) (cell n : Nat) : Int := signedOf 8 (memRead s.fus.grid (16 * cell + n)).toNat

/-- The metadata of a cell as of a step: flags of another step read as zero (R340). -/
def State.cellMetaOf (s : State) (cell k : Nat) : Nat :=
  let m := memNat s.fus.cellMeta (4 * cell) 4
  if bitsOf m 15 8 = k % 256 then m else bitsOf m 7 0 + k % 256 * 256

/-- Write the metadata of a cell. -/
def State.setCellMeta (s : State) (cell m : Nat) : State :=
  { s with fus := { s.fus with cellMeta := memWriteNat s.fus.cellMeta (4 * cell) 4 m, touched := insertNat cell (s.fus.touched.filter fun x => x != cell) } }

/-- Round a quotient half away from zero (R341). -/
def roundAway (n : Int) (d : Nat) : Int :=
  let q : Int := (2 * n.natAbs + d) / (2 * d) |> Int.ofNat
  if n < 0 then -q else q

/-- Replace bits of a number. -/
def withBits (n hi lo v : Nat) : Nat := n - bitsOf n hi lo * 2 ^ lo + v % 2 ^ (hi + 1 - lo) * 2 ^ lo

/-- Mark occupied or free evidence of a sensor in a cell's metadata; the first contradiction of a step halves CONF and is counted (R341, R342). -/
def markCell (m : Nat) (sensor : Nat) (occ : Bool) : Nat × Bool :=
  let against := if occ then bitAt m 26 && bitsOf m 19 16 != sensor else bitAt m 27 && bitsOf m 23 20 != sensor
  let m1 := if occ then withBits (withBits m 23 20 sensor) 27 27 1 else withBits (withBits m 19 16 sensor) 26 26 1
  if against && !bitAt m 25 then (withBits (withBits m1 25 25 1) 7 0 (bitsOf m 7 0 / 2), true) else (m1, false)

/-- A FEATURE item blended into a cell, and whether it contradicts what stands there (R341, R342). -/
def State.blend (s : State) (l : List DWord) (cell : Nat) : State × Bool :=
  let alpha := s.fld 0x50000 7 0
  let f (n : Nat) : Int := signedOf 8 (itemWord l (2 + n / 8) / 2 ^ (8 * (n % 8)))
  let grid := (List.range 16).foldl (fun g n =>
    let old := s.feature cell n
    memWrite g (16 * cell + n) (BitVec.ofInt 8 (old + roundAway (alpha * (f n - old)) 256))) s.fus.grid
  let m := s.cellMetaOf cell s.step.k
  let m1 := withBits m 7 0 (min 255 (bitsOf m 7 0 + s.fld 0x50000 15 8))
  let v := f (s.fld 0x50000 19 16)
  let th : Int := s.fld 0x50008 7 0
  let r := if th ≤ v then markCell m1 (itemPort l).val true else if v ≤ -th then markCell m1 (itemPort l).val false else (m1, false)
  (({ s with fus := { s.fus with grid := grid } }).setCellMeta cell r.1, r.2)

/-! ## Sector accumulators (R343) -/

/-- Key of a sector accumulator: sensor, sector, bin, and whether it counts occupied evidence. -/
def accKey (sensor sec bin : Nat) (occ : Bool) : Nat := ((sensor * 64 + sec) * 32 + bin) * 2 + bitOf occ
def State.accOf (s : State) (sensor sec bin : Nat) (occ : Bool) : Nat := assocGet s.fus.acc 0 (accKey sensor sec bin occ)

/-! ## What ECC finds (R497, R504, R552) -/

/-- An uncorrectable word of Fusion memory: cause 0x26, and the zone evaluation of the step in progress is abandoned (R504). -/
def State.fusionEcc (s : State) : State :=
  ({ s with fus := { s.fus with abandoned := true } }).deviceFault 0x26 6 0 6 0 false

/-- A read of Fusion memory (R497, R504). -/
def State.fusionRead (s : State) (e : Ecc) : State :=
  match e with
  | .clean => s
  | .corrected n => s.bump 0xB0090 n
  | .uncorrectable => s.fusionEcc

/-- A read of the reserved area of LPDDR5X (R497, R552). -/
def State.reservedRead (s : State) (e : Ecc) : State :=
  match e with
  | .clean => s
  | .corrected n => s.bump 0x80040 n
  | .uncorrectable => (s.bump 0x80048).deviceFault 0x26 6 2 6 2 false

/-! ## Items of the open step -/

/-- The open value a word takes that is beyond correction. -/
def State.openValue (s : State) (e : Ecc) : Option Nat :=
  match e with
  | .uncorrectable => some (Config.freeBits s.free).toNat
  | _ => none

/-- Apply an item that has its place: its uncorrectable word takes an open value (R341, R343, R504). Answers whether a grid cell was contradicted. -/
def State.give (s : State) (g : Given) : State × Bool :=
  if itemKind g.words = 4 then
    match g.raw with
    | some v => ({ s with fus := { s.fus with grid := memWriteNat s.fus.grid (16 * g.place) 16 v } }, false)
    | none => s.blend g.words g.place
  else
    let v := match g.raw with
      | some v => v % 256
      | none => min 255 (assocGet s.fus.acc 0 g.place + itemWord g.words 2 % 256)
    ({ s with fus := { s.fus with acc := assocSet s.fus.acc 0 g.place v } }, false)

/-- Apply an item and keep it among those of the open step. -/
def State.giveNew (s : State) (g : Given) : State :=
  let r := s.give g
  let s1 := { r.1 with fus := { r.1.fus with given := r.1.fus.given ++ [g] } }
  if r.2 then s1.bump 0x50104 else s1

/-- A new step takes items onto what stands: nothing of it is taken back any more. -/
def State.settleFusion (s : State) : State :=
  { s with fus := { s.fus with given := [], base := ⟨s.fus.grid, s.fus.cellMeta, s.fus.touched, s.fus.acc⟩ } }

/-- The items of a cell in the open step are taken back: what the step began with, and every other item again (R23). -/
def State.takeBack (s : State) (c : Fin 256) : State :=
  let keep := s.fus.given.filter fun g => g.cell != c
  if keep.length = s.fus.given.length then s
  else
    let b := s.fus.base
    let s1 := { s with fus := { s.fus with grid := b.grid, cellMeta := b.cellMeta, touched := b.touched, acc := b.acc, given := keep } }
    s1.each keep fun t g => (t.give g).1

end Sys2Proof.Machine
end

