-- ==== Sys2Proof/Machine/Routes.lean ====
section
/-! DEFINITION. The routes of the mesh (R15, R18, R19): the entry every router holds for a logical cell, the way along the row and then along the column, and the detours around router-dead positions. -/

namespace Sys2Proof.Machine

/-- The physical clutch of a mesh position, numbered row-major. -/
def clutchAt (p : Fin 256) : Fin 16 := ⟨p.val / 64 * 4 + p.val % 16 / 4, by omega⟩

/-- The mesh position at which a clutch hub sits: somewhere in its four rows and columns, the spec does not say where (log entry 51). -/
def hubAt (cl : Fin 16) : Fin 256 :=
  ⟨(cl.val / 4 * 4 + Config.hubPlace cl.val % 16 / 4) * 16 + cl.val % 4 * 4 + Config.hubPlace cl.val % 4, by omega⟩

/-- Does no route pass through a position: was it router-dead when the routes were written? (R15, R19) -/
def Discovery.blocked (d : Discovery) (p : Nat) : Bool := d.dead.getLsbD p

/-- The numbers from `a` to `b`, either way, both included. -/
def upDown (a b : Nat) : List Nat :=
  if a ≤ b then (List.range (b + 1 - a)).map fun i => a + i else (List.range (a + 1 - b)).map fun i => a - i

/-- The way from a position along its row, then along the column of the other; the start is left out. -/
def straightWay (a b : Nat) : List Nat :=
  ((upDown (a % 16) (b % 16)).map fun c => 16 * (a / 16) + c).drop 1 ++ ((upDown (a / 16) (b / 16)).map fun r => 16 * r + b % 16).drop 1

/-- Row and column moved aside by `n`, to the higher or the lower side, across a way along a row or a column; absent outside the mesh. -/
def aside (alongRow high : Bool) (n p : Nat) : Option Nat :=
  let v := if alongRow then p / 16 else p % 16
  if high then if v + n < 16 then some (if alongRow then p + 16 * n else p + n) else none
  else if n ≤ v then some (if alongRow then p - 16 * n else p - n) else none

/-- The way aside by `n` from `a` past a run of dead positions to `b` in the same row or column, both left out; absent where it leaves the mesh. -/
def sideWay (a b n : Nat) (high : Bool) : Option (List Nat) :=
  let alongRow := decide (a / 16 = b / 16)
  let line := if alongRow then (upDown (a % 16) (b % 16)).map fun c => 16 * (a / 16) + c
    else (upDown (a / 16) (b / 16)).map fun r => 16 * r + a % 16
  let out := (List.range (n - 1)).map fun i => aside alongRow high (i + 1) a
  let back := ((List.range (n - 1)).map fun i => aside alongRow high (i + 1) b).reverse
  (out ++ line.map (aside alongRow high n) ++ back).mapM id

/-- The inside of a turn: along the column of `a` to the row of `b`, then along it; both left out. -/
def insideWay (a b : Nat) : List Nat :=
  (((upDown (a / 16) (b / 16)).map fun r => 16 * r + a % 16).drop 1 ++
    ((upDown (a % 16) (b % 16)).map fun c => 16 * (b / 16) + c).drop 1).dropLast

/-- The detours from `a` to `b`, nearest first; which side is tried first is open (R19, log entry 51). -/
def detours (a b : Nat) : List (List Nat) :=
  if a / 16 = b / 16 ∨ a % 16 = b % 16 then
    (List.range 15).flatMap fun i =>
      let h := Config.detourHigh (256 * a + b)
      ([sideWay a b (i + 1) h, sideWay a b (i + 1) (!h)]).filterMap id
  else [insideWay a b]

/-- The detour taken: the first that meets no dead position (R19). -/
def Discovery.detour (d : Discovery) (a b : Nat) : Option (List Nat) := (detours a b).find? fun l => l.all fun p => !d.blocked p

/-- A way with a detour for every run of dead positions on it; `prev` is the last live position, `inRun` says that its detour has been taken. -/
def Discovery.around (d : Discovery) (prev : Nat) (inRun : Bool) (l : List Nat) : Option (List Nat) :=
  match l with
  | [] => some []
  | p :: t =>
    if d.blocked p then
      if inRun then d.around prev true t
      else match t.find? fun q => !d.blocked q with
        | none => none
        | some q => match d.detour prev q, d.around prev true t with
          | some x, some y => some (x ++ y)
          | _, _ => none
    else (d.around p false t).map fun y => p :: y

/-- The position to which every router's entry for a logical cell leads: its own, or the hub of the clutch of a hosted one (R18). -/
def State.routeEnd (s : State) (c : Fin 256) : Option (Fin 256) :=
  if !s.disc.routed.getLsbD c.val then none
  else if (s.cell c).mode == .hosted then some (hubAt (clutchOf c))
  else (List.finRange 256).find? fun p => (s.disc.lcell[p.val]) == some c

/-- The positions an item for a logical cell passes from a position on, the last being where its route ends (R18, R19). -/
def State.route (s : State) (start : Fin 256) (c : Fin 256) : Option (List Nat) :=
  (s.routeEnd c).bind fun e => s.disc.around start.val false (straightWay start.val e.val)

/-- The route-table entry of a router: the next position on the way to a logical cell; the position itself where the way ends (R18). -/
def State.routeEntry (s : State) (router c : Fin 256) : Option Nat := (s.route router c).map fun l => l.headD router.val

/-- Mesh hops of an item's way (R19). -/
def State.hops (s : State) (start c : Fin 256) : Option Nat := (s.route start c).map fun l => l.length

/-- The Steward writes the route tables: around every position that counts as router-dead now (R19). -/
def State.writeRoutes (s : State) : State :=
  { s with disc := { s.disc with
      dead := BitVec.ofNat 256 ((List.finRange 256).foldl (fun a p => a + if (s.disc.tests[p.val]) == .routerDead then 2 ^ p.val else 0) 0) } }

end Sys2Proof.Machine
end

