-- ==== Sys2Proof/Machine/CellOut.lean ====
section
/-! DEFINITION. Cells and clutches out of work: abandoned operations, flushed queues, lost routes, what a failed cell takes back (R21 to R24, R193, R509); FATAL faults, the no-fault conditions, the Steward's status records. -/

namespace Sys2Proof.Machine

/-! ## Cells out of work -/

/-- Tokens of a cell with every operation abandoned (R193). -/
def dropOps (x : Cell) : Vector Token 16 := x.tok.map fun t => { t with op := none }

/-- Flush one queue: words and fence go, its depth of zero releases back-pressure, and partials are discarded until a word with SOI (R143 to R147). -/
def flushQueue (q : Queue) : Queue := { q with words := [], rd := q.rd + q.words.length, bp := false, part := true, mark := q.mark.map fun _ => 0, fence := q.fence.map fun _ => 0 }

/-- Is a spike item kept in its sender's outbound buffer, its step later than the open step? (R312) -/
def State.spikeHeld (s : State) (m : MeshItem) : Bool :=
  match m.spike with
  | some (_, k) => s.step.running && decide (s.step.k < k)
  | none => false

/-- The hardware fault disable of a cell (R193). -/
def State.faultDisable (s : State) (c : Fin 256) : State :=
  (s.setReg (celR c 0) 0).modCell c fun x =>
    { x with mode := .faulted, tok := dropOps x, wait := .none, sentinel := false, stalled := none }

/-- Does the clutch already host, or owe hosting to, a logical cell? (R24) -/
def State.clutchHosts (s : State) (cl : Fin 16) : Bool :=
  (List.finRange 16).any fun i => (s.cell (cellOf cl i)).removed || (s.cell (cellOf cl i)).mode == .hosted

/-- One copy of a cell's item has ended: admitted, or discarded on its way; its token's account is kept (R231, R233). -/
def State.copyEnds (s : State) (c : Fin 256) (t : Fin 16) (admitted noroute : Bool) : State :=
  s.modCell c fun x =>
    let tk := x.tok[t.val]
    match tk.op with
    | some op =>
      { x with tok := x.tok.set t.val { tk with op := some { op with
          copies := op.copies - 1, admitted := op.admitted || admitted, noroute := op.noroute || noroute } } t.isLt }
    | none => x

/-- An item in the mesh is discarded because its destination has no route (R115, R233). -/
def State.discardRouteless (s : State) (m : MeshItem) : State :=
  match m.src with
  | .port p => s.bump (inkP p 0x254)
  | .cell c =>
    let s1 := s.bump (celR c 0x31C)
    match m.tok with
    | some t => s1.copyEnds c t false true
    | none => s1
  | _ => s

/-- Discard every mesh item bound for a cell that loses its route. -/
def State.dropMeshTo (s : State) (c : Fin 256) : State :=
  let gone := s.mesh.filter fun m => m.cell == c
  let s1 := { s with mesh := s.mesh.filter fun m => m.cell != c }
  s1.each gone State.discardRouteless

/-- Take the route of a logical cell away (R22, R115). -/
def State.dropRoute (s : State) (c : Fin 256) : State :=
  ({ s with disc := { s.disc with routed := s.disc.routed &&& ~~~(BitVec.ofNat 256 (2 ^ c.val)) } }).dropMeshTo c

/-- Has a logical cell a route? (R21, R115) -/
def State.hasRoute (s : State) (c : Fin 256) : Bool := s.disc.routed.getLsbD c.val

/-- The Track Manager enters recovery (R372). -/
def State.enterRecovery (s : State) : State :=
  ({ s with trk := { s.trk with rleft := s.fld 0x60010 31 24 } }).bump 0x60060

/-- From a remap on association is recovery association, with no entry of its own to count (R22, R372; DEDUCED, log entry 52). -/
def State.keepRecovery (s : State) : State := { s with trk := { s.trk with rleft := s.fld 0x60010 31 24 } }

/-- The spike items a cell holds in its outbound buffer are gone with it (R312). -/
def State.dropHeld (s : State) (c : Fin 256) : State :=
  { s with mesh := s.mesh.filter fun m => !(m.src == .cell c && s.spikeHeld m) }

/-- Staged CELL records of a cell, and the bytes they take. -/
def unstage (c : Fin 256) (h : HostPort) : HostPort :=
  let keep := h.staged.filter fun (r : StagedRec) => r.cell != c
  { h with staged := keep, stagedBytes := h.stagedBytes - ((h.staged.filter fun (r : StagedRec) => r.cell == c).map fun (r : StagedRec) => 8 * r.words.length).sum }

/-- What a cell has given to the open step is taken back, so that its shingles contribute nothing to the step's results (R23): its items on their way to Fusion and Scene Memory and those applied, its observations, its staged CELL records, its tokens of the step. -/
def State.withdraw (s : State) (c : Fin 256) : State :=
  let s1 := s.takeBack c
  { s1 with
    fus := { s1.fus with inbox := s1.fus.inbox.filter fun i => i.cell != c }
    scm := { s1.scm with
      inbox := s1.scm.inbox.filter fun i => i.cell != c
      fresh := s1.scm.fresh.filter fun (f : FreshToken) => !(f.cell == c && f.step == s1.step.k) }
    trk := { s1.trk with obs := s1.trk.obs.map fun (o : Nat × List Obs) =>
      (o.1, if o.1 = s1.step.k then o.2.filter fun x => x.cell != c else o.2) }
    hosts := s1.hosts.map (unstage c) }

/-- Is some removed cell still without its routes when its time has passed? (R510) -/
def State.anyOverdue (s : State) : Bool := (List.finRange 256).any fun d => (s.cell d).overdue

/-- A cell of a clutch that leaves service: its sequencer is off, its operations abandoned, its contributions to the open step and its route gone (R21, R23, R24). What `CEL_STS.STATE` then shows the spec does not say (DESIGN CHOICE, log entry 50). -/
def State.cellOut (s : State) (c : Fin 256) : State :=
  let s1 := (s.setReg (celR c 0) 0).modCell c fun x =>
    { x with
      removed := true, detectedRemap := false, overdue := false, tok := dropOps x, wait := .none, sentinel := false, stalled := none
      mode := if x.mode == .running || x.mode == .stopping then .stopped else x.mode }
  ((s1.dropHeld c).withdraw c).dropRoute c

/-- A clutch leaves service (R21, R24): its bit falls, its cells take no further part and lose their routes, and, having been in service, it latches cause 0x21. A remap it still owed is owed no more. -/
def State.clutchOut (s : State) (cl : Fin 16) : State :=
  let s1 := s.modClutch cl fun x => { x with inService := false }
  let s2 := s1.each (List.finRange 16) fun s i => s.cellOut (cellOf cl i)
  let s3 := if s.anyOverdue && !s2.anyOverdue then s2.causeGone 2 else s2
  if (s.clutch cl).served then s3.deviceFault 0x21 1 cl.val 3 (BitVec.ofNat 32 cl.val) true else s3

/-- The position of a cell that fails in service is healthy no more: its router still forwards (R15, R553, DEDUCED, log entry 49). -/
def State.positionFails (s : State) (c : Fin 256) : State :=
  { s with disc := { s.disc with tests := Vector.ofFn fun p : Fin 256 =>
      if s.disc.lcell[p.val] == some c && s.disc.tests[p.val] == .healthy then .routerLive else s.disc.tests[p.val] } }

/-- A cell failure in service (R22, R145, R193, R509): disabled, removed, its queues flushed, its route and its part in the open step gone (R23), the fault recorded; a second one in a clutch takes the clutch out (R24). -/
def State.failCell (s : State) (c : Fin 256) (health : Nat) (cause : Nat) (detail : Word) : State :=
  if (s.cell c).removed then s
  else
    let hosts := s.clutchHosts (clutchOf c)
    let s1 := (s.faultDisable c).modCell c fun x =>
      { x with removed := true, cause := BitVec.ofNat 4 health, detectedRemap := true, queues := x.queues.map flushQueue }
    let s2 := (((((s1.positionFails c).dropHeld c).withdraw c).dropRoute c).cellFault cause c detail).enterRecovery
    if hosts then s2.clutchOut (clutchOf c) else s2

/-- An upset met in a cell's memories: corrected errors are counted (R163, R166), an uncorrectable word fails the cell (R167). Answers whether the access goes on. -/
def State.meet (s : State) (c : Fin 256) (u : Upset) : State × Bool :=
  match u with
  | .uncorrectable b => (s.failCell c 2 0x10 (BitVec.ofNat 32 b.val), false)
  | .corrected n => (s.bump (celR c 0x200) n, true)
  | _ => (s, true)

/-- The upsets that the writes of a command into whole cells meet (R163, R166, R167). -/
def State.meetAll (s : State) (ups : CellUpsets) : State := s.each ups fun s cu => (s.meet cu.1 cu.2).1

/-- A FATAL fault, bit `b` of `SAF_FSTS`: counted, logged, latched; every cell disabled, the pins driven; nothing is posted (R495, R496). -/
def State.fatalFault (s : State) (cause b unit ukind : Nat) (detail : Word) : State :=
  let p0 := faultWord cause unit ukind 3
  let s1 := (s.bump 0xB0080).logFault p0 detail
  if s1.saf.latched.getLsbD b then s1
  else
    let s2 := { s1 with saf := { s1.saf with
      latched := s1.saf.latched ||| BitVec.ofNat 32 (2 ^ b)
      live := s1.saf.live ||| BitVec.ofNat 32 (2 ^ b)
      first := if s1.saf.first.toNat % 4 = 0 then p0 else s1.saf.first } }
    (s2.each (List.finRange 256) State.faultDisable).driveFault

/-- Is a FATAL cause latched? Ridges stop (R495). -/
def State.fatal (s : State) : Bool := decide (s.saf.latched.toNat / 2 ^ 16 % 16 ≠ 0)

/-- The conditions of R506 but for the ridge itself. -/
def State.noFaultHolds (s : State) : Bool :=
  s.bit 0xB0000 0 && s.saf.latched == 0 && s.awake && s.saf.ridgeSince &&
  (List.finRange 16).all fun cl => !(s.clutch cl).inService || s.saf.sentSince.getLsbD cl.val

/-- The later of the ARM write, a clear and a wake starts the wait of R506 anew. -/
def State.rearm (s : State) : State := { s with saf := { s.saf with ridgeSince := false, sentSince := 0 } }

/-! ## Status records of the Steward (R195, R196) -/

/-- STEP of a status record: the open step, all ones while none is open (R195). -/
def State.statusStep (s : State) : Word := if s.step.running then stepIdx s.step.k else 0xFFFFFFFF

/-- Merge a newer record into a refused one of its kind: LOST data is ORed, another kind replaced (R196). -/
def keepStatus (l : List StatusRec) (r : StatusRec) : List StatusRec :=
  match l with
  | [] => [r]
  | x :: t =>
    if x.kind = r.kind && x.refused.isSome then { r with data := if r.kind = 2 then x.data ||| r.data else r.data, refused := x.refused } :: t
    else x :: keepStatus t r

/-- Post a status record: the Steward keeps it until queue 255 takes it (R196). -/
def State.postStatus (s : State) (c : Fin 256) (kind arg : Nat) (data : Word) : State :=
  s.modCell c fun x => { x with kept := keepStatus x.kept ⟨BitVec.ofNat 8 kind, BitVec.ofNat 4 arg, s.statusStep, data, none⟩ }

end Sys2Proof.Machine
end

