-- ==== Sys2Proof/Machine/Charge.lean ====
section
/-! DEFINITION. What a cell's work costs: the classes of the ledger, spending, allowances and what is left (R281, R484 to R488). -/

namespace Sys2Proof.Machine

/-- Ledger scale of a performance level, U8.8 (17, Performance levels). -/
def ledgerScale (l : BitVec 2) : Nat :=
  match l.toNat with
  | 0 => 0xB7
  | 1 => 0xDA
  | 2 => 0x100
  | _ => 0x155

/-- Add to one of the ledger's wide totals. -/
def State.addTotal (s : State) (sel n : Nat) : State :=
  { s with led := { s.led with totals := assocSet s.led.totals 0 sel (assocGet s.led.totals 0 sel + n) } }

/-- The allowance of a cell for its cell step (R486): that of the open step, of the next where the cell is ahead, or the one an earlier step had where it is behind (R217). -/
def State.allowOf (s : State) (c : Fin 256) : Nat :=
  let k := s.clutch (clutchOf c)
  match (s.cell c).step with
  | none => k.allow
  | some m =>
    if s.step.running && m == s.step.k + 1 then k.allowNext
    else if m < s.step.k then assocGet k.allowPast k.allow m
    else k.allow

/-- Move whole quanta to a cell's spending, its clutch's, and the totals. -/
def State.spend (s : State) (c : Fin 256) (q : Nat) : State :=
  if q = 0 then s
  else
    let x := s.cell c
    let past := (x.spent + q - s.allowOf c) - (x.spent - s.allowOf c)
    let s1 := s.setCell c { x with spent := x.spent + q, reserved := x.reserved - min x.reserved q }
    let key := x.step.getD s.step.k
    let s2 := s1.modClutch (clutchOf c) fun k => { k with spent := assocSet k.spent 0 key (assocGet k.spent 0 key + q) }
    let s3 := (((s2.bump 0xA0200 q).bump 0xA0204 q).bump (0xA0240 + 4 * (clutchOf c).val) q)
    let s4 := ((s3.addTotal 0x100 q).addTotal 0x101 q).addTotal (0x110 + (clutchOf c).val) q
    if past = 0 then s4 else (s4.bump 0xA020C past).addTotal 0x131 past

/-- Charge `n` units of class `i` to a cell (R484). Fractions are kept in 1/262,144 quantum. -/
def State.charge (s : State) (c : Fin 256) (i n : Nat) : State :=
  if n = 0 then s
  else
    let add := n * s.fld (0xA0080 + 4 * i) 15 0 * ledgerScale (s.clutch (clutchOf c)).level
    let t := (s.cell c).frac + add
    ((s.modCell c fun x => { x with frac := t % 262144 }).addTotal (0x120 + i) add).spend c (t / 262144)

/-- Charge the classes counted in cycles or bank lines, by free numbers of units (log entry 9). -/
def State.chargeFree (s : State) (c : Fin 256) (l : List Nat) : State :=
  (s.each l fun s i => s.charge c i (Config.freeUnits s.free i)).tick

/-- The ARITH cycles that pass for a cell up to an event of it (R484, class 13). -/
def State.clocks (s : State) (c : Fin 256) : State := s.chargeFree c [13]

/-- Quanta left: allowance less spent less reserved, clamped at zero and at 2^32 - 1 (R281). -/
def State.quantaLeft (s : State) (c : Fin 256) : Nat :=
  let x := s.cell c
  min 0xFFFFFFFF (s.allowOf c - x.spent - x.reserved)

end Sys2Proof.Machine
end

