-- ==== Sys2Proof/Machine/Queues.lean ====
section
/-! DEFINITION. Cell queues (05) and the way items travel to them through the mesh: forwarding of hosted cells, admission, landing, reading, flushing. -/

namespace Sys2Proof.Machine

/-- A number as a queue of a cell. -/
def queueNo (n : Nat) : Fin 256 := ⟨n % 256, Nat.mod_lt _ (by decide)⟩

/-- Capacity C of a cell queue in words, twice `CEL_QCFGq.HALF` (R131). -/
def State.qCap (s : State) (c q : Fin 256) : Nat := 2 * s.fld (celR c (0x1000 + 4 * q.val)) 12 0

/-- Is a cell queue locally fed (`CEL_QCFGq.SRC`, R137)? Queue 255 is fabric-fed (R194). -/
def State.qLocal (s : State) (c q : Fin 256) : Bool := q != 255 && s.bit (celR c (0x1000 + 4 * q.val)) 31

/-- Watermarks of a cell queue (R147). -/
def State.qHigh (s : State) (c q : Fin 256) : Nat := s.fld (celR c (0x1400 + 4 * q.val)) 13 0
def State.qLow (s : State) (c q : Fin 256) : Nat := s.fld (celR c (0x1400 + 4 * q.val)) 29 16

def State.queue (s : State) (c q : Fin 256) : Queue := (s.cell c).queues[q.val]
def State.setQueue (s : State) (c q : Fin 256) (x : Queue) : State :=
  s.modCell c fun y => { y with queues := y.queues.set q.val x q.isLt }

/-- The threshold signal after a change of depth: on at HIGH, off at LOW, kept between (R147). -/
def hysteresis (high low depth : Nat) (was : Bool) : Bool :=
  if high = 0 then false else if high ≤ depth then true else if depth ≤ low then false else was

/-- Store a queue whose depth has changed, its back-pressure following. -/
def State.putQueue (s : State) (c q : Fin 256) (x : Queue) : State :=
  s.setQueue c q { x with bp := hysteresis (s.qHigh c q) (s.qLow c q) x.words.length x.bp }

/-- Discard words with SOI at 0 while flushed partials are discarded; a word with SOI at 1 ends that (R144). Answers the words kept, those discarded, and whether discarding goes on. -/
def partialSplit (part : Bool) (l : List QWord) : List QWord × Nat × Bool :=
  match l with
  | [] => ([], 0, part)
  | w :: t =>
    if part && !w.soi then
      let r := partialSplit true t
      (r.1, r.2.1 + 1, r.2.2)
    else (w :: t, 0, false)

/-- Words written to a queue that has room for them (R141, R144). -/
def State.landWords (s : State) (c q : Fin 256) (ws : List QWord) : State :=
  let x := s.queue c q
  let r := partialSplit x.part ws
  let s1 := if r.2.1 = 0 then s else s.bump (celR c 0x1C14) r.2.1
  s1.putQueue c q { x with words := x.words ++ r.1, part := r.2.2, flpart := x.flpart || decide (r.2.1 ≠ 0) }

/-- A word list as an item: SOI on its first word, `k` the cell step of its admission. -/
def asItem (k : Option Nat) (ws : List DWord) : List QWord :=
  match ws with
  | [] => []
  | w :: t => ⟨w, true, false, k⟩ :: t.map fun d => ⟨d, false, false, k⟩

/-- Charge the words a write has brought into a queue (R484, class 11). -/
def State.chargeLanded (s t : State) (c q : Fin 256) : State :=
  t.charge c 11 ((t.queue c q).words.length - (s.queue c q).words.length)

/-- A write or item the queue may not take is discarded whole and counted once (R138). -/
def State.ignoreAt (s : State) (c q : Fin 256) : State :=
  (s.bump (celR c 0x1C0C)).setQueue c q { s.queue c q with ign := true }

/-- One local write of words to a queue: refused by a fabric-fed queue, ignored word by word while full (R134, R138). -/
def State.pushWord (s : State) (c q : Fin 256) (w : QWord) : State :=
  let x := s.queue c q
  if s.qCap c q ≤ x.words.length then (s.bump (celR c 0x1C00)).setQueue c q { x with ovr := true }
  else s.landWords c q [w]

/-- A local item write (R137, R138, R230). -/
def State.pushLocal (s : State) (c q : Fin 256) (ws : List QWord) : State :=
  if s.qLocal c q && decide (0 < s.qCap c q) then s.each ws fun s w => s.pushWord c q w
  else s.ignoreAt c q

/-- The fence after one word has been read (R218). -/
def fenceAfter (f : Option Nat) : Option Nat := f.map fun n => n - 1

/-- Take the oldest word of a queue: the word and the state, or an underrun that delivers the last word again (R130, R135). -/
def State.popWord (s : State) (c q : Fin 256) : QWord × State :=
  let x := s.queue c q
  match x.words with
  | [] => (⟨x.last, false, false, none⟩, (s.bump (celR c 0x1C04)).setQueue c q { x with unr := true })
  | w :: t =>
    let s1 := if w.poison then s.bump (celR c 0x1C08) else s
    (w, s1.putQueue c q { x with words := t, last := w.data, rd := x.rd + 1, mark := fenceAfter x.mark, fence := fenceAfter x.fence, poison := x.poison || w.poison })

/-- Take up to `n` words. -/
def State.popWords (s : State) (c q : Fin 256) (n : Nat) : List QWord × State :=
  match n with
  | 0 => ([], s)
  | k + 1 =>
    let r := s.popWord c q
    let t := r.2.popWords c q k
    (r.1 :: t.1, t.2)

/-- The word at a place of a queue fails its check: it is tagged poisoned, and its data is open (R130, R167; DESIGN CHOICE, log entry 61). -/
def poisonAt (k : Nat) (q : Queue) (i : Nat) : Queue :=
  { q with words := q.words.modify i fun w => { w with data := (Config.freeBits (k + i)).setWidth 64, poison := true } }

/-- The upset words among those a read of a queue takes, by their places from the head (R130, R167). -/
def State.queueUpsets (s : State) (c q : Fin 256) (u : Upset) : State :=
  match u with
  | .queueWords l => (s.setQueue c q (l.foldl (poisonAt s.free) (s.queue c q))).ticks (s.queue c q).words.length
  | _ => s

/-- Flush a queue, its back-pressure following its empty depth (R143 to R145). -/
def State.flush (s : State) (c q : Fin 256) : State := s.putQueue c q (flushQueue (s.queue c q))

/-! ## Hosted forwarding (R18) -/

/-- The sort key of a shingle-table entry: PORT, SCOL, SROW (R174). -/
def shKey (h : HostedShingle) : Nat := h.port.val * 4096 + h.col.val * 64 + h.row.val

/-- The entry of a list with the least key. -/
def firstShingle (l : List HostedShingle) : Option HostedShingle :=
  match l with
  | [] => none
  | x :: t => match firstShingle t with
    | none => some x
    | some y => if shKey x ≤ shKey y then some x else some y

/-- Entries of the shingles a hosted logical cell has. -/
def State.hostedOf (s : State) (c : Fin 256) : List HostedShingle := s.disc.hosted.filter fun h => h.lcell == c

/-- Does a shingle lie among the eight neighbours of a place? -/
def isNeighbour (h : HostedShingle) (col row : Nat) : Bool :=
  decide (h.col.val ≤ col + 1 ∧ col ≤ h.col.val + 1 ∧ h.row.val ≤ row + 1 ∧ row ≤ h.row.val + 1 ∧ ¬(h.col.val = col ∧ h.row.val = row))

/-- Take repeats out of a list, the first kept. -/
def distinct {α : Type} [DecidableEq α] (l : List α) : List α :=
  match l with
  | [] => []
  | x :: t => x :: (distinct t).filter fun y => decide (y ≠ x)

/-- The siblings a hub forwards an item of a hosted cell to (R18). -/
def State.forwardTo (s : State) (intake : Bool) (c q : Fin 256) (w0 : DWord) : List (Fin 256) :=
  let l := s.hostedOf c
  let n := w0.toNat
  if intake && bitsOf n 63 60 == 0 then
    let at' := l.filter fun h => h.port.val == bitsOf n 59 56
    if bitAt n 53 then
      distinct ((at'.filter fun h => isNeighbour h (bitsOf n 15 10) (bitsOf n 9 4)).map fun h => h.sibling)
    else
      (((at'.filter fun h => h.col.val == bitsOf n 15 10 && h.row.val == bitsOf n 9 4).map fun h => h.sibling).head?).toList
  else
    match l.filter fun h => h.queues.contains q with
    | [h] => [h.sibling]
    | _ => ((firstShingle l).map fun h => h.sibling).toList

/-- The HOSTED mark and HCELL in the first word of an intake item's forwarded copy (R18, R116). -/
def hostedMark (c : Fin 256) (ws : List DWord) : List DWord :=
  match ws with
  | [] => []
  | w :: t => (w ||| BitVec.ofNat 64 (2 ^ 52 + c.val % 16)) :: t

/-- Is a logical cell hosted by siblings? -/
def State.isHosted (s : State) (c : Fin 256) : Bool := (s.cell c).mode == .hosted

/-- Where an item goes, with its words as they arrive: the cell itself, or the siblings that serve a hosted cell (R18). -/
def State.targets (s : State) (intake : Bool) (c q : Fin 256) (ws : List DWord) : List (Fin 256 × List DWord) :=
  if s.isHosted c then
    (s.forwardTo intake c q (ws.headD 0)).map fun d => (d, if intake then hostedMark c ws else ws)
  else [(c, ws)]

/-- Put copies of one item into the mesh, the first holding the mesh credit. -/
def meshItems (src : Source) (q : Fin 256) (spike : Option (Fin 4 × Nat)) (tok : Option (Fin 16)) (credit : Bool)
    (l : List (Fin 256 × List DWord)) : List MeshItem :=
  match l with
  | [] => []
  | (c, ws) :: t => ⟨src, c, q, ws, spike, tok, credit, false⟩ :: meshItems src q spike tok false t

/-! ## Admission (R140 to R142) -/

/-- What the bridge of a cell does with an item that reaches it. -/
inductive Admission where
  | refused | landed | ignored | tooBig
  deriving DecidableEq, Repr

/-- The bridge's judgement of an item of `n` words for a queue (R138, R140, R142). Queue 255 takes the Steward's records only (R194, log entry 53). -/
def State.admission (s : State) (c q : Fin 256) (n : Nat) : Admission :=
  if q == 255 || s.qLocal c q || s.qCap c q == 0 then .ignored
  else if s.qCap c q < n then .tooBig
  else if (s.queue c q).bp || decide (s.qCap c q < (s.queue c q).words.length + n) then .refused
  else .landed

/-- An admitted item lands whole, its words charged (R141, R484). -/
def State.land (s : State) (c q : Fin 256) (ws : List DWord) : State :=
  s.chargeLanded (s.landWords c q (asItem (s.cell c).step ws)) c q

/-- An item that has reached its queue and is not refused. -/
def State.landItem (s : State) (c q : Fin 256) (ws : List DWord) : State :=
  match s.admission c q ws.length with
  | .refused => s
  | .landed => s.land c q ws
  | .ignored => s.ignoreAt c q
  | .tooBig => s.bump (celR c 0x1C18)

/-- The full flag: as many words as the capacity; 0 for a disabled queue, as its reset value says (R133, DEDUCED, log entry 13). -/
def State.qFull (s : State) (c q : Fin 256) : Bool := decide (0 < s.qCap c q) && decide (s.qCap c q ≤ (s.queue c q).words.length)

/-- Is the queue's back-pressure on, as a producer sees it? (R119, R147) -/
def State.qBusy (s : State) (c q : Fin 256) : Bool := (s.queue c q).bp

end Sys2Proof.Machine
end

