-- ==== Sys2Proof/Machine/CellMem.lean ====
section
/-! DEFINITION. The Thatch and the CWM of a cell: accesses under the cell's limit (R165), write signatures (R168), the shingle table (R173) and time-surface regions (R178 to R182). -/

namespace Sys2Proof.Machine

/-- Which memory of a cell. -/
inductive Mem where
  | thatch | cwm
  deriving DecidableEq, Repr

/-- The contents of a memory. -/
def Cell.mem (x : Cell) (m : Mem) : Memory :=
  match m with
  | .thatch => x.thatch
  | .cwm => x.cwm

/-- Replace the contents of a memory. -/
def Cell.setMem (x : Cell) (m : Mem) (v : Memory) : Cell :=
  match m with
  | .thatch => { x with thatch := v }
  | .cwm => { x with cwm := v }

/-- The cell's limit in bytes: the declared and the hosted lines (R165). -/
def State.memLimit (s : State) (c : Fin 256) (m : Mem) : Nat :=
  match m with
  | .thatch => 64 * (s.fld (celR c 0x20) 29 16 + (s.cell c).hostedT)
  | .cwm => 64 * (s.fld (celR c 0x24) 28 16 + (s.cell c).hostedC)

/-- Bytes read under the limit: what lies at or above it reads zero (R165). -/
def State.readMem (s : State) (c : Fin 256) (m : Mem) (a n : Nat) : List Byte :=
  let limit := s.memLimit c m
  let below := min n (limit - a)
  memBytes ((s.cell c).mem m) a below ++ List.replicate (n - below) 0

/-- A little-endian number read under the limit. -/
def State.readNat (s : State) (c : Fin 256) (m : Mem) (a n : Nat) : Nat := leNat (s.readMem c m a n)

/-- Count an access with any part at or above the limit (R165). -/
def State.checkMem (s : State) (c : Fin 256) (m : Mem) (a n : Nat) : State :=
  if s.memLimit c m < a + n then s.bump (celR c 0x214) else s

/-- Write bytes under the limit: what lies at or above it is dropped (R165). -/
def State.storeMem (s : State) (c : Fin 256) (m : Mem) (a : Nat) (bs : List Byte) : State :=
  let limit := s.memLimit c m
  s.modCell c fun x => x.setMem m (memWriteBytes (x.mem m) a (bs.take (limit - a)))

/-- A counted write under the limit. -/
def State.writeMem (s : State) (c : Fin 256) (m : Mem) (a : Nat) (bs : List Byte) : State :=
  (s.checkMem c m a bs.length).storeMem c m a bs

/-! ## Write signatures (R168, R169) -/

/-- One byte into a reflected CRC-32C register. -/
def crcByte (crc : Nat) (b : Nat) : Nat :=
  (List.range 8).foldl (fun r _ => if r % 2 = 1 then Nat.xor (r / 2) 0x82F63B78 else r / 2) (Nat.xor crc b)

/-- CRC-32C of a byte string. -/
def crc32c (l : List Nat) : Nat := Nat.xor (l.foldl crcByte 0xFFFFFFFF) 0xFFFFFFFF

/-- The ten bytes of a word index and a word (R168). -/
def sigBytes (w d : Nat) : List Nat := (natLe 2 w ++ natLe 8 d).map fun b => b.toNat

/-- h(w, d) of R168. -/
def sigWord (w d : Nat) : Nat := Nat.xor (crc32c (sigBytes w d)) (crc32c (sigBytes w 0))

/-- Bank and word index of a byte address: banks interleave by line (06, The three memories). -/
def bankOf (m : Mem) (a : Nat) : Nat :=
  match m with
  | .thatch => a / 64 % 8
  | .cwm => a / 64 % 4

def wordIndex (m : Mem) (a : Nat) : Nat :=
  match m with
  | .thatch => a / 512 * 8 + a % 64 / 8
  | .cwm => a / 256 * 8 + a % 64 / 8

/-- The addresses of the 64-bit words that hold a listed byte. -/
def wordAddrs (l : Memory) : List Nat := distinct (l.map fun kv => kv.1 / 8 * 8)

/-- The write signature of a bank: the exclusive or of h over its words; words of zero add nothing (R168, R169). -/
def bankSig (m : Mem) (l : Memory) (bank : Nat) : Nat :=
  (wordAddrs l).foldl (fun acc a => if bankOf m a = bank then Nat.xor acc (sigWord (wordIndex m a) (memNat l a 8)) else acc) 0

/-! ## The shingle table (R173, R174) -/

/-- The Thatch address of a bank of the shingle table. -/
def shBank (b : Bool) : Nat := if b then 0x400 else 0

/-- Entry `i` of a bank. -/
def shEntry (t : Memory) (b : Bool) (i : Nat) : Nat := memNat t (shBank b + 8 * i) 8

/-- The valid entries of a bank, in table order. -/
def shEntries (t : Memory) (b : Bool) : List Nat := ((List.range 128).map fun i => shEntry t b i).filter fun e => bitAt e 63

/-- A shingle-table entry. -/
def shWord (hosted : Bool) (port col row lcell tbase cbase : Nat) : Nat :=
  2 ^ 63 + bitOf hosted * 2 ^ 62 + port * 2 ^ 58 + col * 2 ^ 52 + row * 2 ^ 46 + lcell * 2 ^ 38 + tbase % 2 ^ 14 * 2 ^ 24 + cbase % 2 ^ 13 * 2 ^ 11

/-- Insert an entry in ascending order of bits [61:46] (R174). -/
def shInsert (e : Nat) (l : List Nat) : List Nat :=
  match l with
  | [] => [e]
  | x :: t => if bitsOf e 61 46 < bitsOf x 61 46 then e :: x :: t else x :: shInsert e t

/-- Sort entries. -/
def shSort (l : List Nat) : List Nat :=
  match l with
  | [] => []
  | x :: t => shInsert x (shSort t)

/-- The bytes of a whole bank: the entries first, the rest zero. -/
def shBytes (l : List Nat) : List Byte :=
  let l := l.take 128
  l.flatMap (fun e => natLe 8 e) ++ List.replicate (1024 - 8 * l.length) 0

/-- Write a bank of the shingle table in full (R174, R175). -/
def writeShBank (t : Memory) (b : Bool) (l : List Nat) : Memory := memWriteBytes t (shBank b) (shBytes (shSort l))

/-! ## Time surfaces (R178 to R182) -/

/-- Stamp bits [18:4]. -/
def stUnits (stamp : Nat) : Nat := stamp / 16 % 32768

/-- The anchor of a cell step (R179). -/
def State.anchor (s : State) (k : Nat) : Nat := stUnits (s.endOf k)

/-- Age of an ST field against an anchor, in units of 16 µs (R179). -/
def stAge (eu st : Nat) : Nat := (eu + 32768 - st % 32768) % 32768

/-- Clear VALID of every expired entry of a line; all valid entries with `all` (R182, R184). Answers the memory and the entries cleared. -/
def clearLine (t : Memory) (line eu : Nat) (all : Bool) : Memory × Nat :=
  (List.range 32).foldl (fun r i =>
    let a := 64 * line + 2 * i
    let e := memNat r.1 a 2
    if bitAt e 15 && (all || decide (16384 ≤ stAge eu e)) then (memWriteNat r.1 a 2 (e - 32768), r.2 + 1) else r) (t, 0)

/-- Clear lines under the limit, `limit` lines long, counting what is cleared: a line at or above it reads as zeros (R165). -/
def clearLines (t : Memory) (limit : Nat) (l : List Nat) (eu : Nat) (all : Bool) : Memory × Nat :=
  l.foldl (fun r line => if limit ≤ line then r else let x := clearLine r.1 line eu all; (x.1, r.2 + x.2)) (t, 0)

/-- A pass over lines of a cell's Thatch: each line beyond the limit is counted (R165). Answers the entries cleared. -/
def State.visitLines (s : State) (c : Fin 256) (l : List Nat) (eu : Nat) (all : Bool) : Nat × State :=
  let limit := s.memLimit c .thatch / 64
  let r := clearLines (s.cell c).thatch limit l eu all
  let beyond := (l.filter fun x => decide (limit ≤ x)).length
  let s1 := s.modCell c fun x => { x with thatch := r.1 }
  (r.2, if beyond = 0 then s1 else s1.bump (celR c 0x214) beyond)

/-- The lines of the moult area, in the order they are visited (R181). -/
def State.moultArea (s : State) (c : Fin 256) : List Nat :=
  (List.range 8).flatMap fun n =>
    let r := celR c (0x40 + 4 * n)
    let lines := s.fld r 13 0
    let base := s.fld r 29 16
    if s.bit r 31 then
      (shEntries (s.cell c).thatch (s.cell c).shActive).flatMap fun e =>
        (List.range lines).map fun i => bitsOf e 37 24 + base + i
    else (List.range lines).map fun i => base + i

/-- The lines the moult visits in a cell step: ceil(N/D) from its place, or the whole area after a change of it (R182). -/
def State.moultShare (s : State) (c : Fin 256) : List Nat :=
  let area := s.moultArea c
  let n := area.length
  if (s.cell c).moultFull then area
  else
    let d := if s.period ≤ 2000 then 128 else 64
    (List.range ((n + d - 1) / d)).map fun i => area.getD (((s.cell c).moultPos + i) % n) 0

end Sys2Proof.Machine
end

