-- ==== Sys2Proof/Machine/CellWord.lean ====
section
/-! DEFINITION. The instruction words of a cell (R202, R205): the fields of a 64-bit word, the command that MAJOR and MINOR select, and the word at a cell's pc. -/

namespace Sys2Proof.Machine

/-- The register and immediate fields of an instruction word (R202). -/
def fieldsOf (w : BitVec 64) : Fields where
  d := w.extractLsb' 47 5
  a := w.extractLsb' 42 5
  b := w.extractLsb' 37 5
  pred := w.extractLsb' 34 3
  imm := w.extractLsb' 0 34

/-- MAJOR and MINOR of an instruction word. -/
def opOfWord (w : BitVec 64) : BitVec 12 := w.extractLsb' 52 12

/-- A command builder: the cell, the fields, and the upset the operation meets. -/
abbrev Build := Fin 256 → Fields → Upset → Instr

/-- Number of MAJOR and MINOR. -/
def opNo (major minor : Nat) : Nat := 64 * major + minor

/-- Flow control, system read and synchronisation (07, majors 0x00 and 0x02). -/
def flowOps : List (Nat × Build) :=
  [(opNo 0x00 0, fun c f _ => .nop c f 0), (opNo 0x00 1, fun c f _ => .br c f), (opNo 0x00 2, fun c f _ => .jal c f),
   (opNo 0x00 3, fun c f _ => .jr c f), (opNo 0x00 4, fun c f _ => .loop c f), (opNo 0x00 5, fun c f _ => .rdsys c f),
   (opNo 0x02 1, fun c f _ => .wait c f), (opNo 0x02 2, fun c f _ => .waitq c f), (opNo 0x02 3, fun c f _ => .ridge c f)]

/-- Scalar operations in register or immediate form (majors 0x04 and 0x05). -/
def scalarOps (major : Nat) (imm : Bool) : List (Nat × Build) :=
  [(opNo major 0x0, fun c f _ => .sAdd c imm f), (opNo major 0x1, fun c f _ => .sSub c imm f),
   (opNo major 0x2, fun c f _ => .sAnd c imm f), (opNo major 0x3, fun c f _ => .sOr c imm f),
   (opNo major 0x4, fun c f _ => .sXor c imm f), (opNo major 0x5, fun c f _ => .shl c imm f),
   (opNo major 0x6, fun c f _ => .shr c imm f), (opNo major 0x7, fun c f _ => .sra c imm f),
   (opNo major 0x8, fun c f _ => .mul c imm f), (opNo major 0x9, fun c f _ => .mulhu c imm f),
   (opNo major 0xA, fun c f _ => .mulhs c imm f), (opNo major 0xB, fun c f _ => .sMin c imm f),
   (opNo major 0xC, fun c f _ => .sMax c imm f), (opNo major 0xD, fun c f _ => .minu c imm f),
   (opNo major 0xE, fun c f _ => .maxu c imm f)]

/-- Compares and predicate logic (major 0x06), and `SEL`, in register form only. -/
def compareOps : List (Nat × Build) :=
  [(opNo 0x04 0xF, fun c f _ => .sel c f),
   (opNo 0x06 0x0, fun c f _ => .cmpEq c f), (opNo 0x06 0x1, fun c f _ => .cmpNe c f), (opNo 0x06 0x2, fun c f _ => .cmpLt c f),
   (opNo 0x06 0x3, fun c f _ => .cmpLe c f), (opNo 0x06 0x4, fun c f _ => .cmpLtu c f), (opNo 0x06 0x5, fun c f _ => .cmpLeu c f),
   (opNo 0x06 0x8, fun c f _ => .cmpiEq c f), (opNo 0x06 0x9, fun c f _ => .cmpiNe c f), (opNo 0x06 0xA, fun c f _ => .cmpiLt c f),
   (opNo 0x06 0xB, fun c f _ => .cmpiLe c f), (opNo 0x06 0xC, fun c f _ => .cmpiLtu c f), (opNo 0x06 0xD, fun c f _ => .cmpiLeu c f),
   (opNo 0x06 0x10, fun c f _ => .pand c f), (opNo 0x06 0x11, fun c f _ => .por c f), (opNo 0x06 0x12, fun c f _ => .pxor c f),
   (opNo 0x06 0x13, fun c f _ => .pnot c f)]

/-- Loads and stores of a memory (majors 0x08 and 0x09). -/
def memoryOps (major : Nat) (cwm : Bool) : List (Nat × Build) :=
  [(opNo major 0x0, fun c f u => .ldxW c cwm f u), (opNo major 0x1, fun c f u => .ldxH c cwm f u),
   (opNo major 0x2, fun c f u => .ldxHs c cwm f u), (opNo major 0x3, fun c f u => .ldxB c cwm f u),
   (opNo major 0x4, fun c f u => .ldxBs c cwm f u), (opNo major 0x5, fun c f u => .ldxV c cwm f u),
   (opNo major 0x8, fun c f u => .stxW c cwm f u), (opNo major 0x9, fun c f u => .stxH c cwm f u),
   (opNo major 0xA, fun c f u => .stxB c cwm f u), (opNo major 0xB, fun c f u => .stxV c cwm f u)]

/-- Descriptors, vector register moves, queues and fabric (majors 0x0A to 0x0D). -/
def moveOps : List (Nat × Build) :=
  [(opNo 0x0A 0, fun c f u => .ldg c f u), (opNo 0x0A 1, fun c f u => .stg c f u), (opNo 0x0A 2, fun c f _ => .gadd c f),
   (opNo 0x0A 3, fun c f _ => .gset c f), (opNo 0x0B 0, fun c f _ => .vins c f), (opNo 0x0B 1, fun c f _ => .vext c f),
   (opNo 0x0B 2, fun c f _ => .vmov c f), (opNo 0x0B 3, fun c f _ => .vsplat c f), (opNo 0x0B 4, fun c f _ => .vzero c f),
   (opNo 0x0C 0, fun c f u => .pop c f u), (opNo 0x0C 1, fun c f u => .popv c f u), (opNo 0x0C 2, fun c f u => .peek c f u),
   (opNo 0x0C 4, fun c f _ => .push c f), (opNo 0x0C 5, fun c f _ => .pushv c f), (opNo 0x0C 6, fun c f _ => .qflush c f),
   (opNo 0x0C 7, fun c f _ => .qstat c f), (opNo 0x0D 0, fun c f _ => .send c f), (opNo 0x0D 1, fun c f _ => .bcast c f),
   (opNo 0x0D 2, fun c f _ => .rduce c f)]

/-- Bit 29 of IMM chooses between the two forms of `NINT` and of `FCONV`. -/
def formBit (f : Fields) : Bool := f.imm.getLsbD 29

/-- Engine operations and the ledger (08, majors 0x10 to 0x16). -/
def engineOps : List (Nat × Build) :=
  [(opNo 0x10 0, fun c f u => .tsupd c f u), (opNo 0x10 1, fun c f u => .tsrd c f u), (opNo 0x10 2, fun c f u => .arc c f u),
   (opNo 0x10 3, fun c f u => .flowfit c f u), (opNo 0x11 0, fun c f u => .mm c f u), (opNo 0x11 1, fun c f u => .conv c f u),
   (opNo 0x11 2, fun c f u => .dconv c f u), (opNo 0x12 0, fun c f u => .vadd c f u), (opNo 0x12 1, fun c f u => .vsub c f u),
   (opNo 0x12 2, fun c f u => .vmul c f u), (opNo 0x12 3, fun c f u => .vmax c f u), (opNo 0x12 4, fun c f u => .vmin c f u),
   (opNo 0x12 5, fun c f u => .vabs c f u), (opNo 0x12 6, fun c f u => .vshl c f u), (opNo 0x12 7, fun c f u => .vsra c f u),
   (opNo 0x12 8, fun c f u => .vcvt c f u), (opNo 0x12 9, fun c f u => .vred c f u), (opNo 0x12 0x10, fun c f u => .vdw c f u),
   (opNo 0x12 0x11, fun c f u => .vargmax c f u), (opNo 0x12 0x12, fun c f u => .vmred c f u),
   (opNo 0x13 0, fun c f u => if formBit f then .nintList c f u else .nintConv c f u), (opNo 0x13 1, fun c f u => .nfire c f u),
   (opNo 0x13 2, fun c f u => .nleak c f u), (opNo 0x14 0, fun c f u => if formBit f then .fconvLast c f u else .fconvFirst c f u),
   (opNo 0x15 0, fun c f u => .pskip c f u), (opNo 0x15 1, fun c f u => .pflush c f u), (opNo 0x16 0, fun c f _ => .echk c f),
   (opNo 0x16 1, fun c f _ => .eadmit c f)]

/-- The builder of a MAJOR and MINOR, none for a reserved pair (R205). -/
def builderOf (op : Nat) : Option Build :=
  ((flowOps ++ scalarOps 0x04 false ++ scalarOps 0x05 true ++ compareOps ++ memoryOps 0x08 false ++ memoryOps 0x09 true ++
    moveOps ++ engineOps).find? fun p => p.1 == op).map fun p => p.2

/-- Is a MAJOR or MINOR reserved? (R205) -/
def reservedOp (op : BitVec 12) : Bool := (builderOf op.toNat).isNone

/-- The command that a cell's instruction word spells; a word with a reserved MAJOR or MINOR is a `NOP` row that carries it, and faults (R202, R205, R236). -/
def cellCommand (c : Fin 256) (w : BitVec 64) (u : Upset) : Instr :=
  match builderOf (opOfWord w).toNat with
  | some b => b c (fieldsOf w) u
  | none => .nop c (fieldsOf w) (opOfWord w)

/-- The instruction word at a cell's pc (R202). -/
def State.wordAt (s : State) (c : Fin 256) : BitVec 64 := BitVec.ofNat 64 (s.readNat c .cwm (8 * (s.cell c).pc.toNat) 8)

/-- The command that the program of a cell spells next. -/
def State.nextCommand (s : State) (c : Fin 256) (u : Upset) : Instr := cellCommand c (s.wordAt c) u

end Sys2Proof.Machine
end

