-- ==== Sys2Proof/Machine/Operands.lean ====
section
/-! DEFINITION. What every cell instruction shares: register operands and forms, the ledger's charges, the issue of one instruction, loops and tokens (07). -/

namespace Sys2Proof.Machine

/-! ## Registers of a cell (R198) -/

def Cell.s (x : Cell) (n : BitVec 5) : Word := x.sreg[n.toNat]'n.isLt
def Cell.setS (x : Cell) (n : BitVec 5) (v : Word) : Cell := if n = 0 then x else { x with sreg := x.sreg.set n.toNat v n.isLt }
def Cell.p (x : Cell) (n : BitVec 3) : Bool := if n = 0 then true else x.preg[n.toNat]'n.isLt
def Cell.setP (x : Cell) (n : BitVec 3) (v : Bool) : Cell := if n = 0 then x else { x with preg := x.preg.set n.toNat v n.isLt }
def Cell.v (x : Cell) (n : BitVec 4) : VReg := x.vreg[n.toNat]'n.isLt
def Cell.setV (x : Cell) (n : BitVec 4) (v : VReg) : Cell := { x with vreg := x.vreg.set n.toNat v n.isLt }
def Cell.g (x : Cell) (n : BitVec 3) : GReg := x.greg[n.toNat]'n.isLt
def Cell.setG (x : Cell) (n : BitVec 3) (v : GReg) : Cell := { x with greg := x.greg.set n.toNat v n.isLt }

/-- A register number as one of the first eight, or of the first sixteen. -/
def r3 (n : BitVec 5) : BitVec 3 := n.setWidth 3
def r4 (n : BitVec 5) : BitVec 4 := n.setWidth 4

/-- Registers as numbers for the interlock of R199: s at 0, v at 32, p at 64. -/
def sId (n : BitVec 5) : Nat := n.toNat
def vId (n : Nat) : Nat := 32 + n % 16
def pId (n : Nat) : Nat := 64 + n % 8

/-- Element `i`, 64 bits, of a vector register; lane `i` of `w` bits. -/
def velem (v : VReg) (i : Nat) : DWord := BitVec.ofNat 64 (v.toNat / 2 ^ (64 * i))
def vlane (w : Nat) (v : VReg) (i : Nat) : Nat := v.toNat / 2 ^ (w * i) % 2 ^ w

/-- A vector register packed from lanes of `w` bits. -/
def vpack (w : Nat) (l : List Nat) : VReg := BitVec.ofNat 512 (l.foldr (fun x acc => acc * 2 ^ w + x % 2 ^ w) 0)

/-- An immediate field of an instruction. -/
def immOf (f : Fields) (hi lo : Nat) : Nat := bitsOf f.imm.toNat hi lo

/-! ## Reserved encodings (R205, R239) -/

/-- What a register field names. -/
inductive Kind where
  | none | s | v | g | p
  deriving DecidableEq, Repr

/-- Is a register field one its kind has; zero where unused? -/
def kindOk (k : Kind) (n : BitVec 5) : Bool :=
  match k with
  | .none => n == 0
  | .s => true
  | .v => decide (n.toNat < 16)
  | .g => decide (n.toNat < 8)
  | .p => decide (n.toNat < 8)

/-- Kinds of D, A and B, the immediate bits an instruction uses, and whether every span of vector registers ends by v15. -/
structure Form where
  d : Kind
  a : Kind
  b : Kind
  mask : Nat
  span : Bool := true
  deriving DecidableEq, Repr

/-- Is an instruction word's use of its fields defined? (R205) -/
def Form.ok (m : Form) (f : Fields) : Bool :=
  m.span && kindOk m.d f.d && kindOk m.a f.a && kindOk m.b f.b && Nat.land f.imm.toNat (2 ^ 34 - 1 - m.mask) == 0

/-- The mask of immediate bits `hi` to `lo`. -/
def im (hi lo : Nat) : Nat := 2 ^ (hi + 1) - 2 ^ lo

/-! ## Tokens (R206 to R208) -/

/-- The status word of a token (R207). -/
def statusWord (code count : Nat) : Word := BitVec.ofNat 32 (code * 65536 + count % 65536)

/-- The lowest nonzero code among those met (R208). -/
def lowestCode (l : List Nat) : Nat := (l.filter fun x => x != 0).foldl (fun a x => if a = 0 then x else min a x) 0

/-- Is a token busy? -/
def Cell.busy (x : Cell) (t : Nat) : Bool := (x.tok[t % 16]'(Nat.mod_lt _ (by decide))).op.isSome

/-- The operations a cell has outstanding. -/
def Cell.ops (x : Cell) : List PendingOp := x.tok.toList.filterMap fun t => t.op

/-- Registers that outstanding operations still have to write (R199); nothing writes s0 or p0 (R198). -/
def Cell.awaited (x : Cell) : List Nat :=
  (x.ops.flatMap fun o => (o.sregs.map fun r => r.1) ++ (o.vregs.map fun r => 32 + r.1) ++ (o.pregs.map fun r => 64 + r.1)).filter
    fun r => r != sId 0 && r != pId 0

/-- Outstanding operations of one engine: one running, two in its command queue at most (R206). -/
def Cell.engineFull (x : Cell) (e : Nat) : Bool := decide (3 ≤ (x.ops.filter fun o => o.engine == e).length)

/-- Take a token for an operation. -/
def Cell.take (x : Cell) (t : Nat) (o : PendingOp) : Cell :=
  let i := t % 16
  { x with tok := x.tok.set i { x.tok[i]'(Nat.mod_lt _ (by decide)) with
      op := some { o with order := x.ops.foldl (fun a p => max a (p.order + 1)) 0 } } (Nat.mod_lt _ (by decide)) }

/-- The token an instruction names (R204). -/
def tokenOf (f : Fields) : Nat := immOf f 33 30

/-- An engine operation that only returns a status. -/
def opOf (engine code count : Nat) : PendingOp where
  engine := engine
  order := 0
  status := statusWord code count
  sregs := []
  vregs := []
  pregs := []
  queue := none
  words := []
  copies := 0
  admitted := false
  noroute := false
  sends := false

/-! ## Issue (R199, R203, R205, R212, R236) -/

/-- How an instruction's own effect ends: the next instruction follows (its issue charged, or `paid` already), the pc goes elsewhere, a stall counted in a register of the cell, a stall that no register counts, or a program fault. -/
inductive Issue where
  | go (s : State)
  | paid (s : State)
  | jump (s : State) (target : BitVec 16)
  | stall (counter : Nat)
  | hold (s : State)
  | fault (code : Nat)
  deriving DecidableEq, Repr

/-- The pc and loop stack once the instruction at `pc` is done (R212). -/
def stepLoops (pc : BitVec 16) (l : List LoopEntry) : BitVec 16 × List LoopEntry :=
  match l with
  | [] => (pc + 1, [])
  | e :: t =>
    if e.stop = pc.toNat then
      if 1 < e.left then (BitVec.ofNat 16 e.start, { e with left := e.left - 1 } :: t)
      else stepLoops pc t
    else (pc + 1, e :: t)

/-- The loop stack after a taken jump: entries whose body does not hold the target are popped (R212). -/
def jumpLoops (target : Nat) (l : List LoopEntry) : List LoopEntry :=
  match l with
  | [] => []
  | e :: t => if e.start ≤ target ∧ target ≤ e.stop then e :: t else jumpLoops target t

/-- Go on to the next instruction. -/
def Cell.advance (x : Cell) : Cell :=
  let r := stepLoops x.pc x.loops
  { x with pc := r.1, loops := r.2 }

/-- Go to a target. -/
def Cell.jumpTo (x : Cell) (t : BitVec 16) : Cell := { x with pc := t, loops := jumpLoops t.toNat x.loops }

/-- A program fault (R237, R509): recorded, then a cell failure. -/
def State.programFault (s : State) (c : Fin 256) (code : Nat) : State :=
  let w := BitVec.ofNat 32 (code * 2 ^ 28 + (s.cell c).pc.toNat * 8)
  (s.modCell c fun x => { x with pfault := w }).failCell c 4 0x12 w

/-- Is a cell ready to issue? -/
def State.ready (s : State) (c : Fin 256) : Bool := s.clocked && (s.cell c).mode == .running && (s.cell c).wait == .none

/-- What an issued instruction costs: it is counted, and charged with its fetch and the cycles up to it; banks may conflict from here on (R161, R238, R484). -/
def State.payIssue (s : State) (c : Fin 256) : State :=
  (((s.bump (celR c 0x310)).charge c 10 1).chargeFree c [9, 13]).countWait (celR c 0x204)

/-- Go on after an instruction that has issued: no stall lasts, the pc moves, unless the cell has failed in it. -/
def State.goOn (s : State) (c : Fin 256) (move : Cell → Cell) : State :=
  if (s.cell c).mode == .running then s.modCell c fun x => { move x with stalled := none } else s

/-- An instruction stalls, counted in a register of the cell (R206, R231). -/
def State.stallIn (s : State) (c : Fin 256) (o : Nat) : State :=
  ((s.countStall c o).clocks c).modCell c fun x => { x with stalled := some o }

/-- Issue one instruction of a cell: fetch limit, reserved encoding, predicate, odd pair, interlock, then its own effect (R199, R203, R236). -/
def State.issue (s : State) (c : Fin 256) (f : Fields) (form : Form) (odd : Bool) (uses : List Nat) (body : State → Issue) : State :=
  let x := s.cell c
  if !s.ready c then s
  else if 64 * s.fld (celR c 0x24) 28 16 ≤ 8 * x.pc.toNat then s.programFault c 2
  else if !form.ok f then s.programFault c 1
  else if x.awaited.contains (pId f.pred.toNat) then s
  else if !x.p f.pred then (s.chargeFree c [9, 13]).goOn c Cell.advance
  else if odd then s.programFault c 4
  else if uses.any fun r => x.awaited.contains r then s
  else
    match body s with
    | .go t => (t.payIssue c).goOn c Cell.advance
    | .paid t => t.goOn c Cell.advance
    | .jump t pc => (t.payIssue c).goOn c fun y => y.jumpTo pc
    | .stall k => s.stallIn c k
    | .hold t => t.clocks c
    | .fault code => s.programFault c code

/-- Issue an instruction that takes a token for an engine: it stalls while the token is busy or the engine's command queue is full (R206), and while a sentinel run holds the engines (R499). -/
def State.issueToken (s : State) (c : Fin 256) (f : Fields) (form : Form) (odd : Bool) (uses : List Nat) (engine : Nat)
    (body : State → Issue) : State :=
  s.issue c f form odd uses fun s =>
    let x := s.cell c
    if x.busy (tokenOf f) || (decide (engine ≠ 0) && (x.engineFull engine || x.sentinel)) then .stall 0x314 else body s

/-- Run a body under an upset: an uncorrectable word fails the cell (R167). -/
def State.underUpset (s : State) (c : Fin 256) (u : Upset) (body : State → Issue) : Issue :=
  let r := s.meet c u
  if r.2 then body r.1 else .go r.1

end Sys2Proof.Machine
end

