-- ==== Sys2Proof/Machine/Fabric.lean ====
section
/-! DEFINITION. What the fabric, the hubs and the Steward do between commands of a cell: admission of items, spike delivery, reductions, status records, the due ridge as a cell sees it, the moult, and remapping. -/

namespace Sys2Proof.Machine

/-! ## Items in the mesh (R140, R231, R312) -/

/-- Who an item comes from, where it goes. -/
def MeshItem.goes (m : MeshItem) (src : Source) (c q : Fin 256) : Bool := m.src == src && m.cell == c && m.queue == q

/-- The first item of a sender for a queue that no held item of that sender stands before (R232, R312). -/
def State.firstItem (s : State) (src : Source) (c q : Fin 256) (l : List MeshItem) : Option MeshItem :=
  match l with
  | [] => none
  | m :: t =>
    if m.src == src && s.spikeHeld m then none
    else if m.goes src c q then some m else s.firstItem src c q t

/-- Does another item that was refused hold the link into the bridge of a cell? (R140) -/
def State.linkHeld (s : State) (src : Source) (c q : Fin 256) : Bool :=
  s.mesh.any fun m => m.refused && m.cell == c && !m.goes src c q

/-- Take the first item of a sender for a queue out of the mesh. -/
def takeItem (src : Source) (c q : Fin 256) (l : List MeshItem) : List MeshItem :=
  match l with
  | [] => []
  | m :: t => if m.goes src c q then t else m :: takeItem src c q t

/-- Mark the first item of a sender for a queue refused. -/
def refuseItem (src : Source) (c q : Fin 256) (l : List MeshItem) : List MeshItem :=
  match l with
  | [] => []
  | m :: t => if m.goes src c q then { m with refused := true } :: t else m :: refuseItem src c q t

/-- The account of an item's sender when a copy ends at its destination bridge (R231). -/
def State.itemEnds (s : State) (m : MeshItem) (admitted : Bool) : State :=
  match m.src, m.tok with
  | .cell c, some t => s.copyEnds c t admitted false
  | _, _ => s

/-- `FABRIC_ITEM_ADMIT` (R138, R140 to R142, R474): the sender's next item for queue `q` reaches the bridge of cell `c`, which judges it; a refused item waits and holds the link behind it (log entry 55). -/
def execFabricItemAdmit (src : Source) (c q : Fin 256) (s : State) : Res :=
  .next (match s.firstItem src c q s.mesh with
    | none => s
    | some m =>
      if !s.clocked || s.linkHeld src c q then s
      else
        let s := s.ungate (clutchOf c)
        let r : Admission := s.admission c q m.words.length
        if r == Admission.refused then { s with mesh := refuseItem src c q s.mesh }
        else (({ s with mesh := takeItem src c q s.mesh }).landItem c q m.words).itemEnds m (r == Admission.landed))

/-- Copies of one item count as one (R317): the sender and the token it holds. -/
def spikeKeys (l : List MeshItem) : List (Source × Option (Fin 16)) := distinct (l.map fun m => (m.src, m.tok))

/-- Number of clutches of a spiking region (R309). -/
def State.regionSize (s : State) (r : Nat) : Nat :=
  ((List.range 16).filter fun i => s.bit (0xD0110 + 4 * r) i).length

/-- Does a region use the drop-and-count regime? (R309) -/
def State.dropRegime (s : State) (r : Nat) : Bool := decide (3 ≤ s.regionSize r)

/-- The region a clutch belongs to (R309, R310). -/
def State.regionOf (s : State) (cl : Fin 16) : Option (Fin 4) :=
  (List.finRange 4).find? fun r => s.bit (0xD0110 + 4 * r.val) cl.val

/-- The copies of spike items of region `r` and step `k` that are in flight (R313). -/
def State.inFlight (s : State) (r : Fin 4) (k : Nat) : List MeshItem := s.mesh.filter fun m => m.spike == some (r, k)

/-- Count a dropped spike item at its sender and its region (R317). -/
def State.countDrop (s : State) (r : Fin 4) (src : Source) : State :=
  let s1 := s.bump (0xD0140 + 4 * r.val)
  match src with
  | .cell c => s1.bump (celR c 0x704)
  | _ => s1

/-- The budget of one region expires: its unadmitted spike items of the open step are discarded and counted (R317, R320). -/
def State.expireRegion (s : State) (r : Fin 4) : State :=
  let gone := s.inFlight r s.step.k
  let s1 := { s with
    mesh := s.mesh.filter fun m => m.spike != some (r, s.step.k)
    step := { s.step with expired := s.step.expired ||| BitVec.ofNat 4 (2 ^ r.val) } }
  let s2 := s1.each gone fun s m => s.itemEnds m false
  s2.each (spikeKeys gone) fun s key => s.countDrop r key.1

/-- `DELIVERY_BUDGET_EXPIRY` (R317): the budget runs out for every drop-and-count region in one FAB cycle; the command names one of them. -/
def execDeliveryBudgetExpiry (r : Fin 4) (s : State) : Res :=
  .next (if s.clocked && s.step.running && s.step.due && s.dropRegime r.val && !s.step.intakeStopped then
      s.each ((List.finRange 4).filter fun i => s.dropRegime i.val) State.expireRegion
    else s)

/-! ## The Steward's status records (R196) -/

/-- The two words of a status record (R195). -/
def statusWords (r : StatusRec) : List DWord :=
  [BitVec.ofNat 64 (r.kind.toNat * 2 ^ 56 + r.arg.toNat * 2 ^ 32 + r.step.toNat), BitVec.ofNat 64 r.data.toNat]

/-- May a kept record be offered: never refused, or a ridge has closed since (R196)? -/
def State.offerable (s : State) (r : StatusRec) : Bool :=
  match r.refused with
  | none => true
  | some n => decide (n < s.step.ridges)

/-- The first record that may be offered, and the others. -/
def State.takeStatus (s : State) (l : List StatusRec) : Option (StatusRec × List StatusRec) :=
  match l with
  | [] => none
  | r :: t => if s.offerable r then some (r, t) else (s.takeStatus t).map fun p => (p.1, r :: p.2)

/-- Mark the first record that may be offered refused at the present ridge. -/
def State.refuseStatus (s : State) (l : List StatusRec) : List StatusRec :=
  match l with
  | [] => []
  | r :: t => if s.offerable r then { r with refused := some s.step.ridges } :: t else r :: s.refuseStatus t

/-- `STATUS_RECORD_SEND` (R194, R196): the Steward offers a record to queue 255, which takes it where it has room and no back-pressure, and else refuses it until the next ridge. -/
def execStatusRecordSend (c : Fin 256) (s : State) : Res :=
  .next (match s.takeStatus (s.cell c).kept with
    | none => s
    | some (r, t) =>
      let q : Fin 256 := 255
      if !s.clocked then s
      else if s.qBusy c q || decide (s.qCap c q < (s.queue c q).words.length + 2) then
        s.modCell c fun x => { x with kept := s.refuseStatus x.kept }
      else (s.modCell c fun x => { x with kept := t }).land c q (statusWords r))

/-! ## The due ridge as a cell sees it (R217, R218) -/

/-- The fence of a queue in the cycle its cell observes the due ridge: after the words of the due cycle where the queue is fabric-fed and the ridge is the open one, else after every word (R217, R218). -/
def fenceOf (q : Queue) (fabric atOpen : Bool) : Option Nat :=
  if fabric && atOpen then some (q.mark.getD q.words.length) else some q.words.length

/-- Does a cell's step ridge stand due, or closed? (R47, R217) -/
def State.stepDue (s : State) (k : Nat) : Bool := decide (k < s.step.k) || (s.step.running && s.step.due && k == s.step.k)

/-- `DUE_RIDGE_OBSERVED` (R217, R218): the cell observes the due ridge of its cell step and queues 0 to 254 set their fences. -/
def execDueRidgeObserved (c : Fin 256) (s : State) : Res :=
  .next (match (s.cell c).step with
    | none => s
    | some k =>
      if s.stepDue k && !(s.cell c).dueSeen && (s.cell c).mode == .running then
        let atOpen := s.step.running && k == s.step.k
        s.modCell c fun x => { x with
          dueSeen := true
          queues := Vector.ofFn fun q : Fin 256 =>
            let y := x.queues[q.val]
            if q.val = 255 then y else { y with fence := fenceOf y (!s.qLocal c q) atOpen } }
      else s)

/-! ## The moult (R182) -/

/-- `MOULT_SHARE` (R163, R165 to R167, R182): the share of the cell step is visited. -/
def execMoultShare (c : Fin 256) (s : State) (u : Upset := .none) : Res :=
  .next (match (s.cell c).step with
    | none => s
    | some k =>
      if !s.clocked || (s.cell c).moultDone || (s.cell c).mode != .running then s
      else
        let m := s.meet c u
        if m.2 then
          let share := s.moultShare c
          let n := (s.moultArea c).length
          let r := m.1.visitLines c share (s.anchor k) false
          let s0 := (r.2.chargeFree c [8]).countWait (celR c 0x204)
          let s1 := if r.1 = 0 then s0 else s0.bump (celR c 0x208) r.1
          s1.modCell c fun x => { x with
            moultDone := true, moultFull := false, clearing := false
            moultPos := if x.moultFull || n = 0 then 0 else (x.moultPos + share.length) % n }
        else m.1)

/-! ## Hubs (R12, R235) -/

/-- 64-byte lines that `n` bytes from an address touch. -/
def lineCount (a n : Nat) : Nat := if n = 0 then 0 else (a + n - 1) / 64 - a / 64 + 1

/-- What ECC finds in the words of the Weight Store that a hub reads: corrections counted, an uncorrectable one cause 0x26; answers whether the broadcast goes on (R497, R504). -/
def State.weightRead (s : State) (e : Ecc) : State × Bool :=
  match e with
  | .clean => (s, true)
  | .corrected n => (s.bump 0xB0090 n, true)
  | .uncorrectable => (s.deviceFault 0x26 6 1 6 1 false, false)

/-- The upset a list gives for a cell. -/
def upsetOf (ups : CellUpsets) (c : Fin 256) : Upset := ((ups.find? fun p => p.1 == c).map fun p => p.2).getD .none

/-- One cell's part of a broadcast: a hub write of its CWM (R12, R163, R165). -/
def State.broadcastTo (s : State) (c : Fin 256) (src addr len : Nat) (u : Upset) : State :=
  if s.hasRoute c && !s.isHosted c then
    let m := s.meet c u
    if m.2 then ((m.1.writeMem c .cwm addr (memBytes s.weights src len)).charge c 9 (lineCount addr len)).countWait (celR c 0x204)
    else m.1
  else s

/-- `HUB_WEIGHT_BROADCAST` (R12, R504): one read of `len` bytes of the Weight Store from `src` into the CWM of each named cell from `addr`. -/
def execHubWeightBroadcast (cl : Fin 16) (cells : BitVec 16) (src addr len : Nat) (ecc : Ecc) (s : State) (ups : CellUpsets := []) : Res :=
  .next (if !s.clocked then s
    else
      let r := s.weightRead ecc
      if r.2 then
        (r.1.ungate cl).each ((List.finRange 16).filter fun i => cells.getLsbD i.val) fun s i =>
          s.broadcastTo (cellOf cl i) src addr len (upsetOf ups (cellOf cl i))
      else r.1)

/-! ## Remapping (R17, R22, R171, R175, R510) -/

/-- The image entry of a logical cell in the active slot. -/
def State.cellImage (s : State) (c : Fin 256) : Option CellImage :=
  match s.slots.active with
  | none => none
  | some x => x.image.cells.find? fun ci => ci.cell == c

/-- A register value an image gives to a cell. -/
def imageReg (ci : CellImage) (o : Nat) : Option Word := (ci.regs.find? fun r => r.1 == o).map fun r => r.2

/-- The cells of a clutch that can host: those with a route of their own and not the failed one (R17). -/
def State.siblings (s : State) (c : Fin 256) : List (Fin 256) :=
  ((List.finRange 16).map fun i => cellOf (clutchOf c) i).filter fun d => d != c && s.hasRoute d && !s.isHosted d

/-- Insert a shingle by its table key (R174). -/
def insertShingle (h : Shingle) (l : List Shingle) : List Shingle :=
  match l with
  | [] => [h]
  | x :: t =>
    if h.port.val * 4096 + h.col.val * 64 + h.row.val < x.port.val * 4096 + x.col.val * 64 + x.row.val then h :: x :: t
    else x :: insertShingle h t

/-- Shingles in table key order. -/
def sortShingles (l : List Shingle) : List Shingle :=
  match l with
  | [] => []
  | x :: t => insertShingle x (sortShingles t)

/-- Does a range of queue memory, in units of two words, overlap a configured queue of the cell? -/
def State.qOverlaps (s : State) (c : Fin 256) (base half : Nat) : Bool :=
  (List.finRange 256).any fun q : Fin 256 =>
    let r := celR c (0x1000 + 4 * q.val)
    let h := s.fld r 12 0
    let b := s.fld r 28 16
    decide (h ≠ 0 ∧ b < base + half ∧ base < b + h)

/-- The lowest free place for a queue of `half` words a bank. -/
def State.freeBase (s : State) (c : Fin 256) (half : Nat) : Nat :=
  ((List.range (4097 - half)).find? fun b => !s.qOverlaps c b half).getD 0

/-- Configure one hosted queue of a sibling from the failed cell's image (R171); a queue the sibling already uses is shared (DESIGN CHOICE, log entry 15). -/
def State.hostQueue (s : State) (d : Fin 256) (ci : CellImage) (q : Fin 256) : State :=
  if s.qCap d q = 0 then
    let cfg := ((imageReg ci (0x1000 + 4 * q.val)).getD 0).toNat
    let half := bitsOf cfg 12 0
    let s1 := s.setReg (celR d (0x1000 + 4 * q.val))
      (BitVec.ofNat 32 (bitsOf cfg 31 31 * 2 ^ 31 + s.freeBase d half * 2 ^ 16 + half))
    let s2 := s1.setReg (celR d (0x1400 + 4 * q.val)) ((imageReg ci (0x1400 + 4 * q.val)).getD 0)
    (s2.modCell d fun x => { x with hostedQ := x.hostedQ + 2 * half }).setQueue d q { flushQueue (s.queue d q) with last := 0 }
  else s

/-- Place one shingle of a failed cell with a sibling: a zeroed Thatch block, a CWM block from the image, its queues, and the forwarding entry (R17, R171). -/
def State.hostShingle (s : State) (c d : Fin 256) (ci : CellImage) (h : Shingle) : State :=
  let tl := s.fld (celR d 0x34) 29 16
  let cl := s.fld (celR d 0x34) 12 0
  let tb := s.memLimit d .thatch / 64
  let cb := s.memLimit d .cwm / 64
  let code := ((ci.cwm.filter fun kv => decide (64 * h.cbase ≤ kv.1 ∧ kv.1 < 64 * (h.cbase + cl))).map
    fun kv => (kv.1 - 64 * h.cbase + 64 * cb, kv.2))
  let s1 := s.modCell d fun x => { x with
    hostedT := x.hostedT + tl, hostedC := x.hostedC + cl
    hosts := x.hosts ||| BitVec.ofNat 16 (2 ^ (c.val % 16))
    thatch := memZero x.thatch (64 * tb) (64 * tl)
    cwm := code.foldl (fun m kv => memWrite m kv.1 kv.2) (memZero x.cwm (64 * cb) (64 * cl)) }
  let s2 := s1.each h.queues fun s q => s.hostQueue d ci q
  { s2 with disc := { s2.disc with hosted := s2.disc.hosted ++ [⟨c, h.port, h.col, h.row, d, h.queues, tb, cb⟩] } }

/-- Deal the shingles of a failed cell over its siblings in turn, so that they spread as evenly as their count allows (R17). -/
def State.dealShingles (s : State) (c : Fin 256) (ci : CellImage) (sib : List (Fin 256)) (l : List Shingle) (i : Nat) : State :=
  match l with
  | [] => s
  | h :: t =>
    match sib[i % sib.length]? with
    | some d => (s.hostShingle c d ci h).dealShingles c ci sib t (i + 1)
    | none => s

/-- The new bank of a sibling's shingle table: its valid entries and the shingles of `c` it now hosts (R174, R175). -/
def State.newBank (s : State) (c d : Fin 256) : List Nat :=
  shEntries (s.cell d).thatch (s.cell d).shActive ++
    ((s.disc.hosted.filter fun h => h.lcell == c && h.sibling == d).map fun h =>
      shWord true h.port.val h.col.val h.row.val c.val h.tbase h.cbase)

/-- Write a sibling's inactive bank, make it active and post the SHTAB record (R175). -/
def State.switchBank (s : State) (c d : Fin 256) : State :=
  let b := !(s.cell d).shActive
  let l := s.newBank c d
  (s.modCell d fun x => { x with thatch := writeShBank x.thatch b l, shActive := b, moultFull := true, moultDone := false }).postStatus d 1 (bitOf b)
    (BitVec.ofNat 32 (s.cell d).hosts.toNat)

/-- Does the active region map of a port give a shingle to a logical cell? -/
def mapsTo (t : Assoc Word) (c : Fin 256) : Bool :=
  t.any fun kv => (bitAt kv.2.toNat 15 && bitsOf kv.2.toNat 7 0 == c.val) || (bitAt kv.2.toNat 31 && bitsOf kv.2.toNat 23 16 == c.val)

/-- A share from the start of its stream. -/
def Share.restart (h : Share) : Share := { h with stage := 0, todo := h.buckets, slots := [], entries := [], scanned := none }

/-- Shares of open retrievals that a clutch holds. -/
def Retrieval.openShares (r : Retrieval) (cl : Fin 16) : Nat :=
  if r.ended.isNone then (r.shares.filter fun h => h.clutch == cl).length else 0

/-- A remapped retrieval cell's shares are streamed again from the start, each counted (R399). -/
def State.restartShares (s : State) (c : Fin 256) : State :=
  let cl := clutchOf c
  if s.bit 0x70014 cl.val && c.val % 16 == s.fld 0x70014 19 16 then
    let n := s.scm.retrievals.foldl (fun n r => n + r.openShares cl) 0
    let redo (r : Retrieval) : Retrieval :=
      if r.ended.isNone then { r with shares := r.shares.map fun h => if h.clutch = cl then h.restart else h } else r
    ({ s with scm := { s.scm with retrievals := s.scm.retrievals.map redo } }).bump 0x7005C n
  else s

/-- The place of a hosted logical cell once its routes are written: its shingles rebuild until `n` ridges have closed (R22, R345). -/
def hostedCell (n : Nat) : Cell := { Cell.reset with mode := .hosted, rebuild := if n = 0 then none else some n }

/-- The Steward remaps a removed cell: its shingles dealt, the new banks switched to, the routes written (R17, R22, R171, R175, R510). -/
def State.remap (s : State) (c : Fin 256) : State :=
  if (s.cell c).detectedRemap then
      let sib := s.siblings c
      let s1 := match s.cellImage c with
        | some ci => s.dealShingles c ci sib (sortShingles ci.shingles) 0
        | none => s
      let s2 := s1.each (sib.filter fun d => s1.disc.hosted.any fun h => h.lcell == c && h.sibling == d) fun s d => s.switchBank c d
      let s3 := ({ s2 with disc := { s2.disc with routed := s2.disc.routed ||| BitVec.ofNat 256 (2 ^ c.val) } }).setCell c (hostedCell (s2.fld 0x50010 15 0))
      let s4 := (s3.restartShares c).keepRecovery.writeRoutes
      if (s.cell c).overdue && !s4.anyOverdue then s4.causeGone 2 else s4
  else s

/-- `REMAP_ROUTES_WRITTEN`: a removed cell becomes a hosted logical cell; `ups` are the upsets of the Steward's writes into the siblings (R163). -/
def execRemapRoutesWritten (c : Fin 256) (s : State) (ups : CellUpsets := []) : Res :=
  .next (if (s.cell c).detectedRemap then ((s.ungate (clutchOf c)).meetAll ups).remap c else s)

/-- `REMAP_DEADLINE_EXPIRY` (R510): the routes are not written within 3 ms of detection. -/
def execRemapDeadlineExpiry (c : Fin 256) (s : State) : Res :=
  .next (if (s.cell c).detectedRemap && !(s.cell c).overdue then
      (s.modCell c fun x => { x with overdue := true }).deviceFault 0x22 2 c.val 1 (BitVec.ofNat 32 c.val) true
    else s)

end Sys2Proof.Machine
end

