-- ==== Sys2Proof/Machine/Float.lean ====
section
/-! DEFINITION. Floating point: the formats of R245 and their exact operations with one rounding to nearest even. -/

namespace Sys2Proof.Machine

/-- A value: NaN, an infinity, or sign, m and e of ±m·2^e. -/
inductive FVal where
  | nan
  | inf (neg : Bool)
  | fin (neg : Bool) (m : Nat) (e : Int)
  deriving DecidableEq, Repr

/-- How a format uses its largest exponent: as IEEE 754 does, only its last code for NaN (E4M3), or for nothing special (E2M1). -/
inductive FKind where
  | ieee | lastNan | finite
  deriving DecidableEq, Repr

/-- A format: exponent bits, fraction bits, kind. -/
structure Fmt where
  eb : Nat
  mb : Nat
  kind : FKind
  deriving DecidableEq, Repr

def fp32 : Fmt := ⟨8, 23, .ieee⟩
def fp16 : Fmt := ⟨5, 10, .ieee⟩
def bf16 : Fmt := ⟨8, 7, .ieee⟩
def e5m2 : Fmt := ⟨5, 2, .ieee⟩
def e4m3 : Fmt := ⟨4, 3, .lastNan⟩
def e2m1 : Fmt := ⟨2, 1, .finite⟩

def Fmt.bias (f : Fmt) : Nat := 2 ^ (f.eb - 1) - 1

/-- The least exponent of a quantum: of subnormal numbers. -/
def Fmt.qmin (f : Fmt) : Int := 1 - (f.bias : Int) - f.mb

/-- Magnitude bits of infinity (IEEE kinds), of NaN (E4M3), or beyond the last code (E2M1). -/
def Fmt.top (f : Fmt) : Nat :=
  match f.kind with
  | .ieee => (2 ^ f.eb - 1) * 2 ^ f.mb
  | .lastNan => 2 ^ (f.eb + f.mb) - 1
  | .finite => 2 ^ (f.eb + f.mb)

/-- The value of a pattern. -/
def fDecode (f : Fmt) (bits : Nat) : FVal :=
  let neg := bitAt bits (f.eb + f.mb)
  let mag := bits % 2 ^ (f.eb + f.mb)
  if f.top ≤ mag then
    match f.kind with
    | .ieee => if mag = f.top then .inf neg else .nan
    | _ => .nan
  else
    let ex := mag / 2 ^ f.mb
    let fr := mag % 2 ^ f.mb
    if ex = 0 then .fin neg fr f.qmin else .fin neg (2 ^ f.mb + fr) (f.qmin + (ex - 1 : Nat))

/-- A NaN of a format: its fraction is a free value of the device (log entry 8). -/
def Fmt.nanBits (f : Fmt) : Nat :=
  match f.kind with
  | .lastNan => 2 ^ (f.eb + f.mb) - 1
  | _ =>
    let p := (Config.freeNan (f.eb + f.mb + 1)).toNat
    p / 2 ^ 31 * 2 ^ (f.eb + f.mb) + (2 ^ f.eb - 1) * 2 ^ f.mb + (if p % 2 ^ f.mb = 0 then 1 else p % 2 ^ f.mb)

/-- m·2^e divided by 2^q, rounded to nearest even. -/
def roundAt (m : Nat) (e q : Int) : Nat :=
  if q ≤ e then m * 2 ^ (e - q).toNat
  else
    let d := 2 ^ (q - e).toNat
    let n := m / d
    let r := m % d
    if 2 * r < d then n else if d < 2 * r then n + 1 else n + n % 2

/-- The magnitude pattern of m·2^e before any check of overflow. -/
def magOf (f : Fmt) (m : Nat) (e : Int) : Nat :=
  if m = 0 then 0
  else
    let q := max (e + (Nat.log2 m : Nat) - f.mb) f.qmin
    (q - f.qmin).toNat * 2 ^ f.mb + roundAt m e q

def signBit (f : Fmt) (neg : Bool) : Nat := bitOf neg * 2 ^ (f.eb + f.mb)

/-- Round to a format, overflow to infinity as IEEE 754 does. -/
def fRound (f : Fmt) (v : FVal) : Nat :=
  match v with
  | .nan => f.nanBits
  | .inf neg => signBit f neg + f.top
  | .fin neg m e => signBit f neg + min f.top (magOf f m e)

/-- Round to a format, a value beyond the largest finite magnitude becoming that magnitude; NaN stays NaN. Answers also whether it saturated (R249). -/
def fSat (f : Fmt) (v : FVal) : Nat × Bool :=
  match v with
  | .nan => (f.nanBits, false)
  | .inf neg => (signBit f neg + (f.top - 1), true)
  | .fin neg m e =>
    let g := magOf f m e
    if f.top ≤ g then (signBit f neg + (f.top - 1), true) else (signBit f neg + g, false)

/-! ## Exact operations -/

def FVal.neg : FVal → FVal
  | .nan => .nan
  | .inf n => .inf (!n)
  | .fin n m e => .fin (!n) m e

/-- The signed significand of a finite value at exponent `e`, which is at most its own. -/
def sigAt (neg : Bool) (m : Nat) (e0 e : Int) : Int :=
  let k : Int := (m * 2 ^ (e0 - e).toNat : Nat)
  if neg then -k else k

/-- Exact sum; a zero sum of opposite signs is +0. -/
def FVal.add (a b : FVal) : FVal :=
  match a, b with
  | .nan, _ => .nan
  | _, .nan => .nan
  | .inf x, .inf y => if x = y then .inf x else .nan
  | .inf x, _ => .inf x
  | _, .inf y => .inf y
  | .fin n1 m1 e1, .fin n2 m2 e2 =>
    let e := min e1 e2
    let t := sigAt n1 m1 e1 e + sigAt n2 m2 e2 e
    if t = 0 then .fin (n1 && n2) 0 e else .fin (decide (t < 0)) t.natAbs e

/-- Exact product. -/
def FVal.mul (a b : FVal) : FVal :=
  match a, b with
  | .nan, _ => .nan
  | _, .nan => .nan
  | .inf x, .inf y => .inf (x != y)
  | .inf x, .fin n m _ => if m = 0 then .nan else .inf (x != n)
  | .fin n m _, .inf y => if m = 0 then .nan else .inf (n != y)
  | .fin n1 m1 e1, .fin n2 m2 e2 => .fin (n1 != n2) (m1 * m2) (e1 + e2)

/-- Quotient with a sticky bit, exact for one later rounding to at most 32 bits. -/
def FVal.div (a b : FVal) : FVal :=
  match a, b with
  | .nan, _ => .nan
  | _, .nan => .nan
  | .inf _, .inf _ => .nan
  | .inf x, .fin n _ _ => .inf (x != n)
  | .fin n _ _, .inf y => .fin (n != y) 0 0
  | .fin n1 m1 e1, .fin n2 m2 e2 =>
    if m2 = 0 then if m1 = 0 then .nan else .inf (n1 != n2)
    else
      let k := 40 + Nat.log2 m2
      let q := m1 * 2 ^ k / m2
      .fin (n1 != n2) (2 * q + bitOf (m1 * 2 ^ k % m2 != 0)) (e1 - e2 - k - 1)

/-- Integer square root, `fuel` bits from the top. -/
def isqrtFrom (n r : Nat) (fuel : Nat) : Nat :=
  match fuel with
  | 0 => r
  | k + 1 => if (r + 2 ^ k) * (r + 2 ^ k) ≤ n then isqrtFrom n (r + 2 ^ k) k else isqrtFrom n r k

/-- Floor of a square root. -/
def isqrt (n : Nat) : Nat := isqrtFrom n 0 (Nat.log2 n / 2 + 1)

/-- Square root with a sticky bit. -/
def FVal.sqrt (a : FVal) : FVal :=
  match a with
  | .nan => .nan
  | .inf n => if n then .nan else .inf false
  | .fin n m e =>
    if m = 0 then .fin n 0 0
    else if n then .nan
    else
      let odd := (e % 2).toNat
      let w := m * 2 ^ (80 + odd)
      let r := isqrt w
      .fin false (2 * r + bitOf (r * r != w)) ((e - odd) / 2 - 40 - 1)

/-- Is a value less than another? False with NaN. -/
def FVal.lt (a b : FVal) : Bool :=
  match a, b with
  | .nan, _ => false
  | _, .nan => false
  | .inf x, .inf y => x && !y
  | .inf x, _ => x
  | _, .inf y => !y
  | .fin n1 m1 e1, .fin n2 m2 e2 =>
    let e := min e1 e2
    decide (sigAt n1 m1 e1 e < sigAt n2 m2 e2 e)

def FVal.isZero : FVal → Bool
  | .fin _ m _ => m == 0
  | _ => false

def FVal.isFinite : FVal → Bool
  | .fin _ _ _ => true
  | _ => false

def FVal.isNan : FVal → Bool
  | .nan => true
  | _ => false

/-- An integer as a value. -/
def fOfInt (i : Int) : FVal := .fin (decide (i < 0)) i.natAbs 0

/-- Floor of a finite value; 0 for the others. -/
def FVal.floor : FVal → Int
  | .fin n m e =>
    if 0 ≤ e then sigAt n m e 0
    else (if n then -(m : Int) else (m : Int)) / ((2 ^ (-e).toNat : Nat) : Int)
  | _ => 0

/-- Round half toward plus infinity to an integer. -/
def FVal.roundUp (v : FVal) : Int := (v.add (.fin false 1 (-1))).floor

/-- Round half to even to an integer. -/
def FVal.roundEven : FVal → Int
  | .fin n m e => let k : Int := roundAt m e 0; if n then -k else k
  | _ => 0

/-! ## binary32 on words -/

def fval (w : Word) : FVal := fDecode fp32 w.toNat
def f32 (v : FVal) : Word := BitVec.ofNat 32 (fRound fp32 v)
def fAdd (a b : Word) : Word := f32 ((fval a).add (fval b))
def fSub (a b : Word) : Word := f32 ((fval a).add (fval b).neg)
def fMul (a b : Word) : Word := f32 ((fval a).mul (fval b))
def fDiv (a b : Word) : Word := f32 ((fval a).div (fval b))
def fSqrt (a : Word) : Word := f32 (fval a).sqrt
def fNeg (a : Word) : Word := a ^^^ 0x80000000#32
def fLt (a b : Word) : Bool := (fval a).lt (fval b)
/-- An integer in binary32. -/
def fInt (i : Int) : Word := f32 (fOfInt i)
/-- The quotient of two integers in binary32, rounded once. -/
def fRatio (a b : Int) : Word := f32 ((fOfInt a).div (fOfInt b))

end Sys2Proof.Machine
end

