-- ==== Sys2Proof/Machine/CellCore.lean ====
section
/-! DEFINITION. The core instructions of a cell (07): flow control, synchronisation, scalar and compare, loads and stores, descriptors, vector moves, queues and fabric. -/

namespace Sys2Proof.Machine

/-! ## Flow control and system read, major 0x00 -/

/-- The signed instruction offset of `BR` and `JAL`. -/
def branchTo (pc : BitVec 16) (f : Fields) : BitVec 16 := BitVec.ofInt 16 ((pc.toNat : Int) + signedOf 17 (immOf f 16 0))

/-- `NOP` (R202); a word with a reserved MAJOR or MINOR is a program fault (R205, R236), and one of another instruction is no `NOP`. -/
def execNop (c : Fin 256) (f : Fields) (s : State) (op : BitVec 12 := 0) : Res :=
  .next (if op = 0 ∨ reservedOp op then s.issue c f ⟨.none, .none, .none, 0, op == 0⟩ false [] fun s => .go s else s)

/-- `BR`: PC := PC + 8·offset. -/
def execBr (c : Fin 256) (f : Fields) (s : State) : Res :=
  .next (s.issue c f ⟨.none, .none, .none, im 16 0, true⟩ false [] fun s => .jump s (branchTo (s.cell c).pc f))

/-- `JAL`: as `BR`, the address of the next instruction into sd. -/
def execJal (c : Fin 256) (f : Fields) (s : State) : Res :=
  .next (s.issue c f ⟨.s, .none, .none, im 16 0, true⟩ false [sId f.d] fun s =>
    let pc := (s.cell c).pc
    .jump (s.modCell c fun x => x.setS f.d (BitVec.ofNat 32 ((pc + 1).toNat * 8))) (branchTo pc f))

/-- `JR`: PC := sa with bits [2:0] taken as zero. -/
def execJr (c : Fin 256) (f : Fields) (s : State) : Res :=
  .next (s.issue c f ⟨.none, .s, .none, 0, true⟩ false [sId f.a] fun s =>
    .jump s (BitVec.ofNat 16 (((s.cell c).s f.a).toNat / 8)))

/-- `LOOP` (R212, R213): an entry is pushed; with sa at 0 the body is skipped. -/
def execLoop (c : Fin 256) (f : Fields) (s : State) : Res :=
  .next (s.issue c f ⟨.none, .s, .none, im 11 0, true⟩ false [sId f.a] fun s =>
    let x := s.cell c
    let first := x.pc.toNat + 1
    let last := x.pc.toNat + 1 + immOf f 11 0
    let beyond := match x.loops with | [] => false | e :: _ => decide (e.stop < last)
    if 4 ≤ x.loops.length || beyond then .fault 3
    else if x.s f.a = 0 then
      let r := stepLoops (BitVec.ofNat 16 last) x.loops
      .jump (s.modCell c fun y => { y with loops := r.2 }) r.1
    else .go (s.modCell c fun y => { y with loops := ⟨first, last, (x.s f.a).toNat⟩ :: y.loops }))

/-- ARITH frequency of a level in kHz (R214). -/
def levelKHz (l : BitVec 2) : Nat :=
  match l.toNat with
  | 0 => 200000
  | 1 => 266667
  | 2 => 400000
  | _ => 533333

/-- The value of an `RDSYS` selector (R214). -/
def State.sysValue (s : State) (c : Fin 256) (sel : Nat) : Word :=
  let x := s.cell c
  let stop := match x.step with | some k => s.endOf k | none => 0
  BitVec.ofNat 32 (match sel with
    | 0 => c.val
    | 1 => x.step.getD 0
    | 2 => s.period
    | 3 => stop
    | 4 => stop % 2 ^ 62 / 2 ^ 32
    | 5 => levelKHz (s.clutch (clutchOf c)).level
    | 6 => shBank x.shActive
    | 7 => (shEntries x.thatch x.shActive).length
    | 8 => (List.range 16).foldl (fun a t => a + bitOf (x.busy t) * 2 ^ t) 0
    | 9 => bitOf x.dueSeen
    | _ => (Config.freeCycles s.free).toNat)

/-- `RDSYS` (R214): selectors 11 to 63 are program faults. -/
def execRdsys (c : Fin 256) (f : Fields) (s : State) : Res :=
  .next (s.issue c f ⟨.s, .none, .none, im 5 0, true⟩ false [sId f.d] fun s =>
    if 11 ≤ immOf f 5 0 then .fault 1
    else .go ((s.modCell c fun x => x.setS f.d (s.sysValue c (immOf f 5 0))).tick))

/-! ## Synchronisation, major 0x02 -/

/-- The status `WAIT` reports (R215). -/
def waitStatus (x : Cell) (mask : Nat) : Word :=
  let l := ((List.finRange 16).filter fun t => bitAt mask t.val).map fun t => x.tok[t.val].status
  match l.find? fun w => bitsOf w.toNat 23 16 != 0 with
  | some w => w
  | none => l.headD 0

/-- `WAIT` (R215): stalls until every masked token is free. -/
def execWait (c : Fin 256) (f : Fields) (s : State) : Res :=
  .next (s.issue c f ⟨.s, .none, .none, im 15 0, true⟩ false [sId f.d] fun s =>
    let x := s.cell c
    if (List.range 16).any fun t => bitAt (immOf f 15 0) t && x.busy t then .stall 0x314
    else .go (s.modCell c fun y => y.setS f.d (waitStatus x (immOf f 15 0))))

/-- Pre-fence words of a queue: all unread words while no fence is set (R218). -/
def preWords (q : Queue) : Nat := q.fence.getD q.words.length

/-- What a `WAITQ` finds (R221): a queue number, 0x100, or nothing yet. -/
def Cell.waitqFinds (x : Cell) (mask : BitVec 256) : Option Nat :=
  let l := (List.finRange 256).filter fun q : Fin 256 => mask.getLsbD q.val &&
    decide (0 < if x.dueSeen then preWords x.queues[q.val] else (x.queues[q.val]).words.length)
  match l.head? with
  | some q => some q.val
  | none => if x.dueSeen then some 0x100 else none

/-- A `WAITQ` completes with a value. -/
def State.endWaitq (s : State) (c : Fin 256) (d : Nat) (v : Nat) : State :=
  s.modCell c fun x => ({ x with wait := .none }).setS (BitVec.ofNat 5 d) (BitVec.ofNat 32 v)

/-- `WAITQ` (R220, R221): completes at issue where a condition holds, else blocks. -/
def execWaitq (c : Fin 256) (f : Fields) (s : State) : Res :=
  .next (s.issue c f ⟨.s, .v, .s, 0, true⟩ false [sId f.d, vId f.a.toNat, sId f.b] fun s =>
    let x := s.cell c
    let mask := (x.v (r4 f.a)).setWidth 256
    match x.waitqFinds mask with
    | some v => .go (s.endWaitq c f.d.toNat v)
    | none => .go (s.modCell c fun y => { y with wait := .waitq mask (x.s f.b).toNat f.d.toNat }))

/-- `WAITQ_COMPLETE` (R221). -/
def execWaitqComplete (c : Fin 256) (s : State) : Res :=
  .next (if !s.clocked then s
    else match (s.cell c).wait with
    | .waitq mask _ d => match (s.cell c).waitqFinds mask with
      | some v => (s.clocks c).endWaitq c d v
      | none => s
    | _ => s)

/-- `WAITQ_LIMIT_EXPIRY` (R222): a condition that holds in the last cycle is reported and not the limit. -/
def execWaitqLimitExpiry (c : Fin 256) (s : State) : Res :=
  .next (if !s.clocked then s
    else match (s.cell c).wait with
    | .waitq mask limit d =>
      if limit = 0 then s
      else match (s.cell c).waitqFinds mask with
        | some v => (s.clocks c).endWaitq c d v
        | none => ((s.clocks c).bump (celR c 0x318)).endWaitq c d 0x200
    | _ => s)

/-- Has the cell's moult visited its share? (R183) -/
def State.moultOk (s : State) (c : Fin 256) : Bool := (s.cell c).moultDone || (s.moultShare c).isEmpty

/-- Do the conditions of R224 hold? -/
def State.ridgeReady (s : State) (c : Fin 256) : Bool :=
  let x := s.cell c
  x.step.isSome && x.dueSeen && x.ops.isEmpty && !(s.mesh.any fun m => m.src == .cell c) && s.moultOk c

/-- The cell counts toward its ridge: the step advances, fences clear, the reservation is released (R219, R224, R487). -/
def State.endRidge (s : State) (c : Fin 256) (d : Nat) : State :=
  s.modCell c fun x =>
    let k := x.step.getD 0 + 1
    ({ x with
      wait := .none, step := some k, dueSeen := false, moultDone := false
      queues := x.queues.map (fun q : Queue => { q with fence := none })
      spent := 0, reserved := 0 }).setS (BitVec.ofNat 5 d) (stepIdx k)

/-- `RIDGE` (R224): completes where every condition holds, else waits. What it costs counts in the cell step it ends (R485). -/
def execRidge (c : Fin 256) (f : Fields) (s : State) : Res :=
  .next (s.issue c f ⟨.s, .none, .none, 0, true⟩ false [sId f.d] fun s =>
    if s.ridgeReady c then .paid ((s.payIssue c).endRidge c f.d.toNat) else .go (s.modCell c fun x => { x with wait := .ridge f.d.toNat }))

/-- `RIDGE_COMPLETE` (R224). -/
def execRidgeComplete (c : Fin 256) (s : State) : Res :=
  .next (if !s.clocked then s
    else match (s.cell c).wait with
    | .ridge d => if s.ridgeReady c then (s.clocks c).endRidge c d else s
    | _ => s)

/-! ## Scalar ALU, majors 0x04 and 0x05 -/

/-- One scalar operation, register or immediate form. -/
def State.alu (s : State) (c : Fin 256) (imm : Bool) (f : Fields) (op : Word → Word → Word) : State :=
  if imm then
    s.issue c f ⟨.s, .s, .none, im 31 0, true⟩ false [sId f.d, sId f.a] fun s =>
      .go (s.modCell c fun x => x.setS f.d (op (x.s f.a) (BitVec.ofNat 32 f.imm.toNat)))
  else
    s.issue c f ⟨.s, .s, .s, 0, true⟩ false [sId f.d, sId f.a, sId f.b] fun s =>
      .go (s.modCell c fun x => x.setS f.d (op (x.s f.a) (x.s f.b)))

/-- `ADD`: sum, modulo 2^32. -/
def execSAdd (c : Fin 256) (imm : Bool) (f : Fields) (s : State) : Res := .next (s.alu c imm f fun a b => a + b)
/-- `SUB`: difference, modulo 2^32. -/
def execSSub (c : Fin 256) (imm : Bool) (f : Fields) (s : State) : Res := .next (s.alu c imm f fun a b => a - b)
/-- `AND`. -/
def execSAnd (c : Fin 256) (imm : Bool) (f : Fields) (s : State) : Res := .next (s.alu c imm f fun a b => a &&& b)
/-- `OR`. -/
def execSOr (c : Fin 256) (imm : Bool) (f : Fields) (s : State) : Res := .next (s.alu c imm f fun a b => a ||| b)
/-- `XOR`. -/
def execSXor (c : Fin 256) (imm : Bool) (f : Fields) (s : State) : Res := .next (s.alu c imm f fun a b => a ^^^ b)
/-- `SHL`: shift left by b[4:0]. -/
def execShl (c : Fin 256) (imm : Bool) (f : Fields) (s : State) : Res := .next (s.alu c imm f fun a b => a <<< (b.toNat % 32))
/-- `SHR`: logical shift right by b[4:0]. -/
def execShr (c : Fin 256) (imm : Bool) (f : Fields) (s : State) : Res := .next (s.alu c imm f fun a b => a >>> (b.toNat % 32))
/-- `SRA`: arithmetic shift right by b[4:0]. -/
def execSra (c : Fin 256) (imm : Bool) (f : Fields) (s : State) : Res := .next (s.alu c imm f fun a b => a.sshiftRight (b.toNat % 32))
/-- `MUL`: low 32 bits of the product. -/
def execMul (c : Fin 256) (imm : Bool) (f : Fields) (s : State) : Res := .next (s.alu c imm f fun a b => a * b)
/-- `MULHU`: high 32 bits, unsigned. -/
def execMulhu (c : Fin 256) (imm : Bool) (f : Fields) (s : State) : Res :=
  .next (s.alu c imm f fun a b => BitVec.ofNat 32 (a.toNat * b.toNat / 2 ^ 32))
/-- `MULHS`: high 32 bits, signed. -/
def execMulhs (c : Fin 256) (imm : Bool) (f : Fields) (s : State) : Res :=
  .next (s.alu c imm f fun a b => BitVec.ofInt 32 (a.toInt * b.toInt / 2 ^ 32))
/-- `MIN`: signed minimum. -/
def execSMin (c : Fin 256) (imm : Bool) (f : Fields) (s : State) : Res := .next (s.alu c imm f fun a b => if b.slt a then b else a)
/-- `MAX`: signed maximum. -/
def execSMax (c : Fin 256) (imm : Bool) (f : Fields) (s : State) : Res := .next (s.alu c imm f fun a b => if a.slt b then b else a)
/-- `MINU`: unsigned minimum. -/
def execMinu (c : Fin 256) (imm : Bool) (f : Fields) (s : State) : Res := .next (s.alu c imm f fun a b => if b.ult a then b else a)
/-- `MAXU`: unsigned maximum. -/
def execMaxu (c : Fin 256) (imm : Bool) (f : Fields) (s : State) : Res := .next (s.alu c imm f fun a b => if a.ult b then b else a)

/-- `SEL`: sd := sa if p[IMM [2:0]] is 1, otherwise sb. -/
def execSel (c : Fin 256) (f : Fields) (s : State) : Res :=
  .next (s.issue c f ⟨.s, .s, .s, im 2 0, true⟩ false [sId f.d, sId f.a, sId f.b, pId (immOf f 2 0)] fun s =>
    .go (s.modCell c fun x => x.setS f.d (if x.p (BitVec.ofNat 3 (immOf f 2 0)) then x.s f.a else x.s f.b)))

/-! ## Compare and predicate logic, major 0x06 -/

/-- One compare: p[d] := r, and with IMM [19] p[IMM [18:16]] := not r. -/
def State.compare (s : State) (c : Fin 256) (imm : Bool) (f : Fields) (cc : Word → Word → Bool) : State :=
  let form : Form := if imm then ⟨.p, .s, .none, im 19 0, true⟩ else ⟨.p, .s, .s, im 19 16, true⟩
  let q : BitVec 3 := BitVec.ofNat 3 (immOf f 18 16)
  let uses := [pId f.d.toNat, sId f.a] ++ (if imm then [] else [sId f.b]) ++ (if bitAt f.imm.toNat 19 then [pId q.toNat] else [])
  s.issue c f form false uses fun s =>
    let x := s.cell c
    let r := cc (x.s f.a) (if imm then BitVec.ofInt 32 (signedOf 16 (immOf f 15 0)) else x.s f.b)
    let y := x.setP (r3 f.d) r
    .go (s.setCell c (if bitAt f.imm.toNat 19 then y.setP q (!r) else y))

def ccEq (a b : Word) : Bool := a == b
def ccNe (a b : Word) : Bool := a != b
def ccLt (a b : Word) : Bool := a.slt b
def ccLe (a b : Word) : Bool := a.sle b
def ccLtu (a b : Word) : Bool := a.ult b
def ccLeu (a b : Word) : Bool := a.ule b

/-- `CMP.EQ`. -/
def execCmpEq (c : Fin 256) (f : Fields) (s : State) : Res := .next (s.compare c false f ccEq)
/-- `CMP.NE`. -/
def execCmpNe (c : Fin 256) (f : Fields) (s : State) : Res := .next (s.compare c false f ccNe)
/-- `CMP.LT`. -/
def execCmpLt (c : Fin 256) (f : Fields) (s : State) : Res := .next (s.compare c false f ccLt)
/-- `CMP.LE`. -/
def execCmpLe (c : Fin 256) (f : Fields) (s : State) : Res := .next (s.compare c false f ccLe)
/-- `CMP.LTU`. -/
def execCmpLtu (c : Fin 256) (f : Fields) (s : State) : Res := .next (s.compare c false f ccLtu)
/-- `CMP.LEU`. -/
def execCmpLeu (c : Fin 256) (f : Fields) (s : State) : Res := .next (s.compare c false f ccLeu)
/-- `CMPI.EQ`. -/
def execCmpiEq (c : Fin 256) (f : Fields) (s : State) : Res := .next (s.compare c true f ccEq)
/-- `CMPI.NE`. -/
def execCmpiNe (c : Fin 256) (f : Fields) (s : State) : Res := .next (s.compare c true f ccNe)
/-- `CMPI.LT`. -/
def execCmpiLt (c : Fin 256) (f : Fields) (s : State) : Res := .next (s.compare c true f ccLt)
/-- `CMPI.LE`. -/
def execCmpiLe (c : Fin 256) (f : Fields) (s : State) : Res := .next (s.compare c true f ccLe)
/-- `CMPI.LTU`. -/
def execCmpiLtu (c : Fin 256) (f : Fields) (s : State) : Res := .next (s.compare c true f ccLtu)
/-- `CMPI.LEU`. -/
def execCmpiLeu (c : Fin 256) (f : Fields) (s : State) : Res := .next (s.compare c true f ccLeu)

/-- Predicate logic on p[a] and p[b]. -/
def State.plogic (s : State) (c : Fin 256) (f : Fields) (op : Bool → Bool → Bool) : State :=
  s.issue c f ⟨.p, .p, .p, 0, true⟩ false [pId f.d.toNat, pId f.a.toNat, pId f.b.toNat] fun s =>
    .go (s.modCell c fun x => x.setP (r3 f.d) (op (x.p (r3 f.a)) (x.p (r3 f.b))))

/-- `PAND`. -/
def execPand (c : Fin 256) (f : Fields) (s : State) : Res := .next (s.plogic c f and)
/-- `POR`. -/
def execPor (c : Fin 256) (f : Fields) (s : State) : Res := .next (s.plogic c f or)
/-- `PXOR`. -/
def execPxor (c : Fin 256) (f : Fields) (s : State) : Res := .next (s.plogic c f xor)
/-- `PNOT`: p[d] := not p[a]. -/
def execPnot (c : Fin 256) (f : Fields) (s : State) : Res :=
  .next (s.issue c f ⟨.p, .p, .none, 0, true⟩ false [pId f.d.toNat, pId f.a.toNat] fun s =>
    .go (s.modCell c fun x => x.setP (r3 f.d) (!x.p (r3 f.a))))

/-! ## Memory, majors 0x08 and 0x09 (R165, R201, R225, R226) -/

def memOf (cwm : Bool) : Mem := if cwm then .cwm else .thatch

/-- The address of a load or store: sa plus IMM [19:0] sign-extended, aligned down to the access size (R225). -/
def Cell.addr (x : Cell) (f : Fields) (bits size : Nat) : Nat :=
  (x.s f.a + BitVec.ofInt 32 (signedOf bits (immOf f (bits - 1) 0))).toNat / size * size

/-- The ledger class of a line access (R484). -/
def lineClass (m : Mem) : Nat :=
  match m with
  | .thatch => 8
  | .cwm => 9

/-- A scalar load of `n` bytes, extended by `ext`. -/
def State.load (s : State) (c : Fin 256) (cwm : Bool) (f : Fields) (u : Upset) (n : Nat) (ext : Nat → Word) : State :=
  s.issue c f ⟨.s, .s, .none, im 19 0, true⟩ false [sId f.d, sId f.a] fun s => s.underUpset c u fun s =>
    let a := (s.cell c).addr f 20 n
    let v := s.readNat c (memOf cwm) a n
    .go (((s.checkMem c (memOf cwm) a n).charge c (lineClass (memOf cwm)) 1).modCell c fun x => x.setS f.d (ext v))

/-- A scalar store of the low `n` bytes of sb. -/
def State.store (s : State) (c : Fin 256) (cwm : Bool) (f : Fields) (u : Upset) (n : Nat) : State :=
  s.issue c f ⟨.none, .s, .s, im 19 0, true⟩ false [sId f.a, sId f.b] fun s => s.underUpset c u fun s =>
    let x := s.cell c
    .go ((s.writeMem c (memOf cwm) (x.addr f 20 n) (natLe n (x.s f.b).toNat)).charge c (lineClass (memOf cwm)) 1)

/-- `LDx.W`. -/
def execLdxW (c : Fin 256) (cwm : Bool) (f : Fields) (u : Upset) (s : State) : Res := .next (s.load c cwm f u 4 fun v => BitVec.ofNat 32 v)
/-- `LDx.H`: zero-extended. -/
def execLdxH (c : Fin 256) (cwm : Bool) (f : Fields) (u : Upset) (s : State) : Res := .next (s.load c cwm f u 2 fun v => BitVec.ofNat 32 v)
/-- `LDx.HS`: sign-extended. -/
def execLdxHs (c : Fin 256) (cwm : Bool) (f : Fields) (u : Upset) (s : State) : Res := .next (s.load c cwm f u 2 fun v => BitVec.ofInt 32 (signedOf 16 v))
/-- `LDx.B`: zero-extended. -/
def execLdxB (c : Fin 256) (cwm : Bool) (f : Fields) (u : Upset) (s : State) : Res := .next (s.load c cwm f u 1 fun v => BitVec.ofNat 32 v)
/-- `LDx.BS`: sign-extended. -/
def execLdxBs (c : Fin 256) (cwm : Bool) (f : Fields) (u : Upset) (s : State) : Res := .next (s.load c cwm f u 1 fun v => BitVec.ofInt 32 (signedOf 8 v))

/-- `LDx.V`: one 64-byte line into vd. -/
def execLdxV (c : Fin 256) (cwm : Bool) (f : Fields) (u : Upset) (s : State) : Res :=
  .next (s.issue c f ⟨.v, .s, .none, im 19 0, true⟩ false [vId f.d.toNat, sId f.a] fun s => s.underUpset c u fun s =>
    let a := (s.cell c).addr f 20 64
    let v := s.readNat c (memOf cwm) a 64
    .go (((s.checkMem c (memOf cwm) a 64).charge c (lineClass (memOf cwm)) 1).modCell c fun x => x.setV (r4 f.d) (BitVec.ofNat 512 v)))

/-- `STx.W`. -/
def execStxW (c : Fin 256) (cwm : Bool) (f : Fields) (u : Upset) (s : State) : Res := .next (s.store c cwm f u 4)
/-- `STx.H`. -/
def execStxH (c : Fin 256) (cwm : Bool) (f : Fields) (u : Upset) (s : State) : Res := .next (s.store c cwm f u 2)
/-- `STx.B`. -/
def execStxB (c : Fin 256) (cwm : Bool) (f : Fields) (u : Upset) (s : State) : Res := .next (s.store c cwm f u 1)

/-- `STx.V`: one line from vb. -/
def execStxV (c : Fin 256) (cwm : Bool) (f : Fields) (u : Upset) (s : State) : Res :=
  .next (s.issue c f ⟨.none, .s, .v, im 19 0, true⟩ false [sId f.a, vId f.b.toNat] fun s => s.underUpset c u fun s =>
    let x := s.cell c
    .go ((s.writeMem c (memOf cwm) (x.addr f 20 64) (natLe 64 (x.v (r4 f.b)).toNat)).charge c (lineClass (memOf cwm)) 1))

/-! ## Descriptors, major 0x0A (R209) -/

/-- Replace bits `hi` to `lo` of a number. -/
def putBits (n hi lo v : Nat) : Nat := n - bitsOf n hi lo * 2 ^ lo + v % 2 ^ (hi + 1 - lo) * 2 ^ lo

/-- `LDG`: gd := 32 bytes at sa + offset, aligned down to 32. -/
def execLdg (c : Fin 256) (f : Fields) (u : Upset) (s : State) : Res :=
  .next (s.issue c f ⟨.g, .s, .none, im 20 0, true⟩ false [sId f.a] fun s => s.underUpset c u fun s =>
    let m := memOf (bitAt f.imm.toNat 20)
    let a := (s.cell c).addr f 20 32
    let v := s.readNat c m a 32
    .go (((s.checkMem c m a 32).charge c (lineClass m) 1).modCell c fun x => x.setG (r3 f.d) (BitVec.ofNat 256 v)))

/-- `STG`: stores gb. -/
def execStg (c : Fin 256) (f : Fields) (u : Upset) (s : State) : Res :=
  .next (s.issue c f ⟨.none, .s, .g, im 20 0, true⟩ false [sId f.a] fun s => s.underUpset c u fun s =>
    let x := s.cell c
    let m := memOf (bitAt f.imm.toNat 20)
    .go ((s.writeMem c m (x.addr f 20 32) (natLe 32 (x.g (r3 f.b)).toNat)).charge c (lineClass m) 1))

/-- `GADD`: BASE of gd := (BASE + sa) mod 2^20. -/
def execGadd (c : Fin 256) (f : Fields) (s : State) : Res :=
  .next (s.issue c f ⟨.g, .s, .none, 0, true⟩ false [sId f.a] fun s =>
    .go (s.modCell c fun x =>
      let n := (x.g (r3 f.d)).toNat
      x.setG (r3 f.d) (BitVec.ofNat 256 (putBits n 60 41 (bitsOf n 60 41 + (x.s f.a).toNat)))))

/-- The bits of a descriptor field by its `GSET` number. -/
def gsetBits (n : Nat) : Option (Nat × Nat) :=
  match n with
  | 0 => some (60, 41)
  | 1 => some (127, 116)
  | 2 => some (115, 104)
  | 3 => some (103, 92)
  | 4 => some (31, 16)
  | 5 => some (15, 0)
  | 6 => some (255, 240)
  | 7 => some (239, 216)
  | _ => none

/-- `GSET`: a field of gd := sa, truncated to its width; fields 8 to 15 are program faults (R236). -/
def execGset (c : Fin 256) (f : Fields) (s : State) : Res :=
  .next (s.issue c f ⟨.g, .s, .none, im 3 0, true⟩ false [sId f.a] fun s =>
    match gsetBits (immOf f 3 0) with
    | none => .fault 1
    | some (hi, lo) => .go (s.modCell c fun x =>
        x.setG (r3 f.d) (BitVec.ofNat 256 (putBits (x.g (r3 f.d)).toNat hi lo (x.s f.a).toNat))))

/-! ## Vector register moves, major 0x0B -/

/-- `VINS`: a 32-bit lane of vd := sa. -/
def execVins (c : Fin 256) (f : Fields) (s : State) : Res :=
  .next (s.issue c f ⟨.v, .s, .none, im 3 0, true⟩ false [vId f.d.toNat, sId f.a] fun s =>
    let i := immOf f 3 0
    .go (s.modCell c fun x => x.setV (r4 f.d) (BitVec.ofNat 512 (putBits (x.v (r4 f.d)).toNat (32 * i + 31) (32 * i) (x.s f.a).toNat))))

/-- `VEXT`: sd := a 32-bit lane of va. -/
def execVext (c : Fin 256) (f : Fields) (s : State) : Res :=
  .next (s.issue c f ⟨.s, .v, .none, im 3 0, true⟩ false [sId f.d, vId f.a.toNat] fun s =>
    .go (s.modCell c fun x => x.setS f.d (BitVec.ofNat 32 (vlane 32 (x.v (r4 f.a)) (immOf f 3 0)))))

/-- `VMOV`. -/
def execVmov (c : Fin 256) (f : Fields) (s : State) : Res :=
  .next (s.issue c f ⟨.v, .v, .none, 0, true⟩ false [vId f.d.toNat, vId f.a.toNat] fun s =>
    .go (s.modCell c fun x => x.setV (r4 f.d) (x.v (r4 f.a))))

/-- `VSPLAT`: every 32-bit lane of vd := sa. -/
def execVsplat (c : Fin 256) (f : Fields) (s : State) : Res :=
  .next (s.issue c f ⟨.v, .s, .none, 0, true⟩ false [vId f.d.toNat, sId f.a] fun s =>
    .go (s.modCell c fun x => x.setV (r4 f.d) (vpack 32 (List.replicate 16 (x.s f.a).toNat))))

/-- `VZERO`. -/
def execVzero (c : Fin 256) (f : Fields) (s : State) : Res :=
  .next (s.issue c f ⟨.v, .none, .none, 0, true⟩ false [vId f.d.toNat] fun s =>
    .go (s.modCell c fun x => x.setV (r4 f.d) 0))

/-! ## Queues, major 0x0C (R227 to R230) -/

/-- The queue an instruction names: (sa[7:0] + IMM [7:0]) mod 256. -/
def Cell.qNo (x : Cell) (f : Fields) : Fin 256 := queueNo ((x.s f.a).toNat + immOf f 7 0)

/-! ### Words that engines hold (R139, R244) -/

/-- Push what fits of an operation's words; answers what is left (R244). -/
def State.pushFits (s : State) (c q : Fin 256) (l : List QWord) : List QWord × State :=
  match l with
  | [] => ([], s)
  | w :: t => if s.qCap c q ≤ (s.queue c q).words.length then (w :: t, s) else (s.chargeLanded (s.landWords c q [w]) c q).pushFits c q t

/-- Does an earlier operation of the same engine still hold words? The engine waits with it (R244). -/
def Cell.heldUp (x : Cell) (o : PendingOp) : Bool :=
  x.ops.any fun p => p.engine == o.engine && decide (p.order < o.order) && !p.words.isEmpty

/-- One operation's held words go to their queue as far as they fit. -/
def State.feedOne (s : State) (c : Fin 256) (t : Fin 16) : State :=
  match (s.cell c).tok[t.val].op with
  | none => s
  | some o =>
    match o.queue with
    | none => s
    | some q =>
      if (s.cell c).heldUp o then s
      else
        let r := s.pushFits c q o.words
        r.2.modCell c fun x => { x with tok := x.tok.set t.val { x.tok[t.val] with op := some { o with words := r.1 } } t.isLt }

/-- The place of a token's operation among those of its cell. -/
def Cell.orderOf (x : Cell) (t : Fin 16) : Nat := match x.tok[t.val].op with | some o => o.order | none => 0

/-- Insert a token by the order of its operation. -/
def insertTok (x : Cell) (t : Fin 16) (l : List (Fin 16)) : List (Fin 16) :=
  match l with
  | [] => [t]
  | u :: r => if x.orderOf t ≤ x.orderOf u then t :: u :: r else u :: insertTok x t r

/-- The tokens whose operations hold words, the oldest operation first. -/
def Cell.feeders (x : Cell) : List (Fin 16) :=
  ((List.finRange 16).filter fun t => match x.tok[t.val].op with | some o => !o.words.isEmpty | none => false).foldr (insertTok x) []

/-- The engines write what they hold for queues that now have room, before the sequencer's next write (R139, R244). -/
def State.feedHeld (s : State) (c : Fin 256) : State := s.each (s.cell c).feeders fun s t => s.feedOne c t

/-! ### The instructions -/

/-- The SOI and poison predicates of a read (R227). -/
def setFlags (f : Fields) (soi poison : Bool) (x : Cell) : Cell :=
  (x.setP (BitVec.ofNat 3 (immOf f 10 8)) soi).setP (BitVec.ofNat 3 (immOf f 13 11)) poison

/-- A queue word into sd and s(d+1). -/
def setBoth (d : BitVec 5) (w : DWord) (x : Cell) : Cell := (x.setS d (w.setWidth 32)).setS (d + 1) ((w >>> 32).setWidth 32)

/-- What `POP` writes: sd and s(d+1); with d = 0 neither (R227). -/
def setPair (d : BitVec 5) (w : DWord) (x : Cell) : Cell := if d = 0 then x else setBoth d w x

/-- Predicates a read writes, for the interlock. -/
def flagIds (f : Fields) : List Nat := [pId (immOf f 10 8), pId (immOf f 13 11)]

/-- `POP` (R227, R135). -/
def execPop (c : Fin 256) (f : Fields) (u : Upset) (s : State) : Res :=
  .next (s.issue c f ⟨.s, .s, .none, im 13 0, true⟩ (bitAt f.d.toNat 0) ([sId f.d, sId (f.d + 1), sId f.a] ++ flagIds f) fun s =>
    s.underUpset c u fun s =>
      let q := (s.cell c).qNo f
      let r := (s.queueUpsets c q u).popWord c q
      .go (((r.2.charge c 11 (min 1 (s.queue c q).words.length)).feedHeld c).modCell c fun x => setFlags f r.1.soi r.1.poison (setPair f.d r.1.data x)))

/-- `POPV` (R227, R228): n reads in order; later elements zero. -/
def execPopv (c : Fin 256) (f : Fields) (u : Upset) (s : State) : Res :=
  let n := immOf f 20 18 + 1
  .next (s.issue c f ⟨.v, .s, .none, im 13 0 + im 20 18, true⟩ false ([vId f.d.toNat, sId f.a] ++ flagIds f) fun s =>
    s.underUpset c u fun s =>
      let q := (s.cell c).qNo f
      let r := (s.queueUpsets c q u).popWords c q n
      .go (((r.2.charge c 11 (min n (s.queue c q).words.length)).feedHeld c).modCell c fun x =>
        setFlags f ((r.1.map fun w => w.soi).headD false) (r.1.any fun w => w.poison)
          (x.setV (r4 f.d) (vpack 64 (r.1.map fun w => w.data.toNat)))))

/-- `PEEK` (R229): nothing is removed; beyond the depth it is a read while empty. With d = 0 it writes s1, for R227 excepts `POP` alone. -/
def execPeek (c : Fin 256) (f : Fields) (u : Upset) (s : State) : Res :=
  .next (s.issue c f ⟨.s, .s, .none, im 13 0 + im 27 24, true⟩ (bitAt f.d.toNat 0) ([sId f.d, sId (f.d + 1), sId f.a] ++ flagIds f) fun s =>
    s.underUpset c u fun s =>
      let q := (s.cell c).qNo f
      let s1 := s.queueUpsets c q u
      match (s1.queue c q).words[immOf f 27 24]? with
      | some w => .go ((s1.charge c 11 1).modCell c fun x => setFlags f w.soi w.poison (setBoth f.d w.data x))
      | none =>
        let last := (s1.queue c q).last
        let s2 := (s1.bump (celR c 0x1C04)).setQueue c q { s1.queue c q with unr := true }
        .go (s2.modCell c fun x => setFlags f false false (setBoth f.d last x)))

/-- The 64-bit value of an even register and the next. -/
def Cell.pair (x : Cell) (n : BitVec 5) : DWord := (x.s (n + 1)) ++ (x.s n)

/-- `PUSH` (R230): sb, s(b+1) as one word. -/
def execPush (c : Fin 256) (f : Fields) (s : State) : Res :=
  .next (s.issue c f ⟨.none, .s, .s, im 8 0, true⟩ (bitAt f.b.toNat 0) [sId f.a, sId f.b, sId (f.b + 1)] fun s =>
    let x := s.cell c
    .go (s.chargeLanded (s.pushLocal c (x.qNo f) [⟨x.pair f.b, bitAt f.imm.toNat 8, false, x.step⟩]) c (x.qNo f)))

/-- `PUSHV` (R230): elements 0 to n - 1 of vb, SOI on the first only. -/
def execPushv (c : Fin 256) (f : Fields) (s : State) : Res :=
  let n := immOf f 20 18 + 1
  .next (s.issue c f ⟨.none, .s, .v, im 7 0 + im 20 18, true⟩ false [sId f.a, vId f.b.toNat] fun s =>
    let x := s.cell c
    .go (s.chargeLanded (s.pushLocal c (x.qNo f) (asItem x.step ((List.range n).map fun i => velem (x.v (r4 f.b)) i))) c (x.qNo f)))

/-- `QFLUSH` (R143, R145). -/
def execQflush (c : Fin 256) (f : Fields) (s : State) : Res :=
  .next (s.issue c f ⟨.none, .s, .none, im 7 0, true⟩ false [sId f.a] fun s =>
    .go (((s.flush c ((s.cell c).qNo f)).bump (celR c 0x1C10)).feedHeld c))

/-- The `QSTAT` status word (R133, R218). -/
def State.qstatWord (s : State) (c q : Fin 256) : Word :=
  let x := s.queue c q
  let d := x.words.length
  BitVec.ofNat 32 (bitOf (s.cell c).dueSeen * 2 ^ 31 + bitOf x.bp * 2 ^ 30 + bitOf (s.qFull c q) * 2 ^ 29 +
    bitOf (decide (d = 0)) * 2 ^ 28 + preWords x % 16384 * 2 ^ 14 + d % 16384)

/-- `QSTAT`. -/
def execQstat (c : Fin 256) (f : Fields) (s : State) : Res :=
  .next (s.issue c f ⟨.s, .s, .none, im 7 0, true⟩ false [sId f.d, sId f.a] fun s =>
    .go (s.modCell c fun x => x.setS f.d (s.qstatWord c (x.qNo f))))

/-! ## Fabric, major 0x0D (R231 to R235, R310, R319) -/

/-- Items a cell holds in its outbound buffer, the copies of one item counted once (R231). -/
def State.outbound (s : State) (c : Fin 256) : Nat := (spikeKeys (s.mesh.filter fun m => m.src == .cell c)).length

/-- Elements of vb and v(b+1) as the words of an item (R231). -/
def Cell.sendWords (x : Cell) (b : BitVec 5) (n : Nat) : List DWord :=
  (List.range n).map fun i => velem (if i < 8 then x.v (r4 b) else x.v (r4 (b + 1))) (i % 8)

/-- The region and step an item is a spike item of (R310). The cell step of a sender that has none yet counts as 0, as `CEL_STEP` reads (DESIGN CHOICE, log entry 54). -/
def State.spikeOf (s : State) (c : Fin 256) (ws : List DWord) : Option (Fin 4 × Nat) :=
  if bitsOf (ws.headD 0).toNat 63 60 = 3 then (s.regionOf (clutchOf c)).map fun r => (r, (s.cell c).step.getD 0)
  else none

/-- A fabric operation pending until its copies have ended (R231). -/
def sendOp (n copies : Nat) (noroute : Bool) : PendingOp :=
  { opOf 0 0 n with copies := copies, noroute := noroute, sends := true }

/-- Does the buffer of a cell hold a spike item at the gate of R312? -/
def State.gateHolds (s : State) (c : Fin 256) : Bool := s.mesh.any fun m => m.src == .cell c && s.spikeHeld m

/-- The waits a spike item just sent begins: at the gate of R312, or of the due ridge for its delivery (R43, R312). -/
def State.countSpikeWaits (s : State) (c : Fin 256) (spike : Option (Fin 4 × Nat)) : State :=
  let s1 := if spike.isSome && s.gateHolds c then s.countWait (celR c 0x708) else s
  if spike.isSome && s.step.running && s.step.due && (spike.map fun p => p.2) == some s.step.k then s1.countWait 0x228 else s1

/-- Send one item to a list of destinations under a token (R231, R233, R317, R319). -/
def State.sendItem (s : State) (c : Fin 256) (t : Nat) (ws : List DWord) (q : Fin 256) (dests : List (Fin 256)) : State :=
  let spike := s.spikeOf c ws
  let s1 := if spike.isSome then s.bump (celR c 0x700) else s
  let dropped : Option (Fin 4) := match spike with
    | some (r, k) => if s.step.expired.getLsbD r.val && s.step.running && k == s.step.k then some r else none
    | none => none
  match dropped with
  | some r => (s1.countDrop r (.cell c)).modCell c fun x => x.take t (sendOp ws.length 0 false)
  | none =>
    let live := (dests.filter fun d => s.hasRoute d).flatMap fun d => s.targets false d q ws
    let lost := (dests.filter fun d => !s.hasRoute d).length
    let tok : Fin 16 := ⟨t % 16, Nat.mod_lt _ (by decide)⟩
    let s2 := { s1 with mesh := s1.mesh ++ meshItems (.cell c) q spike (some tok) false live }
    let s3 := if lost = 0 then s2 else s2.bump (celR c 0x31C) lost
    let s3 := s3.countSpikeWaits c spike
    (s3.charge c 12 (ws.length * live.length)).modCell c fun x => x.take t (sendOp ws.length live.length (decide (lost ≠ 0)))

/-- `SEND` (R231): one item of n words to the queue address in sa[15:0]. -/
def execSend (c : Fin 256) (f : Fields) (s : State) : Res :=
  let n := immOf f 3 0 + 1
  let wide := decide (8 < n)
  .next (s.issueToken c f ⟨.none, .s, .v, im 3 0 + im 33 30, !(wide && f.b == 15)⟩ (wide && bitAt f.b.toNat 0)
    ([sId f.a, vId f.b.toNat] ++ (if wide then [vId (f.b.toNat + 1)] else [])) 0 fun s =>
      let x := s.cell c
      if 4 ≤ s.outbound c then .stall 0x320
      else
        let dst := bitsOf (x.s f.a).toNat 15 0
        .go (s.sendItem c (tokenOf f) (x.sendWords f.b n) (queueNo dst) [queueNo (dst / 256)]))

/-- `BCAST` (R231): one item to queue Q of every masked logical cell of the sender's clutch. -/
def execBcast (c : Fin 256) (f : Fields) (s : State) : Res :=
  let n := immOf f 11 8 + 1
  let wide := decide (8 < n)
  .next (s.issueToken c f ⟨.none, .s, .v, im 11 0 + im 33 30, !(wide && f.b == 15)⟩ (wide && bitAt f.b.toNat 0)
    ([sId f.a, vId f.b.toNat] ++ (if wide then [vId (f.b.toNat + 1)] else [])) 0 fun s =>
      let x := s.cell c
      if 4 ≤ s.outbound c then .stall 0x320
      else
        let mask := bitsOf (x.s f.a).toNat 15 0
        .go (s.sendItem c (tokenOf f) (x.sendWords f.b n) (queueNo (immOf f 7 0))
          (((List.finRange 16).filter fun i => bitAt mask i.val).map fun i => cellOf (clutchOf c) i)))

/-- One contribution joins a reduction, the first fixing its mask, operation and queue (R234). -/
def joinReduction (r : Option Reduction) (i mask op : Nat) (q : Fin 256) (v : VReg) (k : Nat) : Reduction :=
  let r := r.getD ⟨BitVec.ofNat 16 mask, op, q, 0, [], k⟩
  if r.mask.getLsbD i then { r with received := r.received ||| BitVec.ofNat 16 (2 ^ i), contribs := r.contribs ++ [(i, v)] } else r

/-- `RDUCE` (R234): the hub takes the contribution. -/
def execRduce (c : Fin 256) (f : Fields) (s : State) : Res :=
  .next (s.issueToken c f ⟨.none, .s, .v, im 13 0 + im 33 30, true⟩ false [sId f.a, vId f.b.toNat] 0 fun s =>
    let x := s.cell c
    let tag : Fin 16 := ⟨immOf f 13 10 % 16, Nat.mod_lt _ (by decide)⟩
    let s1 := s.modClutch (clutchOf c) fun k =>
      { k with reductions := k.reductions.set tag.val (some (joinReduction k.reductions[tag.val] (c.val % 16)
          (bitsOf (x.s f.a).toNat 15 0) (immOf f 9 8) (queueNo (immOf f 7 0)) (x.v (r4 f.b)) s.step.k)) tag.isLt }
    .go ((s1.charge c 12 9).modCell c fun y => y.take (tokenOf f) (opOf 0 0 0)))

/-- Combine two lanes (R234). -/
def rduceLane (op : Nat) (a b : Nat) : Nat :=
  match op with
  | 0 => a + b
  | 1 => if signedOf 32 a < signedOf 32 b then b else a
  | 2 => if signedOf 32 b < signedOf 32 a then b else a
  | _ => (fAdd (BitVec.ofNat 32 a) (BitVec.ofNat 32 b)).toNat

/-- The identity of an operation (R234). -/
def rduceUnit (op : Nat) : Nat :=
  match op with
  | 1 => 0x80000000
  | 2 => 0x7FFFFFFF
  | _ => 0

/-- One lane of a reduction: the masked cells in ascending order, the identity for those that have not contributed. -/
def reduceLane (r : Reduction) (j : Nat) : Nat :=
  let vals := ((List.range 16).filter fun i => r.mask.getLsbD i).flatMap fun i =>
    match r.contribs.filter fun p => p.1 == i with
    | [] => [rduceUnit r.op]
    | l => l.map fun p => vlane 32 p.2 j
  match vals with
  | [] => rduceUnit r.op
  | v :: t => t.foldl (fun a b => rduceLane r.op a b % 2 ^ 32) v

/-- The words of an `RDUCE` result item (R235). -/
def rduceWords (r : Reduction) (tag : Nat) (missing : Bool) : List DWord :=
  BitVec.ofNat 64 (r.received.toNat * 2 ^ 32 + r.mask.toNat * 2 ^ 16 + tag * 2 ^ 12 + r.op % 4 * 2 ^ 8 + bitOf missing) ::
    (List.range 8).map fun i => BitVec.ofNat 64 (reduceLane r (2 * i) + reduceLane r (2 * i + 1) * 2 ^ 32)

/-- Has every masked cell contributed, those that are hosted, removed or out of the job counted as the identity? (R234) -/
def State.reductionFull (s : State) (cl : Fin 16) (r : Reduction) : Bool :=
  (List.finRange 16).all fun i => !r.mask.getLsbD i.val || r.received.getLsbD i.val ||
    !s.hasRoute (cellOf cl i) || s.isHosted (cellOf cl i) || (s.cellImage (cellOf cl i)).isNone

/-- Deliver a reduction to queue Q of every masked cell that contributed, and free its tag (R235). -/
def State.deliverReduction (s : State) (cl tag : Fin 16) (r : Reduction) (missing : Bool) : State :=
  let dests := (((List.finRange 16).filter fun i => r.received.getLsbD i.val).map fun i => cellOf cl i).filter fun d => s.hasRoute d
  let items := dests.flatMap fun d => meshItems (.hub cl) r.queue none none false (s.targets false d r.queue (rduceWords r tag.val missing))
  { (s.modClutch cl fun k => { k with reductions := k.reductions.set tag.val none tag.isLt }) with mesh := s.mesh ++ items }

/-- `RDUCE_RESULT` (R235): every masked cell has contributed. -/
def execRduceResult (cl tag : Fin 16) (s : State) : Res :=
  .next (match (s.clutch cl).reductions[tag.val] with
    | some r => if s.clocked && s.reductionFull cl r then s.deliverReduction cl tag r false else s
    | none => s)

/-! ## Tokens free (R207, R231, R244) -/

/-- The status an operation ends with (R231). -/
def finalStatus (o : PendingOp) : Word :=
  if o.sends then statusWord (if o.noroute then 5 else 0) (if o.admitted then o.status.toNat % 65536 else 0) else o.status

/-- Write the registers an operation owes. -/
def writeOwed (o : PendingOp) (x : Cell) : Cell :=
  let x1 := o.sregs.foldl (fun y r => y.setS (BitVec.ofNat 5 r.1) r.2) x
  let x2 := o.vregs.foldl (fun y r => y.setV (BitVec.ofNat 4 r.1) r.2) x1
  o.pregs.foldl (fun y r => y.setP (BitVec.ofNat 3 r.1) r.2) x2

/-- A STOPPING cell with no operation left is STOPPED (R192). -/
def Cell.settle (x : Cell) : Cell := if x.mode == .stopping && x.ops.isEmpty then { x with mode := .stopped } else x

/-- Is an operation the oldest of its engine? Engines end their operations in order. -/
def Cell.oldest (x : Cell) (o : PendingOp) : Bool := o.engine == 0 || (x.ops.all fun p => p.engine != o.engine || decide (o.order ≤ p.order))

/-- `TOKEN_FREE` (R207): the operation has made every write. It waits while copies are on their way or its queue is full (R231, R244). -/
def execTokenFree (c : Fin 256) (t : Fin 16) (s : State) : Res :=
  .next (match (s.cell c).tok[t.val].op with
    | none => s
    | some o =>
      if 0 < o.copies || !(s.cell c).oldest o || !s.clocked then s
      else
        let s1 := (s.clocks c).feedHeld c
        match (s1.cell c).tok[t.val].op with
        | none => s1
        | some p =>
          if p.words.isEmpty then
            s1.modCell c fun x => (writeOwed p { x with tok := x.tok.set t.val ⟨finalStatus p, none⟩ t.isLt }).settle
          else s1.countStall c 0x688)

end Sys2Proof.Machine
end

