-- ==== Sys2Proof/Machine/EngineBase.lean ====
section
/-! DEFINITION. What the engines share (08): descriptors, elements of maps, number formats, the array's conversions, delta items, and the end of an engine operation. -/

namespace Sys2Proof.Machine

/-! ## Descriptors (R209 to R211) -/

/-- An address-generator descriptor with its counts. -/
structure Desc where
  mem : Mem
  esize : Nat
  base : Nat
  pad : Nat
  site : Nat
  w : Nat
  h : Nat
  c : Nat
  sx : Nat
  sy : Nat
  dx : Nat
  dy : Nat
  pl : Nat
  pr : Nat
  pt : Nat
  pb : Nat
  n : Nat
  nstride : Nat
  deriving DecidableEq, Repr

/-- The fields of a descriptor register. -/
def descOf (g : GReg) : Desc :=
  let n := g.toNat
  { mem := if bitAt n 63 then .cwm else .thatch
    esize := bitsOf n 62 61, base := bitsOf n 60 41, pad := bitsOf n 31 16, site := bitsOf n 15 0
    w := bitsOf n 127 116 + 1, h := bitsOf n 115 104 + 1, c := bitsOf n 103 92 + 1
    sx := bitsOf n 191 184, sy := bitsOf n 183 176, dx := bitsOf n 175 168, dy := bitsOf n 167 160
    pl := bitsOf n 159 152, pr := bitsOf n 151 144, pt := bitsOf n 143 136, pb := bitsOf n 135 128
    n := bitsOf n 255 240 + 1, nstride := bitsOf n 239 216 }

/-- Bits of an element. -/
def Desc.bits (d : Desc) : Nat := 4 * 2 ^ d.esize

/-- Bytes of the channels of a site. -/
def Desc.siteBytes (d : Desc) : Nat := (d.c * d.bits + 7) / 8

/-- A descriptor field outside its legal range (R207, R211). -/
def Desc.bad (d : Desc) : Bool :=
  d.sx == 0 || d.sy == 0 || d.dx == 0 || d.dy == 0 || d.site % 8 != 0 || decide (d.site < d.siteBytes)

/-- Is a position inside the map? -/
def Desc.inside (d : Desc) (x y : Int) : Bool := decide (0 ≤ x ∧ x < d.w ∧ 0 ≤ y ∧ y < d.h)

/-- The byte address of a site of a slice (R209). -/
def Desc.siteAddr (d : Desc) (x y n : Nat) : Nat := d.base + n * d.nstride + (y * d.w + x) * d.site

/-- The first byte of an element, and its bytes. -/
def Desc.elemAddr (d : Desc) (x y ch n : Nat) : Nat := d.siteAddr x y n + ch * d.bits / 8
def Desc.elemBytes (d : Desc) : Nat := (d.bits + 7) / 8

/-- The pad value (R210). -/
def Desc.padVal (d : Desc) : Nat := if d.esize = 3 then patternOf 32 (signedOf 16 d.pad) else d.pad % 2 ^ d.bits

/-- An element as a pattern: the pad value outside the map, zero beyond the limit (R165, R210). -/
def State.elem (s : State) (cl : Fin 256) (d : Desc) (x y : Int) (ch n : Nat) : Nat :=
  if d.inside x y then
    let v := s.readNat cl d.mem (d.elemAddr x.toNat y.toNat ch n) d.elemBytes
    if d.esize = 0 then v / 16 ^ (ch % 2) % 16 else v
  else d.padVal

/-- Does an element inside the map lie beyond the cell's limit? (R165) -/
def State.elemBeyond (s : State) (cl : Fin 256) (d : Desc) (x y : Int) (ch n : Nat) : Bool :=
  d.inside x y && decide (s.memLimit cl d.mem < d.elemAddr x.toNat y.toNat ch n + d.elemBytes)

/-- Write an element pattern; outside the map it is discarded (R210). Elements of 4 bits are not written. -/
def State.setElem (s : State) (cl : Fin 256) (d : Desc) (x y : Int) (ch n : Nat) (v : Nat) : State :=
  if d.inside x y then s.storeMem cl d.mem (d.elemAddr x.toNat y.toNat ch n) (natLe d.elemBytes v) else s

/-! ## Number formats (R245, R250) -/

/-- The ESIZE a format code asks for. -/
def fmtEsize (f : Nat) : Option Nat :=
  match f with
  | 0 | 4 | 5 | 8 | 9 | 10 => some 1
  | 1 | 11 => some 0
  | 2 | 6 | 12 => some 2
  | 3 | 7 => some 3
  | _ => none

/-- Does a format code match a descriptor? -/
def fmtFits (f : Nat) (d : Desc) : Bool := fmtEsize f == some d.esize

/-- The floating-point format of a code, elements of MX formats included. -/
def fmtFloat (f : Nat) : Option Fmt :=
  match f with
  | 4 | 9 => some e4m3
  | 5 | 10 => some e5m2
  | 6 => some bf16
  | 7 => some fp32
  | 11 => some e2m1
  | 12 => some fp16
  | _ => none

/-- Bits of a lane or element of a format. -/
def fmtBits (f : Nat) : Nat := 4 * 2 ^ (fmtEsize f).getD 0

def isMx (f : Nat) : Bool := decide (8 ≤ f ∧ f ≤ 11)
def isFloat (f : Nat) : Bool := (fmtFloat f).isSome
def isArrayIn (f : Nat) : Bool := [0, 1, 2, 4, 5, 6, 8, 9, 10, 11].contains f
def isArrayOut (f : Nat) : Bool := [0, 2, 3, 4, 5, 6, 7].contains f

/-- A pattern of a format as a value. MXINT8 elements count in units of 2^-6. -/
def patVal (f v : Nat) : FVal :=
  match fmtFloat f with
  | some m => fDecode m v
  | none =>
    let i := signedOf (fmtBits f) v
    .fin (decide (i < 0)) i.natAbs (if f = 8 then -6 else 0)

/-- The E8M0 scale byte of an MX block (R250). -/
def State.mxScale (s : State) (cl : Fin 256) (d : Desc) (x y : Int) (ch n : Nat) : FVal :=
  if d.inside x y then
    let v := s.readNat cl d.mem (d.siteAddr x.toNat y.toNat n + d.siteBytes + ch / 32) 1
    if v = 255 then .nan else .fin false 1 ((v : Int) - 127)
  else .fin false 1 0

/-- An operand of the array as a value, its block scale applied. -/
def State.operand (s : State) (cl : Fin 256) (f : Nat) (d : Desc) (x y : Int) (ch n : Nat) : FVal :=
  let v := patVal f (s.elem cl d x y ch n)
  if isMx f then v.mul (s.mxScale cl d x y ch n) else v

/-- Is an MX map without whole blocks, or without room for its scales? (R250) -/
def mxBad (f : Nat) (d : Desc) : Bool := isMx f && (d.c % 32 != 0 || decide (d.site < d.siteBytes + d.c / 32))

/-- Do two operand formats meet in the array? (R246) -/
def formatsMix (a w : Nat) : Bool :=
  isArrayIn a && isArrayIn w && isMx a == isMx w &&
    ((isFloat a == isFloat w) && (isFloat a || ((a == 8) == (w == 8))))

/-! ## Sums (R247, R248) -/

/-- Take the element at a place out of a list. -/
def takeAt {α : Type} (l : List α) (i : Nat) : Option (α × List α) :=
  match l[i]? with
  | some x => some (x, l.eraseIdx i)
  | none => none

/-- Sum values in binary32, in the order and grouping that a free choice `k` gives (R248). -/
def freeSum (fuel : Nat) (k : Nat) (l : List FVal) : FVal :=
  match fuel with
  | 0 => l.headD (.fin false 0 0)
  | n + 1 =>
    match takeAt l (k % l.length) with
    | none => .fin false 0 0
    | some (x, []) => fDecode fp32 (fRound fp32 x)
    | some (x, t) =>
      let k1 := k / l.length
      match takeAt t (k1 % t.length) with
      | none => x
      | some (y, r) => freeSum n (k1 / t.length) (fDecode fp32 (fRound fp32 (x.add y)) :: r)

/-- Sum integers into a saturating accumulator of `bits` bits: the result and the saturations. -/
def satSum (bits : Nat) (acc : Int) (l : List Int) : Int × Nat :=
  l.foldl (fun r x =>
    let t := r.1 + x
    let u := clampInt (-(2 ^ (bits - 1) : Nat)) ((2 ^ (bits - 1) : Nat) - 1) t
    (u, r.2 + bitOf (t != u))) (acc, 0)

/-- A list in the order a free choice `k` gives. -/
def freeOrderOf {α : Type} (fuel : Nat) (k : Nat) (l : List α) : List α :=
  match fuel with
  | 0 => l
  | n + 1 =>
    match takeAt l (k % l.length) with
    | some (x, r) => x :: freeOrderOf n (k / l.length) r
    | none => l

/-- Accumulate integers: exact where no order could leave the range, else in an order the spec does not give (log entry 2). -/
def accSum (bits : Nat) (k : Nat) (acc : Int) (l : List Int) : Int × Nat :=
  if l.foldl (fun a x => a + x.natAbs) acc.natAbs < 2 ^ (bits - 1) then (l.foldl (fun a x => a + x) acc, 0)
  else satSum bits acc (freeOrderOf l.length k l)

/-! ## Conversions (R249) -/

/-- ACT on an integer: 0 NONE, 1 RELU, 2 SYM7. -/
def actInt (act : Nat) (r : Int) : Int :=
  match act with
  | 1 => if r < 0 then 0 else r
  | 2 => clampInt (-63) 63 r
  | _ => r

/-- The rounding shift of R249. -/
def shiftRound (shift : Nat) (v : Int) : Int := if shift = 0 then v else (v + (2 ^ (shift - 1) : Nat)) / ((2 ^ shift : Nat) : Int)

/-- Saturate into a signed width: the value and whether it saturated. -/
def satTo (bits : Nat) (v : Int) : Int × Bool :=
  let u := clampInt (-(2 ^ (bits - 1) : Nat)) ((2 ^ (bits - 1) : Nat) - 1) v
  (u, u != v)

/-- Convert an integer accumulator to an integer format. -/
def intOut (bits shift act : Nat) (v : Int) : Nat × Bool :=
  let r := satTo bits (actInt act (shiftRound shift v))
  (patternOf bits r.1, r.2)

/-- A value as an integer: exact, or rounded in a direction the spec does not give; NaN gives an open value (log entry 8). -/
def freeInt (k : Nat) (v : FVal) : Int :=
  match v with
  | .nan => signedOf 32 k
  | .inf n => if n then -(2 ^ 60 : Nat) else (2 ^ 60 : Nat)
  | .fin _ m e => v.floor + ((if decide (e < 0) && m % 2 ^ (-e).toNat != 0 then k % 2 else 0 : Nat) : Int)

/-- Convert a value to a format: integers by R249, floating-point by RELU and one rounding with saturation. `k` is the free choice where a fraction meets an integer format. -/
def valueOut (f shift act k : Nat) (v : FVal) : Nat × Bool :=
  match fmtFloat f with
  | some m => fSat m (if act = 1 && v.lt (.fin false 0 0) then .fin false 0 0 else v)
  | none =>
    let scaled := if shift = 0 then v else (v.mul (.fin false 1 (-(shift : Int)))).add (.fin false 1 (-1))
    let r := satTo (fmtBits f) (actInt act (if shift = 0 then freeInt k scaled else
      match scaled with | .fin _ _ _ => scaled.floor | _ => freeInt k scaled))
    (patternOf (fmtBits f) r.1, r.2)

/-! ## The end of an engine operation (R207, R242, R244) -/

/-- What an engine operation leaves: the state with its memory writes, the codes met, COUNT, registers owed, the words for its queue. -/
structure EngineEnd where
  s : State
  codes : List Nat
  count : Nat
  sregs : List (Nat × Word) := []
  vregs : List (Nat × VReg) := []
  pregs : List (Nat × Bool) := []
  queue : Option (Fin 256) := none
  items : List (List DWord) := []
  deriving DecidableEq, Repr

/-- Accesses beyond the limit are counted; how many an engine makes is open, one at least (log entry 9). -/
def State.addrErr (s : State) (c : Fin 256) (met : Bool) : State :=
  if met then (s.bump (celR c 0x214) (1 + Config.freeUnits s.free 16)).tick else s

/-- The operation takes its token; its words go to the queue as far as they fit, and the rest when the token is to free (R244). -/
def State.engineDone (s : State) (c : Fin 256) (f : Fields) (engine : Nat) (classes : List Nat) (e : EngineEnd) : Issue :=
  let s1 := (e.s.addrErr c (e.codes.contains 2)).chargeFree c classes
  let op : PendingOp := { opOf engine (lowestCode e.codes) e.count with
    sregs := e.sregs, vregs := e.vregs, pregs := e.pregs, queue := e.queue }
  match e.queue with
  | none => .go (s1.modCell c fun x => x.take (tokenOf f) op)
  | some q =>
    if s.qLocal c q && decide (0 < s.qCap c q) then
      let s2 := (s1.modCell c fun x => x.take (tokenOf f) { op with words := e.items.flatMap (asItem (s.cell c).step) }).feedHeld c
      let waits := ((s2.cell c).tok[tokenOf f % 16]'(Nat.mod_lt _ (by decide))).op.any fun o => !o.words.isEmpty
      .go (if waits then s2.countStall c 0x688 else s2)
    else .go ((s1.each e.items fun s _ => s.ignoreAt c q).modCell c fun x => x.take (tokenOf f) op)

/-- An operation that ends at once with a code and writes nothing (R242). -/
def EngineEnd.none (s : State) (code : Nat) : EngineEnd := { s := s, codes := [code], count := 0 }

/-- The site word of R240. -/
def siteX (w : Word) : Nat := bitsOf w.toNat 11 0
def siteY (w : Word) : Nat := bitsOf w.toNat 23 12
def siteC (w : Word) : Nat := bitsOf w.toNat 31 24

/-- The delta items of one site: one per 64-channel chunk with a nonzero value (R263). -/
def deltaItems (layer x y : Nat) (da : List Int) : List (List DWord) :=
  (List.range ((da.length + 63) / 64)).filterMap fun k =>
    let part := (da.drop (64 * k)).take 64
    if part.all (fun v => v == 0) then none
    else
      let bytes := part.map fun v => BitVec.ofInt 8 v
      some (BitVec.ofNat 64 (2 * 2 ^ 60 + layer * 2 ^ 48 + x % 4096 * 2 ^ 36 + y % 4096 * 2 ^ 24 + k * 2 ^ 16 + (part.length - 1)) ::
        (List.range ((part.length + 7) / 8)).map fun i => BitVec.ofNat 64 (leNat ((bytes.drop (8 * i)).take 8)))

/-- int8 channel `i` of consecutive vector registers from `b`. -/
def Cell.deltaIn (x : Cell) (b : BitVec 5) (i : Nat) : Int := signedOf 8 (vlane 8 (x.v (BitVec.ofNat 4 (b.toNat + i / 64))) (i % 64))

/-- Registers ⌈C/64⌉ a span of int8 channels takes. -/
def spanRegs (ch : Nat) : Nat := (ch + 63) / 64

/-- The interlock's names of a span of vector registers. -/
def spanIds (b : BitVec 5) (m : Nat) : List Nat := (List.range m).map fun i => vId (b.toNat + i)

end Sys2Proof.Machine
end

