-- ==== Sys2Proof/Machine/Stamp.lean ====
section
/-! DEFINITION. The stamp engine, major 0x10 (R251 to R257): time-surface updates and reads, the arc test, the plane fit. -/

namespace Sys2Proof.Machine

/-- Codes a surface and a site give (R251). -/
def stampCodes (d : Desc) (w : Word) (bounds : Bool) : List Nat :=
  (if d.bad || d.mem != .thatch || d.esize != 2 || decide (2 < d.c) || !bounds then [4] else []) ++
  (if d.w ≤ siteX w || d.h ≤ siteY w || d.c ≤ siteC w then [0x11] else [])

/-- The anchor of the cell step (R179); a cell without a step has an open one (log entry 2). -/
def State.cellAnchor (s : State) (c : Fin 256) : Nat :=
  match (s.cell c).step with
  | some k => s.anchor k
  | none => Config.freeOrder s.free % 32768

/-- An entry at an offset from the site: its value, and whether it lies beyond the limit. -/
def State.entry (s : State) (c : Fin 256) (d : Desc) (w : Word) (dx dy : Int) : Nat × Bool :=
  let x : Int := siteX w + dx
  let y : Int := siteY w + dy
  (s.elem c d x y (siteC w) 0, s.elemBeyond c d x y (siteC w) 0)

/-- Is an entry valid and current? (R179) -/
def current (eu e : Nat) : Bool := bitAt e 15 && decide (stAge eu e < 16384)

/-- The ADDR code where any access met the limit. -/
def addrCode (l : List (Nat × Bool)) : List Nat := if l.any fun e => e.2 then [2] else []

/-- The descriptor an instruction names. -/
def State.descAt (s : State) (c : Fin 256) (n : BitVec 5) : Desc := descOf ((s.cell c).g (r3 n))

/-- A scalar register. -/
def State.sreg (s : State) (c : Fin 256) (n : BitVec 5) : Word := (s.cell c).s n

/-- Offsets of the shapes of `TSRD`, row-major from the top left (R253). -/
def shapeOffsets (shape : Nat) : List (Int × Int) :=
  let square (r n : Nat) : List (Int × Int) :=
    (List.range n).flatMap fun j => (List.range n).map fun i => (Int.ofNat i - Int.ofNat r, Int.ofNat j - Int.ofNat r)
  match shape with
  | 0 => square 0 1
  | 1 => square 1 3
  | 2 => square 2 5
  | _ => (List.range 32).map fun i => (Int.ofNat i, 0)

/-- Entry `i` of the cell's decay table. -/
def State.decayLut (s : State) (c : Fin 256) (i : Nat) : Nat :=
  let r := celR c (0x400 + 4 * (i / 2))
  if i % 2 = 0 then s.fld r 15 0 else s.fld r 31 16

/-- Age of the reference, and whether it reads as the anchor (R185). -/
def refAge (eu : Nat) (r : Word) : Nat × Bool :=
  let ar := stAge eu (stUnits r.toNat)
  if 16384 ≤ ar then (0, true) else (ar, false)

/-- The decay fraction of an entry (R185). -/
def State.decay (s : State) (c : Fin 256) (region eu ar e : Nat) : Nat :=
  if !current eu e then 0
  else
    let ae := stAge eu e
    if ae ≤ ar then s.decayLut c 0
    else
      let q := (ae - ar) * s.fld (celR c (0x60 + 4 * region)) 19 0
      let i := q / 65536
      if 256 ≤ i then 0
      else
        let lut := s.decayLut c i
        let nxt := if i < 255 then s.decayLut c (i + 1) else 0
        (clampInt 0 65535 ((lut : Int) - (((lut : Int) - nxt) * (q / 256 % 256 : Nat) + 128) / 256)).toNat

/-- A `TSUPD` or `TSRD` met before the clear pass has ended stalls until it ends (R184). The pass takes no command of its own: the stall is where it ends (DESIGN CHOICE, log entry 62). -/
def State.onceClear (s : State) (c : Fin 256) (body : State → Issue) : Issue :=
  if (s.cell c).clearing then .hold (s.modCell c fun x => { x with clearing := false }) else body s

/-- `TSUPD` (R178, R180, R252). -/
def execTsupd (c : Fin 256) (f : Fields) (u : Upset) (s : State) : Res :=
  .next (s.issueToken c f ⟨.g, .s, .s, im 33 30, true⟩ false [sId f.a, sId f.b] 0x10 fun s => s.onceClear c fun s => s.underUpset c u fun s =>
    let d := s.descAt c f.d
    let w := s.sreg c f.a
    match stampCodes d w true with
    | code :: t => s.engineDone c f 0x10 [8] (.none s (lowestCode (code :: t)))
    | [] =>
      let eu := s.cellAnchor c
      let st := stUnits (s.sreg c f.b).toNat
      let old := s.entry c d w 0 0
      let s1 := (s.charge c 4 1).tick
      let keep : EngineEnd := { s := s1, codes := addrCode [old], count := 0 }
      if 16384 ≤ stAge eu st then s.engineDone c f 0x10 [8] { keep with s := s1.bump (celR c 0x20C) }
      else if current eu old.1 && decide (stAge eu old.1 ≤ stAge eu st) then s.engineDone c f 0x10 [8] keep
      else s.engineDone c f 0x10 [8] { keep with
        s := s1.setElem c d (siteX w) (siteY w) (siteC w) 0 (32768 + st), count := bitOf (!old.2) })

/-- `TSRD` (R185, R253). -/
def execTsrd (c : Fin 256) (f : Fields) (u : Upset) (s : State) : Res :=
  let ref : BitVec 5 := BitVec.ofNat 5 (immOf f 29 25)
  .next (s.issueToken c f ⟨.v, .g, .s, im 33 19, true⟩ false [vId f.d.toNat, sId f.b, sId ref] 0x10 fun s => s.onceClear c fun s => s.underUpset c u fun s =>
    let d := s.descAt c f.a
    let w := s.sreg c f.b
    match stampCodes d w true with
    | code :: t => s.engineDone c f 0x10 [8] { EngineEnd.none s (lowestCode (code :: t)) with vregs := [(f.d.toNat, 0)] }
    | [] =>
      let eu := s.cellAnchor c
      let raw := bitAt f.imm.toNat 19
      let ra := refAge eu (s.sreg c ref)
      let l := (shapeOffsets (immOf f 21 20)).map fun o => s.entry c d w o.1 o.2
      let lanes := l.map fun e => if raw then e.1 else s.decay c (immOf f 24 22) eu ra.1 e.1
      let s1 := ((if !raw && ra.2 then s.bump (celR c 0x210) else s).charge c 4 l.length).tick
      s.engineDone c f 0x10 [8] { s := s1, codes := addrCode l, count := l.length, vregs := [(f.d.toNat, vpack 16 lanes)] })

/-! ## The arc test (R254, R255) -/

/-- The circles, in ring order. -/
def innerRing : List (Int × Int) :=
  [(0, 3), (1, 3), (2, 2), (3, 1), (3, 0), (3, -1), (2, -2), (1, -3), (0, -3), (-1, -3), (-2, -2), (-3, -1), (-3, 0), (-3, 1), (-2, 2), (-1, 3)]
def outerRing : List (Int × Int) :=
  [(0, 4), (1, 4), (2, 3), (3, 2), (4, 1), (4, 0), (4, -1), (3, -2), (2, -3), (1, -4), (0, -4), (-1, -4), (-2, -3), (-3, -2), (-4, -1), (-4, 0),
   (-4, 1), (-3, 2), (-2, 3), (-1, 4)]

/-- The age `ARC` gives an entry. -/
def arcAge (eu e : Nat) : Nat := if current eu e then stAge eu e else 32768

/-- Is a set of ring places one contiguous arc, wrapping allowed? -/
def oneArc (l : List Bool) : Bool :=
  ((List.range l.length).filter fun i => l.getD i false && !(l.getD ((i + l.length - 1) % l.length) false)).length == 1

/-- The k at which a ring passes, 0 where it fails (R254). -/
def ringPass (lo hi : Nat) (ages : List Nat) : Nat :=
  let n := ages.length
  let sorted := sortNat ages
  (((List.range n).filter fun k => decide (1 ≤ k)).find? fun k =>
    decide (sorted.getD (k - 1) 0 < sorted.getD k 0) && oneArc (ages.map fun a => decide (a ≤ sorted.getD (k - 1) 0)) &&
      (decide (lo ≤ k ∧ k ≤ hi) || decide (lo ≤ n - k ∧ n - k ≤ hi))).getD 0

/-- `ARC` (R254, R255). -/
def execArc (c : Fin 256) (f : Fields) (u : Upset) (s : State) : Res :=
  let cp := immOf f 29 27
  .next (s.issueToken c f ⟨.s, .g, .s, im 33 9, true⟩ false [sId f.d, sId f.b, pId cp] 0x10 fun s => s.underUpset c u fun s =>
    let d := s.descAt c f.a
    let w := s.sreg c f.b
    let omax := immOf f 26 22
    let omin := immOf f 21 17
    let imax := immOf f 16 13
    let imin := immOf f 12 9
    match stampCodes d w (decide (1 ≤ imin ∧ imin ≤ imax ∧ 1 ≤ omin ∧ omin ≤ omax ∧ omax ≤ 19)) with
    | code :: t => s.engineDone c f 0x10 [8] (.none s (lowestCode (code :: t)))
    | [] =>
      let eu := s.cellAnchor c
      let li := innerRing.map fun o => s.entry c d w o.1 o.2
      let lo := outerRing.map fun o => s.entry c d w o.1 o.2
      let kin := ringPass imin imax (li.map fun e => arcAge eu e.1)
      let kout := ringPass omin omax (lo.map fun e => arcAge eu e.1)
      let corner := decide (0 < kin) && decide (0 < kout)
      let word := kout * 65536 + kin * 256 + bitOf (decide (0 < kout)) * 4 + bitOf (decide (0 < kin)) * 2 + bitOf corner
      s.engineDone c f 0x10 [8] {
        s := (s.charge c 4 36).tick, codes := addrCode (li ++ lo), count := 36
        sregs := [(f.d.toNat, BitVec.ofNat 32 word)], pregs := [(cp, corner)] })

/-! ## The plane fit (R256, R257) -/

/-- The determinant of a 3 by 3 matrix of integers. -/
def det3 (a b c d e f g h i : Int) : Int := a * (e * i - f * h) - b * (d * i - f * g) + c * (d * h - e * g)

/-- The points of a fit: dx, dy and t. -/
def fitPoints (eu ar win : Nat) (l : List ((Int × Int) × Nat)) : List (Int × Int × Int) :=
  l.filterMap fun e =>
    let rel : Int := (stAge eu e.2 : Int) - ar
    if current eu e.2 && decide (rel ≤ win) then some (e.1.1, e.1.2, -16 * rel) else none

/-- A sum over points. -/
def fitSum (l : List (Int × Int × Int)) (g : Int → Int → Int → Int) : Int := l.foldl (fun a p => a + g p.1 p.2.1 p.2.2) 0

/-- A value as FP16, rounded to nearest even and saturated: the pattern and whether it saturated. -/
def half16 (v : FVal) : Nat × Bool := fSat fp16 v

/-- The fit: the code and the four lanes. The solution of the normal equations is exact before its one rounding (DEDUCED, log entry 22). -/
def planeFit (nmin : Nat) (l : List (Int × Int × Int)) : Nat × List Nat :=
  let n := l.length
  if n < nmin then (0x13, [0, 0, n, 0])
  else
    let sx := fitSum l fun x _ _ => x
    let sy := fitSum l fun _ y _ => y
    let sxx := fitSum l fun x _ _ => x * x
    let sxy := fitSum l fun x y _ => x * y
    let syy := fitSum l fun _ y _ => y * y
    let st := fitSum l fun _ _ t => t
    let sxt := fitSum l fun x _ t => x * t
    let syt := fitSum l fun _ y t => y * t
    let dt := det3 sxx sxy sx sxy syy sy sx sy n
    let da := det3 sxt sxy sx syt syy sy st sy n
    let db := det3 sxx sxt sx sxy syt sy sx st n
    let dc := det3 sxx sxy sxt sxy syy syt sx sy st
    if dt = 0 ∨ (da * da + db * db) * 1048576 < dt * dt then (0x14, [0, 0, n, 0])
    else
      let g2 := da * da + db * db
      let vx := half16 ((fOfInt (1000 * da * dt)).div (fOfInt g2))
      let vy := half16 ((fOfInt (1000 * db * dt)).div (fOfInt g2))
      let ssr := fitSum l fun x y t => let r := dt * t - da * x - db * y - dc; r * r
      let rms := half16 ((fOfInt ssr).div (fOfInt (dt * dt * n))).sqrt
      (if vx.2 || vy.2 || rms.2 then 0x15 else 0, [vx.1, vy.1, n, rms.1])

/-- `FLOWFIT` (R256, R257). -/
def execFlowfit (c : Fin 256) (f : Fields) (u : Upset) (s : State) : Res :=
  let ref : BitVec 5 := BitVec.ofNat 5 (immOf f 29 25)
  .next (s.issueToken c f ⟨.v, .g, .s, im 33 10, true⟩ false [vId f.d.toNat, sId f.b, sId ref] 0x10 fun s => s.underUpset c u fun s =>
    let d := s.descAt c f.a
    let w := s.sreg c f.b
    let nmin := immOf f 24 20
    let win := immOf f 19 10
    match stampCodes d w (decide (3 ≤ nmin ∧ nmin ≤ 25 ∧ 1 ≤ win)) with
    | code :: t => s.engineDone c f 0x10 [8] { EngineEnd.none s (lowestCode (code :: t)) with vregs := [(f.d.toNat, 0)] }
    | [] =>
      let eu := s.cellAnchor c
      let ra := refAge eu (s.sreg c ref)
      let l := (shapeOffsets 2).map fun o => (o, s.entry c d w o.1 o.2)
      let pts := fitPoints eu ra.1 win (l.map fun e => (e.1, e.2.1))
      let r := planeFit nmin pts
      let s1 := ((if ra.2 then s.bump (celR c 0x210) else s).charge c 4 25).tick
      s.engineDone c f 0x10 [8] {
        s := s1, codes := r.1 :: addrCode (l.map fun e => e.2), count := pts.length
        vregs := [(f.d.toNat, vpack 16 r.2)] })

end Sys2Proof.Machine
end

