-- ==== Sys2Proof/Machine/Array.lean ====
section
/-! DEFINITION. The array, major 0x11: `MM` and `CONV`, their accumulator banks, formats and the residue check (R246 to R250, R258 to R260, R264 to R266). -/

namespace Sys2Proof.Machine

/-- A position of an element: x, y, channel, slice. -/
abbrev Pos := Int × Int × Nat × Nat

def State.elemAt (s : State) (c : Fin 256) (d : Desc) (p : Pos) : Nat := s.elem c d p.1 p.2.1 p.2.2.1 p.2.2.2
def State.beyondAt (s : State) (c : Fin 256) (d : Desc) (p : Pos) : Bool := s.elemBeyond c d p.1 p.2.1 p.2.2.1 p.2.2.2
def State.operandAt (s : State) (c : Fin 256) (f : Nat) (d : Desc) (p : Pos) : FVal := s.operand c f d p.1 p.2.1 p.2.2.1 p.2.2.2

/-- One output: its position in the output map and the operand positions of its products. -/
structure Dot where
  out : Pos
  terms : List (Pos × Pos)
  deriving DecidableEq, Repr

/-- Sites of a map in ascending (y, x). -/
def sitesOf (w h : Nat) : List (Nat × Nat) := (List.range h).flatMap fun y => (List.range w).map fun x => (x, y)

/-- The outputs of a matrix product (R258). -/
def matDots (ga gb : Desc) : List Dot :=
  (sitesOf ga.w ga.h).zipIdx.flatMap fun m => ((sitesOf gb.w gb.h).zipIdx).map fun n =>
    { out := (0, 0, n.2, m.2)
      terms := (List.range ga.c).map fun k => ((Int.ofNat m.1.1, Int.ofNat m.1.2, k, 0), (Int.ofNat n.1.1, Int.ofNat n.1.2, k, 0)) }

/-- Output size on one axis (R293). -/
def outSize (w pl pr dx kw sx : Nat) : Int := ((w + pl + pr : Nat) - (dx * (kw - 1) : Nat) - 1 : Int) / (sx : Int) + 1
def Desc.outW (ga gb : Desc) : Int := outSize ga.w ga.pl ga.pr ga.dx gb.w ga.sx
def Desc.outH (ga gb : Desc) : Int := outSize ga.h ga.pt ga.pb ga.dy gb.h ga.sy

/-- Is there no output at all? (R294) -/
def emptyOut (ga gb : Desc) : Bool := (ga.sx != 0 && decide (ga.outW gb ≤ 0)) || (ga.sy != 0 && decide (ga.outH gb ≤ 0))

/-- The products of one output of a convolution: taps in ascending (ky, kx), then channels `c0` to `c0 + n - 1` of the input (R210, R260). -/
def windowTerms (ga gb : Desc) (ox oy c0 n co : Nat) : List (Pos × Pos) :=
  (sitesOf gb.w gb.h).flatMap fun t => (List.range n).map fun ci =>
    (((ox * ga.sx + t.1 * ga.dx : Nat) - (ga.pl : Int), (oy * ga.sy + t.2 * ga.dy : Nat) - (ga.pt : Int), c0 + ci, 0),
     (Int.ofNat t.1, Int.ofNat t.2, ci, co))

/-- The outputs of a dense convolution (R260). -/
def convDots (ga gb : Desc) : List Dot :=
  (sitesOf (ga.outW gb).toNat (ga.outH gb).toNat).flatMap fun o => (List.range gb.n).map fun co =>
    { out := (Int.ofNat o.1, Int.ofNat o.2, co, 0), terms := windowTerms ga gb o.1 o.2 0 ga.c co }

/-- One accumulated output: its place in the bank, the value, the saturations. -/
structure Accumulated where
  out : Pos
  value : FVal
  bits : BitVec 48
  sats : Nat
  deriving DecidableEq, Repr

/-- What an output of a bank holds before an operation: zero after zeroing, an open value where the bank holds none of this class. -/
def bankBits (b : AccBank) (zero isFloat : Bool) (free i : Nat) : BitVec 48 :=
  if zero then 0
  else if b.isFloat != isFloat && !b.vals.isEmpty then (Config.freeBits (free + i)).setWidth 48
  else match b.isOpen with
    | none => assocGet b.vals 0 i
    | some n => assocGet b.vals ((Config.freeBits (n + i)).setWidth 48) i

/-- Accumulate one output, integers in `bits` bits (R247, R248, R270). -/
def State.accumulate (s : State) (c : Fin 256) (af wf : Nat) (ga gb : Desc) (bits : Nat) (isFloat : Bool) (old : BitVec 48) (i : Nat) (t : Dot) : Accumulated :=
  if isFloat then
    let l := t.terms.map fun p => (s.operandAt c af ga p.1).mul (s.operandAt c wf gb p.2)
    let v := freeSum (l.length + 1) (Config.freeOrder (s.free + i)) (fDecode fp32 (old.toNat % 2 ^ 32) :: l)
    ⟨t.out, v, BitVec.ofNat 48 (fRound fp32 v), 0⟩
  else
    let l := t.terms.map fun p => signedOf (fmtBits af) (s.elemAt c ga p.1) * signedOf (fmtBits wf) (s.elemAt c gb p.2)
    let v := accSum bits (Config.freeOrder (s.free + i)) (signedOf 48 old.toNat) l
    ⟨t.out, fOfInt v.1, BitVec.ofInt 48 v.1, v.2⟩

/-- The bank after an operation (R259): outputs beyond its size leave it open. -/
def bankAfter (b : AccBank) (zero isFloat : Bool) (free : Nat) (l : List (Accumulated × Nat)) : AccBank :=
  if 32768 < l.length then ⟨[], some free, isFloat⟩
  else
    let b0 : AccBank := if zero then ⟨[], none, isFloat⟩
      else if b.isFloat != isFloat && !b.vals.isEmpty then ⟨[], some free, isFloat⟩ else { b with isFloat := isFloat }
    { b0 with vals := l.foldl (fun m a => match b0.isOpen with
        | none => assocSet m 0 a.2 a.1.bits
        | some _ => assocPut m a.2 a.1.bits) b0.vals }

/-- Convert and write outputs: the state, the saturations, and whether a write met the limit (R249). -/
def State.writeOutputs (s : State) (c : Fin 256) (gd : Desc) (fmt shift act free : Nat) (l : List (Accumulated × Nat)) : State × Nat :=
  l.foldl (fun r a =>
    let v := valueOut fmt shift act (Config.freeOrder (free + a.2)) a.1.value
    (r.1.setElem c gd a.1.out.1 a.1.out.2.1 a.1.out.2.2.1 a.1.out.2.2.2 v.1, r.2 + bitOf v.2)) (s, 0)

/-- Count saturations (R247, R249). -/
def State.countSat (s : State) (c : Fin 256) (n : Nat) : State := if n = 0 then s else s.bump (celR c 0x684) n

/-- The shape the array works in: ledger class, Kc and Nc (R246). -/
def arrayShape (af wf : Nat) : Nat × Nat × Nat :=
  if [2, 6].contains af || [2, 6].contains wf then (2, 16, 16)
  else if [1, 11].contains af && [1, 11].contains wf then (1, 64, 32)
  else (0, 32, 32)

/-- Rounded-up quotient. -/
def ceilDiv (a b : Nat) : Nat := (a + b - 1) / b

/-- Array cycles of `sites` passes of k by n channels, and their class. -/
def State.chargeArray (s : State) (c : Fin 256) (af wf sites k n : Nat) : State :=
  let sh := arrayShape af wf
  s.charge c sh.1 (sites * ceilDiv k sh.2.1 * ceilDiv n sh.2.2)

/-- A residue mismatch (R265): a pass recomputed and right, or a second mismatch that fails the cell with the column. A column that saturates in the pass is not checked (R266). -/
def State.underResidue (s : State) (c : Fin 256) (u : Upset) (saturates : Nat → Bool) (body : State → List Nat → Issue) : Issue :=
  match u with
  | .residue col twice =>
    if saturates col then body s []
    else
      let s1 := s.bump (celR c 0x680)
      if twice then .go (s1.failCell c 5 0x13 (BitVec.ofNat 32 col)) else body s1 [0x10]
  | _ => body s []

/-- The format codes an array operation ends with (R243, R245, R246). -/
def arrayFormats (af wf fmt act : Nat) (ga gb gd : Desc) : List Nat :=
  if fmtFits af ga && fmtFits wf gb && formatsMix af wf && isArrayOut fmt && fmtFits fmt gd && decide (act ≠ 3) && !(act == 2 && isFloat fmt)
  then [] else [0x12]

/-- The outputs of an operation with their sums onto the bank that the instruction names, and that bank's place in the list (R247, R248, R259). -/
def State.sums (s : State) (c : Fin 256) (f : Fields) (ga gb : Desc) (dots : List Dot) : List (Accumulated × Nat) :=
  let accm := immOf f 29 28
  let af := immOf f 25 22
  let flt := isFloat af || af == 8
  let bank := (s.cell c).acc[immOf f 27 26 % 4]'(Nat.mod_lt _ (by decide))
  dots.zipIdx.map fun t =>
    (s.accumulate c af (immOf f 21 18) ga gb 48 flt (bankBits bank (accm == 0 || accm == 3) flt s.free t.2) t.2 t.1, t.2)

/-- Does an array column saturate in the pass? An output channel works in the column of its number modulo the width of the shape (R246, R266). -/
def State.columnSaturates (s : State) (c : Fin 256) (f : Fields) (ga gb : Desc) (dots : List Dot) (col : Nat) : Bool :=
  let width := (arrayShape (immOf f 25 22) (immOf f 21 18)).2.2
  (s.sums c f ga gb dots).any fun a => decide (a.1.out.2.2.1 % width = col ∧ 0 < a.1.sats)

/-- `MM` and `CONV` once their shapes are known to be sound. -/
def State.arrayRun (s : State) (c : Fin 256) (f : Fields) (ga gb gd : Desc) (dots : List Dot) (rows sites k n : Nat) (codes : List Nat) : Issue :=
  let accm := immOf f 29 28
  let zero := accm == 0 || accm == 3
  let writes := accm == 0 || accm == 2
  let af := immOf f 25 22
  let wf := immOf f 21 18
  let flt := isFloat af || af == 8
  let bi := immOf f 27 26
  let bank := (s.cell c).acc[bi % 4]'(Nat.mod_lt _ (by decide))
  let l := s.sums c f ga gb dots
  let sats := l.foldl (fun a x => a + x.1.sats) 0
  let beyond := dots.any fun t => t.terms.any (fun p => s.beyondAt c ga p.1 || s.beyondAt c gb p.2) || (writes && s.beyondAt c gd t.out)
  let w := if writes then s.writeOutputs c gd (immOf f 17 14) (immOf f 13 9) (immOf f 8 7) s.free l else (s, 0)
  let s1 := (((w.1.countSat c (sats + w.2)).chargeArray c af wf sites k n).modCell c fun x =>
    { x with acc := x.acc.set (bi % 4) (bankAfter bank zero flt s.free l) (Nat.mod_lt _ (by decide)) }).ticks (l.length + 32768)
  s1.engineDone c f 0x11 [8, 9] {
    s := s1
    codes := codes ++ (if beyond then [2] else []) ++ (if 0 < sats + w.2 then [0x15] else [])
    count := if writes then rows else 0 }

/-- Outputs a bank cannot hold (R259). -/
def bankOver (f : Fields) (n : Nat) : Bool := decide (32768 < n) && immOf f 29 28 != 0

/-- `MM` (R258). -/
def execMm (c : Fin 256) (f : Fields) (u : Upset) (s : State) : Res :=
  .next (s.issueToken c f ⟨.g, .g, .g, im 33 7, true⟩ false [] 0x11 fun s => s.underUpset c u fun s =>
    let ga := s.descAt c f.a
    let gb := s.descAt c f.b
    let gd := s.descAt c f.d
    let m := ga.w * ga.h
    let n := gb.w * gb.h
    let bad := ga.bad || gb.bad || gd.bad || ga.c != gb.c || gd.w * gd.h != m || gd.c != n || bankOver f (m * n) ||
      mxBad (immOf f 25 22) ga || mxBad (immOf f 21 18) gb
    match (if bad then [4] else []) ++ arrayFormats (immOf f 25 22) (immOf f 21 18) (immOf f 17 14) (immOf f 8 7) ga gb gd with
    | code :: t => s.engineDone c f 0x11 [] (.none s (lowestCode (code :: t)))
    | [] =>
      let dots := (matDots ga gb).map fun t => { t with out := (Int.ofNat (t.out.2.2.2 % gd.w), Int.ofNat (t.out.2.2.2 / gd.w), t.out.2.2.1, 0) }
      s.underResidue c u (s.columnSaturates c f ga gb dots) fun s codes => s.arrayRun c f ga gb gd dots gd.h m ga.c n codes)

/-- `CONV` (R260, R293, R294). -/
def execConv (c : Fin 256) (f : Fields) (u : Upset) (s : State) : Res :=
  .next (s.issueToken c f ⟨.g, .g, .g, im 33 7, true⟩ false [] 0x11 fun s => s.underUpset c u fun s =>
    let ga := s.descAt c f.a
    let gb := s.descAt c f.b
    let gd := s.descAt c f.d
    let wo := ga.outW gb
    let ho := ga.outH gb
    let bad := ga.bad || gb.bad || gd.bad || ga.c != gb.c || decide (15 < gb.w) || decide (15 < gb.h) ||
      decide ((gd.w : Int) ≠ wo) || decide ((gd.h : Int) ≠ ho) || gd.c != gb.n || bankOver f (gd.w * gd.h * gb.n) ||
      mxBad (immOf f 25 22) ga || mxBad (immOf f 21 18) gb
    match (if emptyOut ga gb then [1] else []) ++ (if bad then [4] else []) ++
      arrayFormats (immOf f 25 22) (immOf f 21 18) (immOf f 17 14) (immOf f 8 7) ga gb gd with
    | code :: t => s.engineDone c f 0x11 [] (.none s (lowestCode (code :: t)))
    | [] => s.underResidue c u (s.columnSaturates c f ga gb (convDots ga gb)) fun s codes =>
      s.arrayRun c f ga gb gd (convDots ga gb) gd.h (gd.w * gd.h * gb.w * gb.h) ga.c gb.n codes)

end Sys2Proof.Machine
end

