-- ==== Sys2Proof/Machine/Complete.lean ====
section
/-! DEFINITION. How a host command ends (15): its completion record, and the status codes. -/

namespace Sys2Proof.Machine

/-- STATUS codes of a completion (15, the status table). -/
def stOk : Nat := 0
def stBadCmd : Nat := 1
def stNoGuard : Nat := 2
def stBusy : Nat := 3
def stRefused : Nat := 4
def stTimeout : Nat := 5
def stHostErr : Nat := 6
def stState : Nat := 7

/-- Word `i` of a descriptor. -/
def descWord (d : Descriptor) (i : Fin 8) : Nat := d[i.val].toNat

/-- A completion: STATUS into `HIF_STS`, counted, one COMPLETION record in the port's notice ring (R423). -/
def State.completion (s : State) (h : Fin 2) (op : Nat) (tag : BitVec 16) (status result result2 : Nat) : State :=
  ((s.setFld (hifR h 0x0C) 31 8 (tag.toNat * 256 + status)).bump (hifR h 0x40)).noticeTo h 0x01
    (BitVec.ofNat 64 (tag.toNat * 2 ^ 48 + op * 2 ^ 40 + status * 2 ^ 32 + result % 2 ^ 32)) (BitVec.ofNat 64 result2)

/-- The command in progress of a port completes (R423). -/
def State.complete (s : State) (h : Fin 2) (status result result2 : Nat) : State :=
  match (s.host h).cmd with
  | none => s
  | some a =>
    (s.modHost h fun x => { x with cmd := none }).completion h a.op a.tag status result result2

/-- Is a command with this code in progress on a port? -/
def State.inCmd (s : State) (h : Fin 2) (op : Nat) : Bool :=
  match (s.host h).cmd with
  | some a => a.op == op
  | none => false

/-- Complete every command in progress with this code. -/
def State.completeAll (s : State) (op status result result2 : Nat) : State :=
  s.each [0, 1] fun s h => if s.inCmd h op then s.complete h status result result2 else s

/-- Mark the command in progress of a port as past its commit point (R424). -/
def State.commit (s : State) (h : Fin 2) : State :=
  s.modHost h fun x => { x with cmd := x.cmd.map fun a => { a with committed := true } }

end Sys2Proof.Machine
end

