-- ==== Sys2Proof/Machine/Intake.lean ====
section
/-! DEFINITION. Sensor ports, the decoder and the intake pipeline (03, 04): packets, event words, filters, mapping, push. -/

namespace Sys2Proof.Machine

/-! ## The port FIFO (R122 to R124, R148 to R150) -/

/-- Distance of two numbers. -/
def stampGap (a b : Nat) : Nat := (a - b) + (b - a)

/-- Words in a port FIFO. -/
def fifoDepth (f : List (List Word)) : Nat :=
  match f with
  | [] => 0
  | i :: t => i.length + fifoDepth t

/-- Words a port FIFO holds (R122). -/
def fifoSize : Nat := 32768

/-- `FLOW` after the depth has come to `depth` (R122, R123). -/
def State.flowAt (s : State) (p : Fin 16) (depth : Nat) (was : Bool) : Bool :=
  if !s.portOn p then false
  else if s.step.intakeStopped then true
  else if 512 * s.fld (inkP p 0x204) 13 8 ≤ depth then true
  else if depth ≤ 512 * s.fld (inkP p 0x204) 21 16 then false else was

/-- Set `FLOW` of a port for its present depth. -/
def State.updFlow (s : State) (p : Fin 16) : State :=
  s.modPort p fun x => { x with flow := s.flowAt p (fifoDepth x.fifo) x.flow }

/-- Set `FLOW` of every port. -/
def State.updFlows (s : State) : State := s.each (List.finRange 16) State.updFlow

/-- The level of a port's `FLOW` pin: `INK_PFLOW.POL` at 1 makes the asserted level low (R123). -/
def State.flowPin (s : State) (p : Fin 16) : Bool := (s.port p).flow != s.bit (inkP p 0x204) 24

/-- The effects of a disable of a port beside its `EN` bit (R94). R94 names the FIFO, the time base and the events already handed on. DESIGN CHOICE, log entry 56: an event held at the gate goes with the words behind it, uncounted; TRAIL, LEAD, SUSPECT, EXCLUDED and COH_RUN stay, over an enable too. -/
def offPort (x : Port) : Port :=
  { x with
    mode := .disabled, rx := false, lock := false, baseHi := 0, baseLo := 0, notb := true, staged := none, prevTb := none
    rd := x.rd + fifoDepth x.fifo, fifo := [], flow := false, held := [] }

/-! ## The coherence check (R38 to R40) -/

/-- One port at a crossing of the reference horizon. -/
def State.judgePort (s : State) (ref : Nat) (p : Fin 16) : State :=
  let x := s.port p
  let limit := s.fld 0x20F04 15 0
  match x.horizon with
  | none => s
  | some h =>
    let trail := decide (h + limit < ref)
    let lead := decide (ref + limit < h)
    if trail || lead then
      let run := min 15 (x.cohRun + 1)
      let suspect := x.suspect || decide (9 ≤ run)
      let s1 := s.setPort p { x with
        trail := trail, lead := lead, cohRun := run, suspect := suspect,
        excluded := x.excluded || (suspect && trail && s.bit 0x20F08 0) }
      if suspect && !x.suspect then
        s1.notice 0x03 (BitVec.ofNat 64 (bitOf lead * 32 + bitOf trail * 16 + p.val)) 0
      else s1
    else s.setPort p { x with
      trail := false, lead := false, cohRun := 0, suspect := false, excluded := false,
      mode := if x.excluded then .returning else x.mode }

/-- The checks due since the reference horizon last moved: one for every multiple of P it has crossed, either way; after
sixteen of them a run of any length has reached its end (DEDUCED, log entry 12). -/
def State.coherenceOnce (s : State) : State :=
  match s.reference with
  | none => s
  | some ref =>
    let n := ref / s.period
    let s1 := { s with step := { s.step with refHz := some n } }
    match s.step.refHz with
    | none => s1
    | some old => s1.each (List.range (min 16 (stampGap n old))) fun s _ => s.each s.activePorts fun s p => s.judgePort ref p

/-- The check, made again while a port that it puts out of the median or back moves the reference (R38, R40). A port leaves the median once at most, so seventeen rounds are enough. -/
def State.coherence (s : State) : State := s.each (List.range 17) fun t _ => t.coherenceOnce

/-- Keep the latest device horizon there has been (R327). -/
def State.noteHorizon (s : State) : State :=
  match s.horizon with
  | some h => { s with ego := { s.ego with lastHorizon := some h } }
  | none => s

/-- A port's horizon, or the set of ports that count, has changed: the check follows the reference horizon (R38). -/
def State.horizonMoved (s : State) : State := s.coherence.noteHorizon

/-- `INK_COH_CFG.EXCLUDE` has been written: while it is 1 every SUSPECT and trailing port is excluded, at 0 none is (R40). -/
def State.settleExclude (s : State) : State :=
  let on := s.bit 0x20F08 0
  ({ s with ports := s.ports.map fun (x : Port) => { x with excluded := on && (x.excluded || (x.suspect && x.trail)) } }).horizonMoved

/-! ## Enable and disable of a port (R93, R94, R98) -/

/-- A port's EN goes from 1 to 0 (R94). -/
def State.portOff (s : State) (p : Fin 16) : State :=
  if s.portOn p then ((s.setFld (inkP p 0) 0 0 0).modPort p offPort).horizonMoved else s

/-- A port's EN goes from 0 to 1 (R93, R103, R464). -/
def State.portUp (s : State) (p : Fin 16) : State :=
  if s.portOn p then s
  else
    let s1 := (s.setFld (inkP p 0) 0 0 1).modPort p fun x =>
      { offPort x with mode := .silent, horizon := none, refr := [], cmp := false, trig := none }
    s1.updFlow p

/-- The two copies of the Intake disagree: the port is disabled, if it is not already, and the fault signalled (R98). DETAIL is the stage. DESIGN CHOICE, log entry 57: at stages 1 to 3 the word is not acted on, at stages 4 to 7 what the lanes hold goes on. -/
def State.intakeMismatch (s : State) (p : Fin 16) (stage : Nat) : State :=
  let s1 := ((s.portOff p).modPort p fun x => { x with cmp := true }).bump (inkP p 0x260)
  s1.deviceFault 0x20 0 p.val 2 (BitVec.ofNat 32 stage) false

/-! ## Packets (R69 to R76) -/

/-- The words of a payload, least significant byte first; a rest of one to three bytes is dropped (R75, R76). -/
def wordsOf (l : List Byte) : List Word :=
  match l with
  | a :: b :: c :: d :: t => BitVec.ofNat 32 (leNat [a, b, c, d]) :: wordsOf t
  | _ => []

/-- What a packet header does: `none` when the packet is lost with its burst (R70, R71) or sensor intake has stopped (E1, R478). -/
def State.header (s : State) (p : Fin 16) (h : HeaderCond) : Option State :=
  if s.portOn p && (s.port p).rx && decide (s.pwr.point = 0) then
    match h with
    | .ok => some s
    | .corrected => some (s.bump (inkP p 0x044))
    | .bad => none
  else none

/-- An uncorrectable header is counted once and ends reception up to the end of the burst (R70, R71). -/
def State.headerLost (s : State) (p : Fin 16) (h : HeaderCond) : State :=
  if s.portOn p && (s.port p).rx && decide (s.pwr.point = 0) && h == .bad then
    (s.bump (inkP p 0x048)).modPort p fun x => { x with rx := false }
  else s

/-- Is a long packet of an enabled virtual channel with its VCX bits zero? (R69) -/
def State.vcOk (s : State) (p : Fin 16) (vc : BitVec 2) (vcx : Bool) : Bool := s.bit (inkP p 0x008) vc.toNat && !vcx

/-- The sixteen status block words of a payload, zero beyond its end (R90). -/
def blockWord (l : List Byte) (i : Nat) : Word := BitVec.ofNat 32 (leNat ((l.drop (4 * i)).take 4))

/-- A type 0x31 payload goes into the status block registers, the length last (R90). -/
def State.statusBlock (s : State) (p : Fin 16) (payload : List Byte) : State :=
  (s.each (List.range 16) fun s i => s.setReg (inkP p (0x100 + 4 * i)) (blockWord payload i)).setReg (inkP p 0x0C4)
    (BitVec.ofNat 32 (min 65535 payload.length))

/-- A type 0x30 payload goes into the FIFO as one item (R73 to R75, R124, R150). DESIGN CHOICE, log entry 58: one that both overruns the FIFO and fails its checksum is counted in `INK_PCRC` alone. -/
def State.eventPacket (s : State) (p : Fin 16) (crcOk : Bool) (payload : List Byte) : State :=
  let kept := payload.take 16384
  let ws := wordsOf kept
  let d := fifoDepth (s.port p).fifo
  let full := decide (fifoSize < d + ws.length)
  let peak := s.flowAt p (min fifoSize (d + ws.length)) (s.port p).flow
  let fell := s.flowAt p d peak
  if !crcOk then (s.bump (inkP p 0x04C)).modPort p fun x => { x with flow := fell }
  else
    let s1 := if 16384 < payload.length then s.bump (inkP p 0x050)
      else if kept.length % 4 ≠ 0 then s.bump (inkP p 0x054) else s
    if full then
      ((s1.bump (inkP p 0x264)).bump (inkP p 0x300) ws.length).modPort p fun x => { x with flow := fell }
    else s1.modPort p fun x => { x with fifo := if ws.isEmpty then x.fifo else x.fifo ++ [ws], flow := peak }

/-- `CSI2_LONG_PACKET` (R69 to R75). -/
def execCsi2LongPacket (p : Fin 16) (vc : BitVec 2) (vcx : Bool) (dt : BitVec 6) (h : HeaderCond) (crcOk : Bool)
    (payload : List Byte) (s : State) : Res :=
  .next (match s.header p h with
    | none => s.headerLost p h
    | some s1 =>
      if s1.vcOk p vc vcx && dt == 0x30 then s1.eventPacket p crcOk payload
      else if s1.vcOk p vc vcx && dt == 0x31 then
        if crcOk then s1.statusBlock p payload else s1.bump (inkP p 0x04C)
      else s1.bump (inkP p 0x058))

/-- `CSI2_SHORT_PACKET` (R69). -/
def execCsi2ShortPacket (p : Fin 16) (dt : BitVec 6) (h : HeaderCond) (s : State) : Res :=
  .next (match s.header p h with
    | none => s.headerLost p h
    | some s1 => if dt.toNat < 4 then s1 else s1.bump (inkP p 0x058))

/-- `STATUS_BLOCK_PACKET` (R90). -/
def execStatusBlockPacket (p : Fin 16) (vc : BitVec 2) (vcx : Bool) (h : HeaderCond) (crcOk : Bool) (payload : List Byte)
    (s : State) : Res :=
  .next (match s.header p h with
    | none => s.headerLost p h
    | some s1 =>
      if s1.vcOk p vc vcx then if crcOk then s1.statusBlock p payload else s1.bump (inkP p 0x04C)
      else s1.bump (inkP p 0x058))

/-- `START_OF_TRANSMISSION`: all configured lanes have begun a high-speed burst (R93, R95). -/
def execStartOfTransmission (p : Fin 16) (s : State) : Res :=
  .next (if s.portOn p then s.modPort p fun x => { x with rx := true, lock := true } else s)

/-- `LANE_SYNC_LOSS`: LOCK falls (R95). -/
def execLaneSyncLoss (p : Fin 16) (s : State) : Res :=
  .next (s.modPort p fun x => { x with lock := false })

/-! ## Stamps (R29, R31) -/

/-- The horizon of a port meets a stamp (R29, R31). -/
def State.meetStamp (s : State) (p : Fin 16) (stamp : Nat) : State :=
  let s1 := match (s.port p).horizon with
    | none => s.modPort p fun x => { x with horizon := some stamp }
    | some h =>
      if stamp < h then s.bump (inkP p 0xF08)
      else s.modPort p fun x => { x with horizon := some stamp }
  s1.horizonMoved

/-! ## Filters (R100 to R103) -/

/-- Is a pixel set in the active hot-pixel bitmap? (R100) -/
def State.isHot (s : State) (p : Fin 16) (x y : Nat) : Bool :=
  let b := y * (s.fld (inkP p 0x00C) 10 0 + 1) + x
  bitAt (assocGet (s.port p).active.hot 0 (b / 32)).toNat (b % 32)

/-- The four ways of a set of the refractory table. -/
def refrWays (p : Port) (set : Nat) : List (Option RefrEntry) := assocGet p.refr [none, none, none, none] set

/-- The way that holds a pixel. -/
def wayOf (l : List (Option RefrEntry)) (x y : Nat) : Option Nat :=
  l.findIdx? fun e => match e with | some r => r.x == x && r.y == y | none => false

/-- The lowest way that is empty or whose stamp lies at least m below s (R102). -/
def freeWay (l : List (Option RefrEntry)) (stamp m : Nat) : Option Nat :=
  l.findIdx? fun e => match e with | some r => decide (r.stamp + m ≤ stamp) | none => true

/-- The stamp of a way, zero where it is empty. -/
def wayStamp (l : List (Option RefrEntry)) (i : Nat) : Nat :=
  match l[i]? with
  | some (some r) => r.stamp
  | _ => 0

/-- The way with the smallest stamp, the lowest on ties (R102). -/
def oldestWay (l : List (Option RefrEntry)) : Nat :=
  [1, 2, 3].foldl (fun best i => if wayStamp l i < wayStamp l best then i else best) 0

/-- An event meets the refractory filter: the state, and whether it passes (R101, R102). -/
def State.refractory (s : State) (p : Fin 16) (e : Event) : State × Bool :=
  let m := s.fld (inkP p 0x200) 9 0
  if m = 0 then (s, true)
  else
    let set := (e.x + 37 * e.y) % 1024
    let l := refrWays (s.port p) set
    let put (i stamp : Nat) : State := s.modPort p fun x =>
      { x with refr := assocPut x.refr set (l.set i (some ⟨e.x, e.y, stamp⟩)) }
    match wayOf l e.x e.y with
    | some i =>
      if stampGap (wayStamp l i) e.stamp < m then (s.bump (inkP p 0x244), false)
      else (put i (max (wayStamp l i) e.stamp), true)
    | none =>
      match freeWay l e.stamp m with
      | some i => (put i e.stamp, true)
      | none => ((put (oldestWay l) e.stamp).bump (inkP p 0x248), true)

/-- One event is handed to the filters; a survivor waits for lane arbitration (R96, R100, R101). -/
def State.filterEvent (s : State) (p : Fin 16) (e : Event) : State :=
  let s1 := (s.bump (inkP p 0x040)).modPort p fun x => { x with events := x.events + 1 }
  if s1.bit (inkP p 0x200) 16 && s1.isHot p e.x e.y then s1.bump (inkP p 0x240)
  else
    let r := s1.refractory p e
    if r.2 then r.1.modPort p fun x => { x with ready := x.ready ++ [.event e] } else r.1

/-! ## The gate (R44, R54) -/

/-- The latest step the gate lets through while a step is open. -/
def State.gateStep (s : State) : Nat := s.step.k + bitOf (s.step.due && !s.step.intakeStopped)

/-- An event at the gate: routed, held, or, while steps are stopped, discarded uncounted (R43, R44, R54). -/
def State.gate (s : State) (p : Fin 16) (e : Event) : State :=
  if s.step.running then
    let k := e.stamp / s.period
    if s.gateStep < k then s.modPort p fun x => { x with held := x.held ++ [e] }
    else if k < s.step.k then (s.bump (inkP p 0xF04)).filterEvent p { e with late := true }
    else s.filterEvent p e
  else if s.bit 0x204 0 then s.modPort p fun x => { x with held := x.held ++ [e] }
  else s

/-- Offer the held events of a port to the gate again, in order (R44, R45). -/
def State.releasePort (s : State) (p : Fin 16) : State :=
  let l := (s.port p).held
  (s.modPort p fun x => { x with held := [] }).each l fun s e => s.gate p e

/-- Offer every held event of every port to its gate again. -/
def State.releaseHeld (s : State) : State := s.each (List.finRange 16) State.releasePort

/-- The range check, then the gate (R88). -/
def State.pix (s : State) (p : Fin 16) (e : Event) : State :=
  if s.fld (inkP p 0x00C) 10 0 < e.x || s.fld (inkP p 0x00C) 26 16 < e.y then s.bump (inkP p 0x068) else s.gate p e

/-! ## Mapping (R104, R105, R112, R113) -/

/-- Round a quotient half toward plus infinity. -/
def roundHalfUp (num : Int) (den : Nat) : Int := (2 * num + den) / (2 * den)

/-- A node of the active mesh. -/
def State.meshNode (s : State) (p : Fin 16) (i j : Nat) : Nat := (assocGet (s.port p).active.mesh 0 (32 * j + i)).toNat

/-- A word of the active calibration record. -/
def State.calWord (s : State) (p : Fin 16) (i : Nat) : Nat := (assocGet (s.port p).active.calrec 0 i).toNat

/-- The interpolation of R104 for one coordinate. -/
def meshBlend (sx sy fx fy : Nat) (n00 n10 n01 n11 : Int) : Int :=
  roundHalfUp (((sx : Int) - fx) * (sy - fy) * n00 + fx * ((sy : Int) - fy) * n10 + ((sx : Int) - fx) * fy * n01 + fx * fy * n11) (sx * sy)

/-- The rectified position of a pixel in eighths, absent where R105 discards it. -/
def State.rectify (s : State) (p : Fin 16) (x y : Nat) : Option (Nat × Nat) :=
  let sx := bitsOf (s.calWord p 3) 6 0
  let sy := bitsOf (s.calWord p 3) 22 16
  if sx = 0 || sy = 0 then none
  else
    let i := min (x / sx) 30
    let j := min (y / sy) 30
    let fx := x - i * sx
    let fy := y - j * sy
    let n := [s.meshNode p i j, s.meshNode p (i + 1) j, s.meshNode p i (j + 1), s.meshNode p (i + 1) (j + 1)]
    let us := n.map fun w => bitsOf w 31 16
    let vs := n.map fun w => bitsOf w 15 0
    if us.any (fun u => u == 0x8000) || sx < fx || sy < fy then none
    else
      let at' (l : List Nat) (k : Nat) : Int := signedOf 16 (l.getD k 0)
      let u := meshBlend sx sy fx fy (at' us 0) (at' us 1) (at' us 2) (at' us 3)
      let v := meshBlend sx sy fx fy (at' vs 0) (at' vs 1) (at' vs 2) (at' vs 3)
      if u < 0 || v < 0 then none
      else if bitsOf (s.calWord p 0) 10 0 < u.toNat / 8 || bitsOf (s.calWord p 0) 26 16 < v.toNat / 8 then none
      else some (u.toNat, v.toNat)

/-- The half-word of a region map entry. -/
def rmapHalf (t : Assoc Word) (c r : Nat) : Nat :=
  let n := 64 * r + c
  bitsOf (assocGet t 0 (n / 2)).toNat (16 * (n % 2) + 15) (16 * (n % 2))

/-- The owner of a shingle, if its entry is valid (R112). -/
def rmapOwner (t : Assoc Word) (c r : Nat) : Option (Fin 256) :=
  let h := rmapHalf t c r
  if bitAt h 15 then some ⟨h % 256, Nat.mod_lt _ (by decide)⟩ else none

/-- The neighbour shingles a lap of L asks for, as offsets in columns and rows (R113). -/
def lapOffsets (lap ox oy : Nat) : List (Int × Int) :=
  let dx : List Int := (if ox < lap then [-1] else []) ++ (if 32 ≤ ox + lap then [1] else [])
  let dy : List Int := (if oy < lap then [-1] else []) ++ (if 32 ≤ oy + lap then [1] else [])
  dx.map (fun a => (a, 0)) ++ dy.map (fun b => (0, b)) ++ dx.flatMap fun a => dy.map fun b => (a, b)

/-- The cells that receive lap copies, the owner and repeats left out (R113). -/
def State.lapCells (s : State) (p : Fin 16) (owner : Fin 256) (u v : Nat) : List (Fin 256) :=
  let t := (s.port p).active.rmap
  let lap := bitsOf (s.calWord p 1) 20 16
  let col := u / 256
  let row := v / 256
  let cells := (lapOffsets lap (u / 8 % 32) (v / 8 % 32)).filterMap fun d =>
    let c := (col : Int) + d.1
    let r := (row : Int) + d.2
    if c < 0 || r < 0 || (bitsOf (s.calWord p 0) 10 0 / 32 : Int) < c || (bitsOf (s.calWord p 0) 26 16 / 32 : Int) < r then none
    else rmapOwner t c.toNat r.toNat
  (distinct cells).filter fun c => c != owner

/-- The first word of an intake item (R116). -/
def itemHead (kind port : Nat) (pol late lap : Bool) (chan u v scol srow : Nat) : DWord :=
  BitVec.ofNat 64 (kind * 2 ^ 60 + port * 2 ^ 56 + bitOf pol * 2 ^ 55 + bitOf late * 2 ^ 54 + bitOf lap * 2 ^ 53 + chan * 2 ^ 48 +
    u % 65536 * 2 ^ 32 + v % 65536 * 2 ^ 16 + scol * 2 ^ 10 + srow * 2 ^ 4)

/-- The items of a mapped event: the owner's first, then the lap copies (R113, R114, R116). -/
def State.eventItems (s : State) (p : Fin 16) (e : Event) (owner : Fin 256) (u v : Nat) : List OutItem :=
  let q := queueNo (bitsOf (s.calWord p 1) 7 0)
  let item (c : Fin 256) (lap : Bool) : OutItem :=
    ⟨c, q, itemHead 0 p.val e.on e.late lap 0 u v (u / 256) (v / 256), BitVec.ofNat 64 (e.stamp % 2 ^ 62), lap⟩
  item owner false :: (s.lapCells p owner u v).map fun c => item c true

/-- The single item of a trigger (R116, R117). DESIGN CHOICE, log entry 59: LATE, SCOL and SROW are zero, in a closed step too. -/
def State.triggerItem (s : State) (p : Fin 16) (stamp chan : Nat) : OutItem :=
  let dst := bitsOf (s.calWord p 2) 15 0
  ⟨queueNo (dst / 256), queueNo dst, itemHead 1 p.val false false false chan 0 0 0 0, BitVec.ofNat 64 (stamp % 2 ^ 62), false⟩

/-- Add the items of one event to a port's lanes. -/
def State.intoLane (s : State) (p : Fin 16) (l : List OutItem) : State :=
  s.modPort p fun x => { x with lanes := x.lanes ++ [l] }

/-- An event in the shared lanes: mapped and routed, or discarded (R104, R105, R112, R113). -/
def State.mapEvent (s : State) (p : Fin 16) (e : Event) : State :=
  match s.rectify p e.x e.y with
  | none => s.bump (inkP p 0x24C)
  | some (u, v) =>
    match rmapOwner (s.port p).active.rmap (u / 256) (v / 256) with
    | none => s.bump (inkP p 0x250)
    | some owner => s.intoLane p (s.eventItems p e owner u v)

/-- Take what is ready at a port into the lanes. -/
def State.takeReady (s : State) (p : Fin 16) : State :=
  match (s.port p).ready with
  | [] => s
  | r :: t =>
    let s1 := s.modPort p fun x => { x with ready := t }
    match r with
    | .event e => s1.mapEvent p e
    | .trigger stamp chan => s1.intoLane p [s1.triggerItem p stamp chan]

/-- The ports in round-robin order after the one served last (R118). -/
def State.roundRobin (s : State) : List (Fin 16) :=
  (List.finRange 16).map fun i => ⟨(s.lastPort.val + 1 + i.val) % 16, Nat.mod_lt _ (by decide)⟩

/-- The up to eight ports stage 4 serves: those with something ready and room in stages 4 to 7 (R118, R575). -/
def State.served (s : State) : List (Fin 16) :=
  (s.roundRobin.filter fun p => !(s.port p).ready.isEmpty && decide ((s.port p).lanes.length < 8)).take 8

/-- One cycle of stage 4: eight ports at most are served, a cycle with eight being counted (R118, R126). -/
def State.arbitrate (s : State) : State :=
  let l := s.served
  let s1 := s.each l State.takeReady
  let s2 := match l.getLast? with | some p => { s1 with lastPort := p } | none => s1
  if l.length = 8 then s2.bump 0x20144 else s2

/-- `LANE_ARBITRATION` (R118); `bad` names the ports either copy names for a lane whose copies disagree at one of the shared stages 4 to 6 (R98). -/
def execLaneArbitration (bad : List (Fin 16 × Fin 3)) (s : State) : Res :=
  .next (if s.clocked then s.arbitrate.each bad fun t b => t.intakeMismatch b.1 (4 + b.2.val) else s)

/-! ## Push (R115, R119, R575) -/

/-- Mesh credits of a port in use: its items not yet admitted or discarded. -/
def State.creditsUsed (s : State) (p : Fin 16) : Nat := (s.mesh.filter fun m => m.src == .port p && m.credit).length

/-- Can every item of an event go: no destination queue holding back-pressure, and credits for all? (R119, R575) -/
def State.canPush (s : State) (p : Fin 16) (l : List OutItem) : Bool :=
  decide (s.creditsUsed p + l.length ≤ 32) &&
  (l.filter fun o => s.hasRoute o.cell).all fun o => (s.targets true o.cell o.queue [o.w0, o.w1]).all fun d => !s.qBusy d.1 o.queue

/-- Push one item, or discard it where its cell has no route (R115). -/
def State.pushItem (s : State) (p : Fin 16) (o : OutItem) : State :=
  if s.hasRoute o.cell then
    let s1 := { s with mesh := s.mesh ++ meshItems (.port p) o.queue none none true (s.targets true o.cell o.queue [o.w0, o.w1]) }
    let s2 := s1.bump 0x20140
    if o.lap then s2.bump (inkP p 0x258) else s2
  else s.bump (inkP p 0x254)

/-- Push the items of the event at the head of a port's lanes, if all can go (R119). -/
def State.pushHead (s : State) (p : Fin 16) : State :=
  match (s.port p).lanes with
  | [] => s
  | l :: t => if s.canPush p l then (s.modPort p fun x => { x with lanes := t }).each l fun s o => s.pushItem p o else s

/-- `INTAKE_PUSH` (R119); `bad` names the ports either copy of stage 7 names where the two disagree (R98). -/
def execIntakePush (p : Fin 16) (bad : List (Fin 16)) (s : State) : Res :=
  .next (if s.clocked then (s.pushHead p).each bad fun t b => t.intakeMismatch b 7 else s)

/-! ## The decoder (R77 to R92) -/

/-- The type field of an event word. -/
def typeOf (w : Word) : Nat := bitsOf w.toNat 31 28

/-- May the decoder of a port read its next word? (R44, R92, R118) -/
def State.decodes (s : State) (p : Fin 16) : Bool :=
  s.portOn p && !s.step.intakeStopped && s.clocked && (s.port p).held.isEmpty && (s.port p).ready.isEmpty

/-- The words of the item at the head of the FIFO. -/
def State.headItem (s : State) (p : Fin 16) : List Word := (s.port p).fifo.headD []

/-- The next word, when the decoder may read it and its type satisfies `f`. -/
def State.nextWord (s : State) (p : Fin 16) (f : Nat → Bool) : Option Word :=
  if s.decodes p then
    match s.headItem p with
    | w :: _ => if f (typeOf w) then some w else none
    | [] => none
  else none

/-- Remove `n` words from the front of the FIFO's first item. -/
def dropWords (f : List (List Word)) (n : Nat) : List (List Word) :=
  match f with
  | [] => []
  | i :: t => if i.length ≤ n then t else i.drop n :: t

/-- Read `n` words of the head item. -/
def State.readWords (s : State) (p : Fin 16) (n : Nat) : State :=
  (s.modPort p fun x => { x with fifo := dropWords x.fifo n, rd := x.rd + n }).updFlow p

/-- A word counts as decoded (R33, R34, R37); a port that becomes ACTIVE by it may move the reference horizon (R38). -/
def State.decoded (s : State) (p : Fin 16) : State :=
  if (s.port p).mode == .silent then
    if s.step.running then s.modPort p fun x => { x with mode := .returning }
    else (s.modPort p fun x => { x with mode := .active }).horizonMoved
  else s

/-- A word with bad parity is discarded with the rest of its item (R99). -/
def State.poisonItem (s : State) (p : Fin 16) : State :=
  let s1 := (s.readWords p (s.headItem p).length).bump (inkP p 0x25C)
  if (s.port p).notb then s1 else s1.decoded p

/-- The frame of every decoded word: the upset if there is one, the word read, the count of R83 without a time base where `needsTb`, else `body` (R83, R98, R99). -/
def State.onWord (s : State) (p : Fin 16) (f : WordFault) (types : Nat → Bool) (needsTb : Bool) (body : State → Word → State) : State :=
  match s.nextWord p types with
  | none => s
  | some w =>
    match f with
    | .parity => s.poisonItem p
    | .mismatch i => s.intakeMismatch p (i.val + 1)
    | .none =>
      let s1 := s.readWords p 1
      if (s.port p).notb then
        if needsTb then s1.bump (inkP p 0x064) else body s1 w
      else body (s1.decoded p) w

/-- The stamp of a word with DT (R79). -/
def State.stampOf (s : State) (p : Fin 16) (w : Word) : Nat :=
  (s.port p).baseHi.toNat * 2 ^ 34 + (s.port p).baseLo.toNat * 64 + bitsOf w.toNat 27 22

/-- `EV_WORD` (R79, R84). -/
def execEvWord (p : Fin 16) (f : WordFault) (s : State) : Res :=
  .next (s.onWord p f (fun t => decide (t < 2)) true fun s w =>
    let t := s.stampOf p w
    (s.meetStamp p t).pix p ⟨bitsOf w.toNat 21 11, bitsOf w.toNat 10 0, typeOf w == 1, t, false⟩)

/-- The events of a vector in ascending bit order (R85). -/
def vecEvents (w m : Word) (t : Nat) : List Event :=
  ((List.range 28).filter fun i => bitAt m.toNat i).map fun i =>
    ⟨bitsOf w.toNat 21 11 + i, bitsOf w.toNat 10 0, typeOf w == 3, t, false⟩

/-- `VEC_WORD` (R85 to R88): with its MASK word, or an orphan. DESIGN CHOICE, log entry 60: `f` is what either word meets; a MASK word with bad parity drops its VEC word too, which counts as no orphan. -/
def execVecWord (p : Fin 16) (f : WordFault) (s : State) : Res :=
  let next := (s.headItem p)[1]?
  .next (s.onWord p f (fun t => t == 2 || t == 3) true fun s w =>
    match next with
    | some m =>
      if typeOf m == 8 then
        let t := s.stampOf p w
        let s1 := (s.readWords p 1).meetStamp p t
        s1.each (vecEvents w m t) fun s e => s.pix p e
      else s.bump (inkP p 0x060)
    | none => s.bump (inkP p 0x060))

/-- `MASK_WORD`: not preceded by a VEC word (R86). -/
def execMaskWord (p : Fin 16) (f : WordFault) (s : State) : Res :=
  .next (s.onWord p f (fun t => t == 8) true fun s _ => s.bump (inkP p 0x060))

/-- `TB_LO` (R32, R81, R83). -/
def execTbLo (p : Fin 16) (f : WordFault) (s : State) : Res :=
  .next (s.onWord p f (fun t => t == 4) false fun s w =>
    let x := s.port p
    let hi := x.staged.getD x.baseHi
    let lo := BitVec.ofNat 28 w.toNat
    let t := hi.toNat * 2 ^ 34 + lo.toNat * 64
    let s1 := s.setPort p { x with baseHi := hi, baseLo := lo, staged := none, notb := false, prevTb := some t }
    let s2 := if x.notb then s1.decoded p else s1
    let s3 := match x.prevTb with
      | some old => if old + 64 < t then s2.bump (inkP p 0xF0C) else s2
      | none => s2
    s3.meetStamp p t)

/-- `TB_HI` (R80). -/
def execTbHi (p : Fin 16) (f : WordFault) (s : State) : Res :=
  .next (s.onWord p f (fun t => t == 5) false fun s w =>
    s.modPort p fun x => { x with staged := some (BitVec.ofNat 28 w.toNat) })

/-- `STATUS_WORD` (R89). -/
def execStatusWord (p : Fin 16) (f : WordFault) (s : State) : Res :=
  .next (s.onWord p f (fun t => t == 7) true fun s w =>
    let s1 := s.setReg (inkP p 0x0C0) w
    let code := bitsOf w.toNat 21 18
    if code = 1 then s1.bump (inkP p 0x06C) (bitsOf w.toNat 17 0)
    else if 3 ≤ code && code < 8 then s1.bump (inkP p 0x05C) else s1)

/-- A trigger that passes to routing: pushed at once where nothing waits before it (R117). DESIGN CHOICE, log entry 36: it is no event of R43 and R44, so no gate holds it and no stop of the steps discards it. -/
def State.routeTrigger (s : State) (p : Fin 16) (stamp chan : Nat) : State :=
  if bitAt (s.calWord p 2) 16 then
    if (s.port p).lanes.isEmpty then (s.intoLane p [s.triggerItem p stamp chan]).pushHead p
    else s.modPort p fun x => { x with ready := x.ready ++ [.trigger stamp chan] }
  else s

/-- `TRIGGER_WORD` (R91, R117). -/
def execTriggerWord (p : Fin 16) (f : WordFault) (s : State) : Res :=
  .next (s.onWord p f (fun t => t == 9) true fun s w =>
    let s1 := s.bump (inkP p 0x070)
    if s1.bit (inkP p 0x010) 0 then
      let t := s1.stampOf p w
      let chan := bitsOf w.toNat 21 18
      (s1.modPort p fun x => { x with trig := some (t, chan) }).routeTrigger p t chan
    else s1)

/-- `PAD_WORD`: read, without effect (R77). -/
def execPadWord (p : Fin 16) (f : WordFault) (s : State) : Res :=
  .next (s.onWord p f (fun t => t == 14) false fun s _ => s)

/-- `RESERVED_WORD` (R78). -/
def execReservedWord (p : Fin 16) (f : WordFault) (s : State) : Res :=
  .next (s.onWord p f (fun t => t == 6 || (decide (10 ≤ t) && t != 14)) false fun s _ => s.bump (inkP p 0x05C))

/-- `PORT_SILENCE_EXPIRY` (R33, R64): an ACTIVE or RETURNING port enters SILENT. -/
def execPortSilenceExpiry (p : Fin 16) (s : State) : Res :=
  .next (if !s.step.intakeStopped && s.clocked && ((s.port p).mode == .active || (s.port p).mode == .returning) then
      ((s.bump (inkP p 0xF10)).modPort p fun x => { x with mode := .silent }).horizonMoved
    else s)

/-- Copy the active Fusion tables named by a mask of kinds (0 ZONE, 1 COV, 2 MEXT) over the shadow ones (R344). -/
def copyFus (mask : BitVec 16) (a b : FusTables) : FusTables where
  zone := if mask.getLsbD 0 then a.zone else b.zone
  cov := if mask.getLsbD 1 then a.cov else b.cov
  mext := if mask.getLsbD 2 then a.mext else b.mext

/-- `TABLE_COPYBACK_DONE`: the new active banks are copied into the shadow banks and COPYING clears (R111, R344). -/
def execTableCopybackDone (s : State) : Res :=
  let s1 := s.each (List.finRange 16) fun s p =>
    if s.inkSwap.copying.getLsbD p.val then s.modPort p fun x => { x with shadow := x.active } else s
  .next { s1 with
    inkSwap := { s1.inkSwap with copying := 0 }
    fus := { s1.fus with shadow := copyFus s1.fusSwap.copying s1.fus.active s1.fus.shadow }
    fusSwap := { s1.fusSwap with copying := 0 } }

end Sys2Proof.Machine
end

