-- ==== Sys2Proof/Machine/Power.lean ====
section
/-! DEFINITION. Performance levels, the thermal cap, and the sleep states (17, R468 to R483). -/

namespace Sys2Proof.Machine

/-! ## Performance levels (R469 to R472) -/

/-- A mask of clutches. -/
def clutchMask (l : List (Fin 16)) : Nat := l.foldl (fun a c => a + 2 ^ c.val) 0

/-- A POWER NOTICE (17, its payload). -/
def State.powerNotice (s : State) (mask level point cause target data : Nat) : State :=
  s.notice 0x07
    (BitVec.ofNat 64 (mask * 2 ^ 48 + level * 2 ^ 40 + point * 2 ^ 12 + cause * 2 ^ 8 + target * 2 ^ 4 + s.pwr.state.toNat))
    (BitVec.ofNat 64 data)

/-- `PWR_CPLc.REQ`. -/
def State.reqLevel (s : State) (c : Fin 16) : BitVec 2 := BitVec.ofNat 2 (s.fld (0x90040 + 4 * c.val) 1 0)

/-- The level in force: the lower of the request and the thermal cap (R469). -/
def Clutch.forced (x : Clutch) : BitVec 2 := if x.req ≤ x.cap then x.req else x.cap

/-- The logical cells of a clutch that stand in it: neither removed nor hosted. -/
def State.ownCells (s : State) (c : Fin 16) : List (Fin 256) :=
  ((List.finRange 16).map fun i => cellOf c i).filter fun d => !(s.cell d).removed && !s.isHosted d

/-- A clutch comes to its level: its change is under way and counted, its cells get a LEVEL record (R470, R471). -/
def State.putLevel (s : State) (c : Fin 16) : State :=
  let v := (s.clutch c).forced
  let s1 := (s.modClutch c fun x => { x with level := v, chg := true }).bump 0x90088
  s1.each (s1.ownCells c) fun s d => s.postStatus d 4 v.toNat (BitVec.ofNat 32 (levelKHz v))

/-- The clutches whose level is not yet what request and cap give. -/
def State.offLevel (s : State) : List (Fin 16) := (List.finRange 16).filter fun c => (s.clutch c).forced != (s.clutch c).level

/-- Has every clutch a SET_PL names its level in force, or its cap below it? (R471) -/
def State.levelsMet (s : State) (d : Descriptor) : Bool :=
  let v := BitVec.ofNat 2 (descWord d 1)
  (List.finRange 16).all fun c => !bitAt (descWord d 1) (16 + c.val) || (s.clutch c).level == v || decide ((s.clutch c).cap < v)

/-- SET_PL commands whose levels are in force complete (R471). -/
def State.settleLevels (s : State) : State :=
  s.each [0, 1] fun s h =>
    match (s.host h).cmd with
    | some a => if a.op = 6 ∧ s.levelsMet a.desc then s.complete h stOk 0 0 else s
    | none => s

/-- Requested levels come in force: one notice for each new level (R470, R471). -/
def State.applyRequests (s : State) : State :=
  let s0 := s.each (List.finRange 16) fun t c => t.modClutch c fun x => { x with req := t.reqLevel c }
  let l := s0.offLevel
  let s1 := s0.each l State.putLevel
  let s2 := s1.each [0, 1, 2, 3] fun t v =>
    let g := l.filter fun c => (s0.clutch c).forced.toNat == v
    if g.isEmpty then t else t.powerNotice (clutchMask g) v 0 1 0 0
  s2.settleLevels

/-- A clutch's cap one level lower or higher, within PL0 to PL3 (R472). -/
def capMove (up : Bool) (v : BitVec 2) : BitVec 2 := if up then (if v = 3 then v else v + 1) else if v = 0 then v else v - 1

/-- A reading moves the caps (R472): levels follow at once, one notice names the clutches whose cap changed. -/
def State.moveCaps (s : State) (up : Bool) : State :=
  let l := (List.finRange 16).filter fun c => capMove up (s.clutch c).cap != (s.clutch c).cap
  match l with
  | [] => s
  | c :: _ =>
    let new := capMove up (s.clutch c).cap
    let s1 := s.each l fun t c => t.modClutch c fun x => { x with cap := capMove up x.cap }
    let s2 := if up then s1 else s1.bump 0x9008C
    let s3 := s2.each s2.offLevel State.putLevel
    (s3.powerNotice (clutchMask l) new.toNat 0 2 0 s3.pwr.temp.toNat).settleLevels

/-- A junction reading as a signed number of degrees. -/
def tempOf (w : Word) : Int := signedOf 8 (w.toNat % 256)

/-- The over-temperature detection of R503: a reading at TTRIP or above, none such before it. -/
def State.judgeTrip (s : State) : State :=
  if Int.ofNat (s.fld 0xB0020 7 0) ≤ tempOf s.pwr.temp then
    if s.saf.hot then s
    else ({ s with saf := { s.saf with hot := true } }).deviceFault 0x28 8 0 0 s.pwr.temp true
  else ({ s with saf := { s.saf with hot := false } }).causeGone 8

/-- `THERMAL_SAMPLE` (R472, R503). -/
def execThermalSample (sensor : Byte) (tj : Byte) (s : State) : Res :=
  .next (if s.pwr.state = 3 then s
    else
      let s1 := { s with pwr := { s.pwr with temp := BitVec.ofNat 32 (sensor.toNat * 256 + tj.toNat) } }
      let t := tempOf s1.pwr.temp
      let limit := Int.ofNat (s1.fld 0x90014 7 0)
      let s2 := if limit ≤ t then s1.moveCaps false
        else if t ≤ limit - Int.ofNat (s1.fld 0x90014 15 8) then s1.moveCaps true else s1
      s2.judgeTrip)

/-- `LEVEL_SWITCH_DONE` (R470): ramp and switch are over. -/
def execLevelSwitchDone (cl : Fin 16) (s : State) : Res :=
  .next (s.modClutch cl fun x => { x with chg := false })

/-- Is a cell idle in the sense of R474? -/
def Cell.idle (x : Cell) : Bool :=
  match x.mode, x.wait with
  | .stopped, _ => true
  | .faulted, _ => true
  | .hosted, _ => true
  | .running, .ridge _ => true
  | .running, .waitq _ limit _ => limit == 0
  | _, _ => false

/-- Has the hub of a clutch no work: no reduction, no share of a retrieval, no sentinel run? -/
def State.hubIdle (s : State) (cl : Fin 16) : Bool :=
  (s.clutch cl).reductions.toList.all (fun r => r.isNone) && s.scm.retrievals.all (fun r => r.openShares cl == 0) &&
  (List.finRange 16).all fun i => !(s.cell (cellOf cl i)).sentinel

/-- Have Scene Memory and the Track Manager no work? (R474) -/
def State.scmIdle (s : State) : Bool := s.scm.inbox.isEmpty && !s.scm.erasing && s.scm.retrievals.isEmpty
def State.trkIdle (s : State) : Bool := s.trk.waiting.isEmpty && !s.fus.inbox.any fun i => itemKind i.words == 6 || itemKind i.words == 7

/-- The blocks beside the clutches that gate in the same way (R474); the command table gives them no command of their own (DESIGN CHOICE, log entry 67). -/
def State.gateBlocks (s : State) : State :=
  { s with scm := { s.scm with gated := s.scm.gated || s.scmIdle }, trk := { s.trk with gated := s.trk.gated || s.trkIdle } }

/-- `CLUTCH_CLOCK_GATE` (R474): in S1 an idle clutch gates its ARITH clock. -/
def execClutchClockGate (cl : Fin 16) (s : State) : Res :=
  .next (if s.pwr.state = 1 then
      let s1 := s.gateBlocks
      if s.hubIdle cl && (List.finRange 16).all fun i => (s.cell (cellOf cl i)).idle then
        s1.modClutch cl fun x => { x with gated := true }
      else s1
    else s)

/-! ## Entering S2 and S3 (R478 to R482) -/

/-- The Intake stops decoding, keeps the gate closed and asserts `FLOW` (R63). -/
def State.stopIntake (s : State) : State := ({ s with step := { s.step with intakeStopped := true } }).updFlows

/-- The Intake reopens its gates and releases `FLOW` to its watermarks (R65). -/
def State.openIntake (s : State) : State := (({ s with step := { s.step with intakeStopped := false } }).releaseHeld).updFlows

/-- An entry to S2 or S3 begins; E1 is at once where no step is open (R478). -/
def State.beginEntry (s : State) (t : BitVec 2) (owner : Option (Fin 2)) (mask : BitVec 4) : State :=
  let s1 := { s with pwr := { s.pwr with entry := some t, owner := owner, entryMask := mask, point := 0, committed := false } }
  if s1.step.running then s1
  else let s2 := s1.stopIntake; { s2 with pwr := { s2.pwr with point := 1 } }

/-- A pending entry is abandoned (R480): the points undone, counted, a POWER NOTICE, and, unless the command itself was abandoned, the completion of its POWER command with BUSY. -/
def State.abandonEntry (s : State) (reason : Nat) : State :=
  match s.pwr.entry with
  | none => s
  | some t =>
    if s.pwr.committed then s
    else
      let p := s.pwr.point
      let s1 := { s with pwr := { s.pwr with entry := none, owner := none, entryMask := 0, point := 0 } }
      let s2 := (s1.openIntake.bump 0x90080).powerNotice 0 0 p 3 t.toNat reason
      match s.pwr.owner with
      | some h => if reason = 3 then s2 else s2.complete h stBusy 0 0
      | none => s2

/-- `PWR_LAST_WAKE`, its count, the WAKE records and the POWER NOTICE of an exit from S2 or S3; a port whose link is down is owed the notice (R477). -/
def State.recordWake (s : State) (exited : BitVec 2) (pins : BitVec 4) (src : BitVec 4) : State :=
  let w := BitVec.ofNat 32 (exited.toNat * 256 + pins.toNat * 16 + src.toNat)
  let s1 := ({ s with pwr := { s.pwr with lastWake := w } }).bump 0x90084
  let s2 := s1.each (List.finRange 16) fun t c => t.each (t.ownCells c) fun t d => t.postStatus d 3 exited.toNat s.pwr.lastClosed
  s2.each [0, 1] fun t h =>
    if (t.host h).up then
      t.noticeTo h 0x07 (BitVec.ofNat 64 (4 * 2 ^ 8 + exited.toNat * 2 ^ 4 + t.pwr.state.toNat)) (BitVec.ofNat 64 w.toNat)
    else t.modHost h fun x => { x with owed := x.owed ++ [w] }

/-- Both links go down on the way to S3, without link loss (R440). -/
def State.linksDown (s : State) : State := s.each [0, 1] fun t h => t.modHost h fun x => { x with up := false }

/-- A queued request is replaced: the POWER command that waits in it completes BUSY with RESULT 5 (DEDUCED, log entry 17). -/
def State.dropQueued (s : State) : State :=
  let s1 := { s with pwr := { s.pwr with queued := none, qOwner := none } }
  match s.pwr.qOwner with
  | some h => s1.complete h stBusy 5 0
  | none => s1

/-- Queue a request one deep, replacing one that waits (R481). -/
def State.enqueuePower (s : State) (t : BitVec 2) (owner : Option (Fin 2)) (mask : BitVec 4) : State :=
  let s1 := s.dropQueued
  { s1 with pwr := { s1.pwr with queued := some t, qOwner := owner, qMask := mask, wakePend := false } }

/-- A wake request (R475, R476, R481): it abandons a pending entry, is queued after the commit, starts the exit from a sleep state, and during an exit replaces its target and what is queued. -/
def State.wakeRequest (s : State) (src : BitVec 4) (pins : BitVec 4) : State :=
  if s.pwr.committed then
    let s1 := s.enqueuePower 0 none 0
    { s1 with pwr := { s1.pwr with wakePend := true, wakeSrc := src, wakePins := pins } }
  else if s.pwr.entry.isSome then s.abandonEntry 1
  else if s.awake then s
  else if s.pwr.waking.isSome then
    let s1 := s.dropQueued
    if s.pwr.waking = some 2 then { s1 with pwr := { s1.pwr with waking := some 0, wakeSrc := src, wakePins := pins } }
    else { s1 with pwr := { s1.pwr with waking := some 0 } }
  else { s with pwr := { s.pwr with waking := some 0, wakeSrc := src, wakePins := pins } }

/-- The entry's wake mask, or `PWR_WAKE.EN` (R476, R482). -/
def State.wakeEnabled (s : State) (n : Fin 4) : Bool :=
  if s.pwr.entryMask = 0 then s.bit 0x90004 n.val else s.pwr.entryMask.getLsbD n.val

/-- Which pins are at their active level (R476). -/
def State.activePins (s : State) (levels : BitVec 4) : BitVec 4 := levels ^^^ BitVec.ofNat 4 (s.fld 0x90004 11 8)

/-- `WAKE_PIN` (R476, R480): pin `n` has held its level for three samples. -/
def execWakePin (n : Fin 4) (levels : BitVec 4) (s : State) : Res :=
  .next (if s.wakeEnabled n && (s.activePins levels).getLsbD n.val then s.wakeRequest 1 (s.activePins levels) else s)

/-- Is the register's block in retention in S2: none of DEV, HIF, PWR, LED, SAF and SEC? (R475) -/
def retained (off : Nat) : Bool :=
  !(decide (off < 0x20000) || decide (0x90000 ≤ off ∧ off < 0xD0000))

/-- `HOST_ACCESS_WAKE` (R475): an access to a register of a block in retention. -/
def execHostAccessWake (hp : Fin 2) (off : Nat) (s : State) : Res :=
  .next (if (s.host hp).up && retained off && decide (s.pwr.state ≠ 3) && !s.clocked then s.wakeRequest 2 0 else s)

/-- Everything E2 asks for: queues but 255, tokens, fabric, motion FIFOs, Fusion, Track Manager, output and privileged queues, records (R478). -/
def State.drained (s : State) : Bool :=
  s.mesh.isEmpty &&
  ((List.finRange 256).all fun c => (s.cell c).ops.isEmpty && (List.finRange 256).all fun q => q == 255 || (s.queue c q).words.isEmpty) &&
  ((List.finRange 4).all fun m => (s.mot m).fifo.isEmpty) && s.fus.inbox.isEmpty && s.scm.inbox.isEmpty &&
  s.trk.waiting.isEmpty && (s.pq.toList.all fun l => l.isEmpty) &&
  (List.finRange 2).all fun h => (s.host h).staged.isEmpty && (s.host h).outq.isEmpty

/-- `POWER_E2_REACHED` (R478): drained after E1, E2 is reached; given again, state is sealed into retention and E3 is (log entry 17). -/
def execPowerE2Reached (s : State) : Res :=
  .next (if s.pwr.entry.isSome && decide (s.pwr.point = 1) && s.drained then { s with pwr := { s.pwr with point := 2 } }
    else if s.pwr.entry.isSome && decide (s.pwr.point = 2) then { s with pwr := { s.pwr with point := 3 } }
    else s)

/-- `E2_LIMIT_EXPIRY` (R479). -/
def execE2LimitExpiry (s : State) : Res := .next (if s.pwr.point = 1 then s.abandonEntry 2 else s)

/-- The index of the last closed step for WAKE records: all ones where none has closed (log entry 17). -/
def State.lastClosedIdx (s : State) : Word := match s.step.closed with | some c => stepIdx c.1 | none => 0xFFFFFFFF

/-- The commit of an entry (R478, R482): the completion of its command, then, for S3, the links down. -/
def State.commitEntry (s : State) (t : BitVec 2) : State :=
  let s1 := { s with pwr := { s.pwr with point := 4, committed := true, owner := none, lastClosed := s.lastClosedIdx } }
  let s2 := match s.pwr.owner with
    | some h => s1.complete h stOk t.toNat 0
    | none => s1
  if t = 3 then s2.linksDown else s2

/-- `POWER_COMMIT` (R478): E4, from E3 or by way of it. -/
def execPowerCommit (s : State) : Res :=
  .next (match s.pwr.entry with
    | some t => if (s.pwr.point = 2 ∨ s.pwr.point = 3) ∧ ¬s.pwr.committed then s.commitEntry t else s
    | none => s)

/-- An exit begins. The pins active at a wake no pin has asked for are known when it is complete (R477). -/
def State.beginExit (s : State) (t : BitVec 2) : State := { s with pwr := { s.pwr with waking := some t } }

/-- Act on the request queued while an entry was past its commit (R481): a shallower target is exited to, S3 from S2 goes on at once. -/
def State.actQueued (s : State) : State :=
  match s.pwr.queued with
  | none => s
  | some t =>
    let owner := s.pwr.qOwner
    let s1 := { s with pwr := { s.pwr with queued := none, qOwner := none, qMask := 0, wakePend := false } }
    if t.toNat < 2 then s1.beginExit t
    else if t = s.pwr.state then match owner with | some h => s1.complete h stOk t.toNat 0 | none => s1
    else if t = 3 then
      ({ s1 with pwr := { s1.pwr with entry := some 3, owner := owner, entryMask := s.pwr.qMask } }).commitEntry 3
    else
      let s2 := match owner with | some h => s1.complete h stOk t.toNat 0 | none => s1
      ({ s2 with pwr := { s2.pwr with wakeSrc := 3, wakePins := 0, entryMask := s.pwr.qMask } }).beginExit t

/-- `SLEEP_STATE_REACHED` (R473, R481): the committed state; the fault pins at fault (R505), then what is queued. -/
def execSleepStateReached (s : State) : Res :=
  .next (match s.pwr.entry with
    | some t =>
      if s.pwr.committed then
        (({ s with pwr := { s.pwr with state := t, entry := none, committed := false } }).driveFault).actQueued
      else s
    | none => s)

/-- The POWER command's request in S2, or between a commit and its state, or during an exit (R481, R482). -/
def State.powerAsleep (s : State) (h : Fin 2) (t : BitVec 2) (mask : BitVec 4) : State :=
  if s.pwr.committed || s.pwr.waking.isSome then
    if t.toNat < 2 then
      let s1 := if s.pwr.committed then s.enqueuePower t none 0 else s.dropQueued.beginExit t
      ({ s1 with pwr := { s1.pwr with wakeSrc := 3, wakePins := 0 } }).complete h stOk t.toNat 0
    else s.enqueuePower t (some h) mask
  else if t.toNat < 2 then
    (({ s with pwr := { s.pwr with wakeSrc := 3, wakePins := 0 } }).beginExit t).complete h stOk t.toNat 0
  else if t = s.pwr.state then s.complete h stOk t.toNat 0
  else ({ s with pwr := { s.pwr with entry := some t, owner := some h, entryMask := mask } }).commitEntry t

/-- The POWER command's request while the device is in S0 or S1 before any commit (R480 to R482). -/
def State.powerAwake (s : State) (h : Fin 2) (t : BitVec 2) (mask : BitVec 4) : State :=
  if t.toNat < 2 then
    let s1 := s.abandonEntry 1
    ({ s1 with pwr := { s1.pwr with state := t } }).complete h stOk t.toNat 0
  else
    match s.pwr.entry with
    | none => s.beginEntry t (some h) mask
    | some _ =>
      let s1 := match s.pwr.owner with
        | some g => s.complete g stBusy 5 0
        | none => s
      { s1 with pwr := { s1.pwr with entry := some t, owner := some h, entryMask := mask } }

/-- The request of a POWER command (R481, R482). -/
def State.powerRequest (s : State) (h : Fin 2) (t : BitVec 2) (mask : BitVec 4) : State :=
  if s.awake && !s.pwr.committed then s.powerAwake h t mask else s.powerAsleep h t mask

/-! ## Leaving S2 and S3 (R186 to R188, R483) -/

/-- The CWM bytes an image gives a cell: the code from address 0, then the rest, in the order they are written. -/
def imageCwm (ci : CellImage) : List (Nat × Byte) := (ci.code.zipIdx.map fun b => (b.2, b.1)) ++ ci.cwm

/-- The CWM bytes of the blocks a cell hosts, from the failed cells' images (R171). -/
def State.hostedCwm (s : State) (d : Fin 256) : List (Nat × Byte) :=
  (s.disc.hosted.filter fun h => h.sibling == d).flatMap fun h =>
    match s.cellImage h.lcell with
    | none => []
    | some ci =>
      match ci.shingles.find? fun g => g.port == h.port && g.col == h.col && g.row == h.row with
      | none => []
      | some g =>
        let n := 64 * s.fld (celR d 0x34) 12 0
        (ci.cwm.filter fun kv => decide (64 * g.cbase ≤ kv.1 ∧ kv.1 < 64 * g.cbase + n)).map
          fun kv => (kv.1 - 64 * g.cbase + 64 * h.cbase, kv.2)

/-- A CWM bank as the active image loads it (R188). -/
def State.restoredCwm (s : State) (d : Fin 256) (bank : Nat) : Memory :=
  let own := match s.cellImage d with | some ci => imageCwm ci | none => []
  ((own ++ s.hostedCwm d).filter fun kv => bankOf .cwm kv.1 == bank).foldl (fun m kv => memWrite m kv.1 kv.2)
    ((s.cell d).cwm.filter fun kv => bankOf .cwm kv.1 != bank)

/-- The scrub of one cell (R186 to R188): lost Thatch banks zeroed, lost CWM banks rewritten, one LOST record for what was lost. -/
def State.scrubCell (s : State) (w : WakeInputs) (d : Fin 256) : State :=
  let lt := ((w.lostT.filter fun p => p.1 == d).map fun p => p.2.val).eraseDups
  let lc := ((w.lostC.filter fun p => p.1 == d).map fun p => p.2.val).eraseDups
  let n := (w.corrected.filter fun p => p.1 == d).foldl (fun a p => a + p.2) 0
  let s0 := if n = 0 then s else s.bump (celR d 0x200) n
  if lt.isEmpty && lc.isEmpty then s0
  else
    let s1 := s0.modCell d fun x => { x with thatch := x.thatch.filter fun kv => !lt.contains (bankOf .thatch kv.1) }
    let s2 := s1.each lc fun t b => t.modCell d fun x => { x with cwm := t.restoredCwm d b }
    let mt := lt.foldl (fun a b => a + 2 ^ b) 0
    let mc := lc.foldl (fun a b => a + 2 ^ b) 0
    (s2.modCell d fun x => { x with
        lost := x.lost ||| BitVec.ofNat 8 mt, restored := x.restored ||| BitVec.ofNat 4 mc }).postStatus d 2 0
      (BitVec.ofNat 32 (mc * 256 + mt))

/-- The leakage charged in S2 and S3: into the totals and into no step (R490, R491). -/
def State.chargeLeakage (s : State) (n : Nat) : State :=
  s.each [0x100, 0x102, 0x103, 0x104] fun t k => t.addTotal k n

/-- An exit is complete (R65, R477, R483, R506): every bank of every cell scrubbed, the exit recorded; in S0 and S1 clocks run and the Intake reopens, in S2 they stay held. -/
def State.wakeUp (s : State) (w : WakeInputs) (t : BitVec 2) : State :=
  let exited := s.pwr.state
  let pins := if s.pwr.wakeSrc = 1 then s.pwr.wakePins else s.activePins w.pins
  let s1 := (s.each (List.finRange 256) fun u d => u.scrubCell w d).chargeLeakage w.leakage
  let s2 := { s1 with pwr := { s1.pwr with state := t, waking := none, wakePend := false } }
  if t.toNat < 2 then
    (({ s2 with pwr := { s2.pwr with point := 0, entryMask := 0 } }).recordWake exited pins s2.pwr.wakeSrc).openIntake.rearm
  else s2.recordWake exited pins s2.pwr.wakeSrc

/-- What was queued during an exit comes next: a sleep is entered, or from S2 gone on to (R481). -/
def State.afterExit (s : State) : State :=
  match s.pwr.queued with
  | some q =>
    if s.awake then
      let s1 := { s with pwr := { s.pwr with queued := none, qOwner := none, qMask := 0 } }
      s1.beginEntry q s.pwr.qOwner s.pwr.qMask
    else s.actQueued
  | none => s

end Sys2Proof.Machine
end

