-- ==== Sys2Proof/Machine/Ego.lean ====
section
/-! DEFINITION. Vectors and quaternions in binary32, fixed-point angles, and ego-motion: levelling, integration, the pose (R326 to R334). Every operation rounds once, in the order written (DESIGN CHOICE, log entry 14). -/

namespace Sys2Proof.Machine

/-! ## Vectors and quaternions -/

def Vec3.add (a b : Vec3) : Vec3 := ⟨fAdd a.x b.x, fAdd a.y b.y, fAdd a.z b.z⟩
def Vec3.sub (a b : Vec3) : Vec3 := ⟨fSub a.x b.x, fSub a.y b.y, fSub a.z b.z⟩
def Vec3.scale (k : Word) (a : Vec3) : Vec3 := ⟨fMul k a.x, fMul k a.y, fMul k a.z⟩
def Vec3.dot (a b : Vec3) : Word := fAdd (fAdd (fMul a.x b.x) (fMul a.y b.y)) (fMul a.z b.z)
def Vec3.cross (a b : Vec3) : Vec3 :=
  ⟨fSub (fMul a.y b.z) (fMul a.z b.y), fSub (fMul a.z b.x) (fMul a.x b.z), fSub (fMul a.x b.y) (fMul a.y b.x)⟩
def Vec3.norm (a : Vec3) : Word := fSqrt (a.dot a)
def Vec3.zero : Vec3 := ⟨0, 0, 0⟩

def Quat.mul (a b : Quat) : Quat where
  w := fSub (fSub (fSub (fMul a.w b.w) (fMul a.x b.x)) (fMul a.y b.y)) (fMul a.z b.z)
  x := fSub (fAdd (fAdd (fMul a.w b.x) (fMul a.x b.w)) (fMul a.y b.z)) (fMul a.z b.y)
  y := fAdd (fAdd (fSub (fMul a.w b.y) (fMul a.x b.z)) (fMul a.y b.w)) (fMul a.z b.x)
  z := fAdd (fSub (fAdd (fMul a.w b.z) (fMul a.x b.y)) (fMul a.y b.x)) (fMul a.z b.w)

/-- Unit length. -/
def Quat.normalise (q : Quat) : Quat :=
  let n := fSqrt (fAdd (fAdd (fAdd (fMul q.w q.w) (fMul q.x q.x)) (fMul q.y q.y)) (fMul q.z q.z))
  ⟨fDiv q.w n, fDiv q.x n, fDiv q.y n, fDiv q.z n⟩

def Quat.conj (q : Quat) : Quat := ⟨q.w, fNeg q.x, fNeg q.y, fNeg q.z⟩

/-- 1.0 in binary32. -/
def fOne : Word := 0x3F800000
def fTwo : Word := 0x40000000
def fHalf : Word := 0x3F000000

def Quat.one : Quat := ⟨fOne, 0, 0, 0⟩

/-- A vector rotated by a unit quaternion. -/
def Quat.rot (q : Quat) (a : Vec3) : Vec3 :=
  let u : Vec3 := ⟨q.x, q.y, q.z⟩
  let t := (u.cross a).scale fTwo
  (a.add (t.scale q.w)).add (u.cross t)

/-- [R | t] in row-major order. -/
def affine (m : Nat → Word) (a : Vec3) : Vec3 :=
  let row (i : Nat) : Word := fAdd (fAdd (fAdd (fMul (m (4 * i)) a.x) (fMul (m (4 * i + 1)) a.y)) (fMul (m (4 * i + 2)) a.z)) (m (4 * i + 3))
  ⟨row 0, row 1, row 2⟩

/-- R of [R | t]. -/
def linear (m : Nat → Word) (a : Vec3) : Vec3 :=
  let row (i : Nat) : Word := fAdd (fAdd (fMul (m (4 * i)) a.x) (fMul (m (4 * i + 1)) a.y)) (fMul (m (4 * i + 2)) a.z)
  ⟨row 0, row 1, row 2⟩

/-! ## Angles in units of 2^-64 -/

def fxOne : Nat := 2 ^ 64

/-- π in units of 2^-64. -/
def fxPi : Nat := 57952155664616982739

/-- A finite value in units of 2^-64. -/
def fxOf (v : FVal) : Int := (v.mul (.fin false 1 64)).floor

/-- A fixed-point number in binary32. -/
def fxWord (i : Int) : Word := f32 (.fin (decide (i < 0)) i.natAbs (-64))

/-- Sum of the arctangent series of t, |t| small: each term over its odd number, signs alternating. -/
def atanSeries (t : Nat) : Int :=
  ((List.range 20).foldl (fun (r : Int × Nat) (i : Nat) =>
    let term : Int := Int.ofNat (r.2 / (2 * i + 1))
    (if i % 2 = 0 then r.1 + term else r.1 - term, r.2 * t / fxOne * t / fxOne)) ((0, t) : Int × Nat)).1

/-- Half of an angle by its tangent. -/
def halfTan (t : Nat) : Nat := t * fxOne / (fxOne + isqrt (fxOne * fxOne + t * t))

/-- Arctangent of a number from 0 to 1. -/
def fxAtan (t : Nat) : Int := 4 * atanSeries (halfTan (halfTan t))

/-- The angle of (c, s) with s not negative. -/
def fxAngle (s : Nat) (c : Int) : Int :=
  if s = 0 then (if c < 0 then fxPi else 0)
  else if s ≤ c then fxAtan (s * fxOne / c.natAbs)
  else if c ≤ -(s : Int) then fxPi - fxAtan (s * fxOne / c.natAbs)
  else if 0 ≤ c then fxPi / 2 - fxAtan (c.natAbs * fxOne / s) else fxPi / 2 + fxAtan (c.natAbs * fxOne / s)

/-- Sine and cosine of an angle up to a quarter turn: the sum of the series whose terms alternate from `t0`. -/
def fxSeries (a : Int) (first : Int) (k : Nat) : Int :=
  ((List.range 20).foldl (fun (r : Int × Int) (i : Nat) =>
    (r.1 + r.2, -(r.2 * a / fxOne * a / fxOne) / ((2 * i + k + 1) * (2 * i + k + 2) : Nat))) (0, first)).1
def fxSin (a : Int) : Int := fxSeries a a 1
def fxCos (a : Int) : Int := fxSeries a fxOne 0

/-! ## Motion frames (R326 to R328) -/

/-- A signed 32-bit count of millionths as a number of units. -/
def micro (w : Word) : Word := fRatio w.toInt 1000000

/-- The three values from `i` on of a frame, in units. -/
def MotFrame.vec (f : MotFrame) (i : Nat) : Vec3 :=
  let v (j : Nat) : Word := micro (f.vals.toList.getD j 0)
  ⟨v i, v (i + 1), v (i + 2)⟩

/-- A source's extrinsic (12, The motion sample frame). -/
def State.mext (s : State) (src : Fin 16) (i : Nat) : Word := assocGet s.fus.active.mext 0 (12 * src.val + i)

/-- Is a source enabled, and of a kind: 1 IMU, 2 TWIST? -/
def State.srcOn (s : State) (n : Nat) : Bool := s.bit (0x40100 + 4 * n) 31
def State.anySource (s : State) : Bool := (List.range 16).any s.srcOn
def State.imuSource (s : State) : Bool := (List.range 16).any fun n => s.srcOn n && s.fld (0x40100 + 4 * n) 9 8 == 1

/-- The 62-bit stamp nearest to the device horizon with the given low bits (R327); of two equally near, either, as `pick` says (DESIGN CHOICE, log entry 25). -/
def completeStamp (pick : Nat) (h : Option Nat) (low : Nat) : Nat :=
  match h with
  | none => low
  | some t =>
    let b := t / 2 ^ 56
    let at' (i : Nat) : Nat := i % 64 * 2 ^ 56 + low
    let near (x y : Nat) : Nat := if stampGap y t < stampGap x t || (stampGap y t == stampGap x t && pick % 2 == 1) then y else x
    near (near (if b = 0 then at' 0 else at' (b - 1)) (at' b)) (at' (min 63 (b + 1)))

/-- The latest device horizon there has been. -/
def State.motHorizon (s : State) : Option Nat :=
  match s.horizon with
  | some h => some h
  | none => s.ego.lastHorizon

/-! ## Integration (R329 to R331) -/

/-- Mean of vectors. -/
def meanVec (l : List Vec3) : Vec3 :=
  match l with
  | [] => Vec3.zero
  | a :: t =>
    let n := fInt l.length
    let sum := t.foldl Vec3.add a
    ⟨fDiv sum.x n, fDiv sum.y n, fDiv sum.z n⟩

/-- Frames of an interval. -/
def inInterval (l : List MotFrame) (j : Nat) : List MotFrame := l.filter fun f => f.stamp / 125 == j

/-- 125 µs in seconds, and gravity. -/
def egoDt : Word := fRatio 125 1000000
def gravity : Word := fRatio 980665 100000

/-- Tilt `q` toward turning `a` onto +z by a fraction of the angle between them (R329). `k` chooses the axis where the angle is a half turn. -/
def tiltToward (q : Quat) (a : Vec3) (kg : Nat) (k : Nat) : Quat :=
  let r := q.rot a
  let rx := fxOf (fval r.x)
  let ry := fxOf (fval r.y)
  let rz := fxOf (fval r.z)
  let h := isqrt (rx * rx + ry * ry).toNat
  if h = 0 && decide (0 ≤ rz) then q
  else
    let half := fxAngle h rz * kg / (2 * 65536)
    let sn := fxSin half
    let ax : Int := if h = 0 then (if k % 2 = 0 then sn else 0) else sn * ry / h
    let ay : Int := if h = 0 then (if k % 2 = 0 then 0 else sn) else -(sn * rx / h)
    (Quat.mul ⟨fxWord (fxCos half), fxWord ax, fxWord ay, 0⟩ q).normalise

/-- One TWIST frame pulls the velocity (R329). -/
def State.twistPull (s : State) (q : Quat) (v : Vec3) (f : MotFrame) : Vec3 :=
  let m := s.mext f.source
  let ts : Vec3 := ⟨m 3, m 7, m 11⟩
  let vb := (linear m (f.vec 0)).sub ((linear m (f.vec 3)).cross ts)
  v.add (((q.rot vb).sub v).scale (fRatio (s.fld 0x40200 15 0) 65536))

/-- Interval j integrated into the next knot (R329). -/
def State.nextKnot (s : State) (k : Knot) (frames : List MotFrame) : Knot :=
  let imu := frames.filter fun f => !f.twist
  let twist := frames.filter fun f => f.twist
  let rates (l : List MotFrame) : Vec3 := meanVec (l.map fun f => linear (s.mext f.source) (f.vec 3))
  let w := if !imu.isEmpty then rates imu else if !twist.isEmpty && !s.imuSource then rates twist else k.omega
  let half := w.scale (fMul egoDt fHalf)
  let q1 := (k.q.mul ⟨fOne, half.x, half.y, half.z⟩).normalise
  let a := meanVec (imu.map fun f => linear (s.mext f.source) (f.vec 0))
  let v1 := if imu.isEmpty then k.v else k.v.add (((q1.rot a).sub ⟨0, 0, gravity⟩).scale egoDt)
  let dev := fSub a.norm gravity
  let level := fLt (if bitAt dev.toNat 31 then fNeg dev else dev) (fRatio 490 1000)
  let q2 := if !imu.isEmpty && level then tiltToward q1 a (s.fld 0x40200 31 16) (Config.freeOrder s.free) else q1
  let v2 := twist.foldl (s.twistPull q2) v1
  { q := q2, p := k.p.add ((k.v.add v2).scale (fMul egoDt fHalf)), v := v2, omega := w }

/-- Integrate `n` intervals from `j` on: the new knots, oldest first. -/
def State.integrate (s : State) (frames : List MotFrame) (n j : Nat) (k : Knot) : List Knot :=
  match n with
  | 0 => []
  | m + 1 =>
    let k1 := s.nextKnot k (inInterval frames j)
    k1 :: s.integrate frames m (j + 1) k1

/-- Keep the newest 4,096 knots and the frames they may need. -/
def Ego.trim (e : Ego) : Ego :=
  let drop := e.knots.length - 4096
  let first := e.first + drop
  { e with knots := e.knots.drop drop, first := first, frames := e.frames.filter fun f => decide (first * 125 ≤ f.stamp) }

/-- The newest frame stamp. -/
def newestStamp (l : List MotFrame) : Nat := l.foldl (fun a f => max a f.stamp) 0

/-- Integrate from knot `j` on to the newest knot the frames allow (R331). -/
def State.reintegrate (s : State) (j : Nat) : State :=
  let e := s.ego
  let newest := max (newestStamp e.frames / 125) (e.first + e.knots.length - 1)
  match e.knots[j - e.first]? with
  | some k =>
    let knots := e.knots.take (j - e.first + 1) ++ s.integrate e.frames (newest - j) j k
    ({ s with ego := Ego.trim { e with knots := knots } }).tick
  | none => s

/-- The rotation with zero yaw that turns a force onto +z: pitch after roll (R330). -/
def levelRotation (a : Vec3) : Quat :=
  let h := fSqrt (fAdd (fMul a.y a.y) (fMul a.z a.z))
  let n := a.norm
  let halfCos (c : Word) : Word := fSqrt (fMul (fAdd fOne c) fHalf)
  let halfSin (c sgn : Word) : Word := fSqrt (fMul (fSub fOne c) fHalf) ||| (sgn &&& 0x80000000)
  let cr := if (fval h).isZero then fOne else fDiv a.z h
  let cp := fDiv h n
  let qx : Quat := ⟨halfCos cr, halfSin cr a.y, 0, 0⟩
  let qy : Quat := ⟨halfCos cp, 0, halfSin cp (fNeg a.x), 0⟩
  (qy.mul qx).normalise

/-- Set the first knot. -/
def State.levelAt (s : State) (j : Nat) (q : Quat) : State :=
  { s with ego := { s.ego with
      levelled := true, first := j, knots := [⟨q, Vec3.zero, Vec3.zero, Vec3.zero⟩]
      frames := s.ego.frames.filter fun f => decide (j * 125 ≤ f.stamp) } }

/-- Level where the frames suffice (R330): after the 16th complete interval with IMU frames, or at the first TWIST frame. -/
def State.tryLevel (s : State) : State :=
  let e := s.ego
  if e.levelled then s
  else if s.imuSource then
    let done := newestStamp e.frames / 125
    let js := (distinct ((e.frames.filter fun f => !f.twist && decide (f.stamp / 125 < done)).map fun f => f.stamp / 125)).take 16
    match js.getLast? with
    | some j =>
      if js.length = 16 then
        let fs := e.frames.filter fun f => !f.twist && js.contains (f.stamp / 125)
        s.levelAt (j + 1) (levelRotation (meanVec (fs.map fun f => linear (s.mext f.source) (f.vec 0))))
      else s
    | none => s
  else match e.frames.find? fun f => f.twist with
    | some f => s.levelAt (f.stamp / 125) Quat.one
    | none => s

/-- Insert a frame by stamp, after those of the same stamp. -/
def insertFrame (f : MotFrame) (l : List MotFrame) : List MotFrame :=
  match l with
  | [] => [f]
  | g :: t => if f.stamp < g.stamp then f :: g :: t else g :: insertFrame f t

/-- Does a stamp lie in a closed step? With no step open, in the last one closed or before it, as that step was cut (R56, R332). -/
def State.inClosedStep (s : State) (t : Nat) : Bool :=
  if s.step.running then s.stepClosed t
  else match s.step.closed with
    | some (_, e) => decide (t < e)
    | none => false

/-- An accepted frame: counted, late or out of order counted, integrated (R331, R332). -/
def State.acceptFrame (s : State) (f : MotFrame) : State :=
  let e := s.ego
  let j := f.stamp / 125
  if !e.knots.isEmpty && decide (f.stamp < e.first * 125) then s.bump (0x40380 + 4 * f.source.val)
  else
    let s1 := s.bump 0x40500
    let integrated := !e.knots.isEmpty && decide (j + 1 < e.first + e.knots.length)
    let s2 :=
      if s.inClosedStep f.stamp then s1.bump (0x40300 + 4 * f.source.val)
      else if integrated && s.step.running && decide (f.stamp / s.period = s.step.k) then s1.bump (0x40340 + 4 * f.source.val)
      else s1
    let s3 := { s2 with ego := { e with frames := insertFrame f e.frames, total := e.total + 1 } }
    if e.knots.isEmpty then
      let s4 := s3.tryLevel
      if s4.ego.knots.isEmpty then s4 else s4.reintegrate s4.ego.first
    else s3.reintegrate (if integrated then j else e.first + e.knots.length - 1)

/-! ## The pose (R333) -/

/-- A pose: rotation and position. -/
structure Pose where
  q : Quat
  p : Vec3
  deriving DecidableEq, Repr

/-- Body to world. -/
def Pose.apply (t : Pose) (a : Vec3) : Vec3 := (t.q.rot a).add t.p

/-- World to body. -/
def Pose.inverse (t : Pose) (a : Vec3) : Vec3 := t.q.conj.rot (a.sub t.p)

/-- A pose the spec does not give: before the first knot (log entry 26). -/
def freePose (k : Nat) : Pose :=
  let w (i : Nat) : Word := (Config.freeBits k >>> (32 * i)).setWidth 32
  ⟨⟨w 0, w 1, w 2, w 3⟩, ⟨w 4, w 5, w 6⟩⟩

/-- A knot carried forward by `us` microseconds. -/
def Knot.forward (k : Knot) (us : Nat) : Pose :=
  let dt := fRatio us 1000000
  let half := k.omega.scale (fMul dt fHalf)
  ⟨(k.q.mul ⟨fOne, half.x, half.y, half.z⟩).normalise, k.p.add (k.v.scale dt)⟩

/-- The pose T(t). -/
def State.pose (s : State) (t : Nat) : Pose :=
  if !s.anySource then ⟨Quat.one, Vec3.zero⟩
  else
    let e := s.ego
    let j := t / 125
    let newest := e.first + e.knots.length - 1
    match e.knots.getLast? with
    | none => freePose (s.free + t)
    | some last =>
      if newest ≤ j then last.forward (min (t - newest * 125) (s.fld 0x40204 15 0))
      else if j < e.first then freePose (s.free + t)
      else match e.knots[j - e.first]?, e.knots[j + 1 - e.first]? with
        | some a, some b =>
          let al := fRatio (t % 125 : Nat) 125
          let mix (x y : Word) : Word := fAdd x (fMul al (fSub y x))
          ⟨Quat.normalise ⟨mix a.q.w b.q.w, mix a.q.x b.q.x, mix a.q.y b.q.y, mix a.q.z b.q.z⟩,
            ⟨mix a.p.x b.p.x, mix a.p.y b.p.y, mix a.p.z b.p.z⟩⟩
        | _, _ => freePose (s.free + t)

/-- Velocity and rate at a step end: of the newest knot not after it. -/
def State.motionAt (s : State) (t : Nat) : Vec3 × Vec3 :=
  if !s.anySource then (Vec3.zero, Vec3.zero)
  else
    let e := s.ego
    match e.knots[min (t / 125) (e.first + e.knots.length - 1) - e.first]? with
    | some k => (k.v, k.omega)
    | none =>
      let f := freePose (s.free + t + 1)
      (f.p, ⟨f.q.x, f.q.y, f.q.z⟩)

/-- Is the pose at a stamp held at the extrapolation limit? (R333, R334) -/
def State.poseHeld (s : State) (t : Nat) : Bool :=
  let e := s.ego
  s.anySource && !e.knots.isEmpty && decide ((e.first + e.knots.length - 1) * 125 + s.fld 0x40204 15 0 < t)

end Sys2Proof.Machine
end

