-- ==== Sys2Proof/Machine/Motion.lean ====
section
/-! DEFINITION. The motion ports and what takes their frames (R323 to R328, R331, R332). -/

namespace Sys2Proof.Machine

/-- A register of motion port `m`. -/
def motP (m : Fin 4) (o : Nat) : Nat := 0x40000 + 0x20 * m.val + o

/-- Store the FIFO of a motion port, its threshold signal following (R147, R325). -/
def State.setFrames (s : State) (m : Fin 4) (l : List FifoWord) : State :=
  s.setMot m { fifo := l, above := hysteresis (s.fld (motP m 4) 26 16) (s.fld (motP m 4) 10 0) l.length (s.mot m).above }

/-- The item of a frame: four words, least significant byte first, the first with SOI (R128, R324, R326). -/
def frameWords (l : List Byte) : List FifoWord :=
  (List.range 4).map fun i => ⟨BitVec.ofNat 64 (leNat ((l.drop (8 * i)).take 8)), i == 0, false⟩

/-- One complete frame reaches the FIFO (R325). -/
def State.pushFrame (s : State) (m : Fin 4) (l : List Byte) : State :=
  if 1024 < (s.mot m).fifo.length + 4 then s.bump (motP m 0x10) 4 else s.setFrames m ((s.mot m).fifo ++ frameWords l)

/-- `SPI_TRANSACTION` (R324, R325). -/
def execSpiTransaction (m : Fin 4) (bytes : List Byte) (s : State) : Res :=
  .next (if s.clocked && s.bit (motP m 0) 0 then
      let s1 := s.each (List.range (bytes.length / 32)) fun s i => s.pushFrame m ((bytes.drop (32 * i)).take 32)
      if bytes.length % 32 = 0 then s1 else s1.bump (motP m 0x0C)
    else s)

/-- Words as a reader is given them: one whose parity fails is tagged, and its data is open (R130; DESIGN CHOICE, log entry 61). -/
def State.poisonWords (s : State) (l : List FifoWord) (bad : List Nat) : List FifoWord :=
  l.mapIdx fun i w => if bad.contains i then { w with data := (Config.freeBits (s.free + i)).setWidth 64, poison := true } else w

/-- Word `i` of a frame. -/
def frameWord (l : List FifoWord) (i : Nat) : Nat := ((l[i]?.map fun w => w.data.toNat)).getD 0

/-- TYPE of a frame. -/
def frameType (l : List FifoWord) : Nat := bitsOf (frameWord l 0) 63 60

/-- A frame as ego-motion takes it; its values are open where the source's extrinsic cannot be read (R504). -/
def State.motFrame (s : State) (twist : Bool) (l : List FifoWord) (ecc : Ecc) : MotFrame where
  twist := twist
  source := ⟨bitsOf (frameWord l 0) 59 56 % 16, Nat.mod_lt _ (by decide)⟩
  stamp := completeStamp (Config.freeRound s.free 3) s.motHorizon (bitsOf (frameWord l 0) 55 0)
  vals := Vector.ofFn fun i =>
    match ecc with
    | .uncorrectable => (Config.freeBits (s.free + 4 + i.val)).setWidth 32
    | _ => BitVec.ofNat 32 (frameWord l (1 + i.val / 2) / 2 ^ (32 * (i.val % 2)))

/-- A frame of a source that is enabled, of its kind and on its port is accepted; any other but a PAD is counted (R328, R331). -/
def State.meetFrame (s : State) (m : Fin 4) (l : List FifoWord) (ecc : Ecc) : State :=
  let ty := frameType l
  let r := 0x40100 + 4 * bitsOf (frameWord l 0) 59 56
  if ty = 14 then s
  else if (ty = 1 ∨ ty = 2) ∧ s.bit r 31 ∧ s.fld r 9 8 = ty ∧ s.fld r 1 0 = m.val then
    (s.acceptFrame (s.motFrame (ty == 2) l ecc)).fusionRead ecc
  else s.bump 0x40504

/-- Ego-motion takes the frame at the head of a port, if its type satisfies `types`; `bad` are its words that fail their parity (R130, R328, R331). -/
def State.takeFrame (s : State) (m : Fin 4) (types : Nat → Bool) (bad : List (Fin 4)) (ecc : Ecc) : State :=
  let l := (s.mot m).fifo.take 4
  if s.clocked && !l.isEmpty && types (frameType l) then
    ((s.setFrames m ((s.mot m).fifo.drop 4)).meetFrame m (s.poisonWords l (bad.map fun i => i.val)) ecc).ticks 10
  else s

/-- `IMU_FRAME`: an IMU frame, or one of a reserved type, at the head of the port (R328, R331). -/
def execImuFrame (m : Fin 4) (s : State) (bad : List (Fin 4) := []) (ecc : Ecc := .clean) : Res :=
  .next (s.takeFrame m (fun t => t != 2 && t != 14) bad ecc)

/-- `TWIST_FRAME` (R331). -/
def execTwistFrame (m : Fin 4) (s : State) (bad : List (Fin 4) := []) (ecc : Ecc := .clean) : Res :=
  .next (s.takeFrame m (fun t => t == 2) bad ecc)

/-- `PAD_FRAME`: ignored without counting (R328). -/
def execPadFrame (m : Fin 4) (s : State) (bad : List (Fin 4) := []) : Res := .next (s.takeFrame m (fun t => t == 14) bad .clean)

end Sys2Proof.Machine
end

