-- ==== Sys2Proof/Machine/Fusion.lean ====
section
/-! DEFINITION. From cells to Fusion and Scene Memory: the output bridges (R335, R336, R418, R419), placement of items (R338), the grid and sector evidence (R339 to R343). -/

namespace Sys2Proof.Machine

/-! ## Output bridges (R336, R419) -/

/-- Words of the item at the head of a queue: up to the next word that starts an item. -/
def headLen (l : List QWord) : Nat :=
  match l with
  | [] => 0
  | _ :: t => 1 + (t.takeWhile fun w => !w.soi).length

/-- Read `n` words of a queue. -/
def State.readQueue (s : State) (c q : Fin 256) (n : Nat) : List QWord × State :=
  match n with
  | 0 => ([], s)
  | k + 1 =>
    let r := s.popWord c q
    let t := r.2.readQueue c q k
    (r.1 :: t.1, t.2)

/-- What a bridge's read of a queue meets: corrected words are counted, those beyond correction delivered poisoned (R130, R166, R167). -/
def State.bridgeMeets (s : State) (c q : Fin 256) (u : Upset) : State :=
  match u with
  | .corrected n => s.bump (celR c 0x200) n
  | _ => s.queueUpsets c q u

/-- The item at the head of queue `q` of a standing cell, read out, with its step (R336, R419). -/
def State.headItemOf (s : State) (c q : Fin 256) (u : Upset) : Option (BridgeItem × State) :=
  match (s.queue c q).words with
  | [] => none
  | w :: t =>
    if (s.cell c).removed then none
    else
      let r := (s.bridgeMeets c q u).readQueue c q (headLen (w :: t))
      some (⟨c, w.step.getD s.step.k, r.1.map fun x => x.data⟩, r.2)

/-- The item at the head of queue 248 or 250, if its step lets the bridge forward it while a step is open (R336, R419). -/
def State.bridgeItem (s : State) (c q : Fin 256) (u : Upset) : Option (BridgeItem × State) :=
  match s.headItemOf c q u with
  | some (i, t) => if s.step.running && decide (i.step ≤ s.step.k) then some (i, t) else none
  | none => none

/-- The charges of an item that a bridge forwards (R484). -/
def State.chargeItem (s : State) (c : Fin 256) (n : Nat) : State := (s.charge c 11 n).charge c 12 n

/-- `OUTPUT_BRIDGE_FORWARD` (R336, R382, R387): the next item of queue 250 goes to Fusion, held while its step is later than the open step; the next item of queue 249 goes to Scene Memory. -/
def execOutputBridgeForward (c : Fin 256) (scene : Bool) (s : State) (u : Upset := .none) : Res :=
  .next (if !s.clocked then s
    else if scene then
      match s.headItemOf c 249 u with
      | some (i, t) => let t := t.chargeItem c i.words.length; { t with scm := { t.scm with inbox := t.scm.inbox ++ [i], gated := false } }
      | none => s
    else
      match s.bridgeItem c 250 u with
      | some (i, t) => let t := t.chargeItem c i.words.length; { t with fus := { t.fus with inbox := t.fus.inbox ++ [i] } }
      | none => s)

/-! ## Placement (R338) -/

/-- A word of a port's active calibration record. -/
def State.calF (s : State) (p : Fin 16) (i : Nat) : Word := assocGet (s.port p).active.calrec 0 i

/-- A usable focal length: finite and not zero. -/
def focalOk (w : Word) : Bool := (fval w).isFinite && !(fval w).isZero

/-- Are the coordinates of a point finite? -/
def Vec3.finite (a : Vec3) : Bool := (fval a.x).isFinite && (fval a.y).isFinite && (fval a.z).isFinite

/-- 12.8 m. -/
def rayLimit : Word := fRatio 128 10

/-- The world point of an observation at rectified (u, v) in eighths with a range in mm (R338). -/
def State.place (s : State) (p : Fin 16) (u v : Int) (range stamp : Nat) : Option Vec3 :=
  let fx := s.calF p 4
  let fy := s.calF p 5
  if !(focalOk fx && focalOk fy) then none
  else
    let e (i : Nat) : Word := s.calF p (8 + i)
    let t := s.pose stamp
    let dx := fSub (fRatio u 8) (s.calF p 6)
    let dy := fSub (fRatio v 8) (s.calF p 7)
    let ps : Option Vec3 :=
      if 0 < range then
        let z := fRatio range 1000
        some ⟨fDiv (fMul z dx) fx, fDiv (fMul z dy) fy, z⟩
      else
        let ray : Vec3 := ⟨fDiv dx fx, fDiv dy fy, fOne⟩
        let dir := t.q.rot (linear e ray)
        let org := t.apply (affine e Vec3.zero)
        let lam := fDiv (fNeg org.z) dir.z
        if (fval dir.z).isZero || fLt lam 0 || !(fval lam).isFinite || fLt rayLimit (fMul lam dir.norm) then none
        else some (ray.scale lam)
    match ps with
    | none => none
    | some a =>
      let w := t.apply (affine e a)
      if w.finite then some w else none

/-- Floor of 20 times a coordinate: its column or row of 5 cm. -/
def gridIndex (w : Word) : Int := ((fval w).mul (fOfInt 20)).floor

/-- The grid cell of a world point, as 512·j + i (R338, R339). -/
def State.gridCell (s : State) (w : Vec3) : Option Nat :=
  let i := gridIndex w.x - s.fus.gox
  let j := gridIndex w.y - s.fus.goy
  if 0 ≤ i ∧ i < 512 ∧ 0 ≤ j ∧ j < 512 then some (512 * j.toNat + i.toNat) else none

/-- Tangents of i times 5.625 degrees, i from 1 to 7, in units of 2^-64. -/
def sectorTan : List Nat :=
  [1816845711190106721, 3669285534148243471, 5595758638113189652, 7640891576956012808, 9859990129432026165, 12325720329217147637, 15138851621137710681]

/-- Sectors below the angle of (x, y), x positive and y not negative, in its quarter turn. -/
def quarterSectors (x y : Nat) : Nat :=
  ((List.range 15).filter fun i =>
    let n := i + 1
    if n < 8 then decide (x * sectorTan.getD (n - 1) 0 ≤ y * fxOne)
    else if n = 8 then decide (x ≤ y)
    else decide (x * fxOne ≤ y * sectorTan.getD (15 - n) 0)).length

/-- Sector and bin of a body-frame point (R338, R343). -/
def sectorOf (px py : FVal) : Option (Nat × Nat) :=
  match px, py with
  | .fin nx mx ex, .fin ny my ey =>
    let e := min ex ey
    let x := sigAt nx mx ex e
    let y := sigAt ny my ey e
    let sec :=
      if x = 0 ∧ y = 0 then 0
      else if 0 < x ∧ 0 ≤ y then quarterSectors x.natAbs y.natAbs
      else if x ≤ 0 ∧ 0 < y then 16 + quarterSectors y.natAbs x.natAbs
      else if x < 0 ∧ y ≤ 0 then 32 + quarterSectors x.natAbs y.natAbs
      else 48 + quarterSectors y.natAbs x.natAbs
    let bin := isqrt (((px.mul px).add (py.mul py)).mul (fOfInt 16)).floor.toNat
    if bin < 32 then some (sec, bin) else none
  | _, _ => none

/-- The sector cell of a world point in the body frame at a stamp. -/
def State.sectorAt (s : State) (te : Nat) (w : Vec3) : Option (Nat × Nat) :=
  let pe := (s.pose te).inverse w
  sectorOf (fval pe.x) (fval pe.y)

/-! ## Items (R336, R337) -/

/-- Take the item at the head of Fusion's inbox if its kind satisfies `kinds`: the item, and whether `good` finds its length and kind right; such an item whose step has closed is counted (R336, R337). -/
def State.takeItem (s : State) (kinds : Nat → Bool) (good : List DWord → Bool) : Option (BridgeItem × Bool × State) :=
  match s.fus.inbox with
  | [] => none
  | i :: t =>
    if kinds (itemKind i.words) then
      let s1 := { s with fus := { s.fus with inbox := t } }
      some (i, good i.words, if good i.words && decide (i.step < s.step.k) then s1.bump 0x50110 else s1)
    else none

/-- Place an item in the world, or count it as placed nowhere (R338). -/
def State.placeItem (s : State) (l : List DWord) : Option Vec3 :=
  s.place (itemPort l) (itemU l) (itemV l) (itemRange l) (itemStamp l)

/-! ## The grid (R339 to R342) -/

/-- `FEATURE_ITEM` (R337, R338, R341); what ECC finds in the cell's word is acted on, and an uncorrectable one holds an open value (R504). -/
def execFeatureItem (ecc : Ecc) (s : State) : Res :=
  .next (match s.takeItem (fun k => !(k == 5 || k == 6 || k == 7)) (fun l => itemKind l == 4 && l.length == 4) with
    | none => s
    | some (i, good, s1) =>
      if good then
        match (s1.placeItem i.words).bind s1.gridCell with
        | none => (s1.bump 0x50108).tick
        | some cell => (s1.giveNew ⟨i.cell, i.words, cell, s1.openValue ecc⟩).tick.fusionRead ecc
      else s1.bump 0x5010C)

/-- `EVIDENCE_ITEM` (R337, R338, R343, R504). -/
def execEvidenceItem (ecc : Ecc) (s : State) : Res :=
  .next (match s.takeItem (fun k => k == 5) (fun l => l.length == 3) with
    | none => s
    | some (i, good, s1) =>
      if good then
        match (s1.placeItem i.words).bind (s1.sectorAt (s1.endOf s1.step.k)) with
        | none => (s1.bump 0x50108).tick
        | some (sec, bin) =>
          let key := accKey (itemPort i.words).val sec bin (bitAt (itemWord i.words 0) 55)
          (s1.giveNew ⟨i.cell, i.words, key, s1.openValue ecc⟩).tick.fusionRead ecc
      else s1.bump 0x5010C)

/-! ## Observations (R354, R355) -/

/-- Buffer an observation of the open step, 8,192 at most (R355). -/
def State.bufferObs (s : State) (o : Obs) : State :=
  let l := assocGet s.trk.obs [] s.step.k
  if 8192 ≤ l.length then s.bump 0x6004C
  else { s with trk := { s.trk with obs := assocPut s.trk.obs s.step.k (l ++ [o]), gated := false } }

/-- The words of an item as they are read: open where one is beyond correction. -/
def State.wordsRead (s : State) (e : Ecc) (l : List DWord) : List DWord :=
  match e with
  | .uncorrectable => (List.range l.length).map fun i => BitVec.ofNat 64 ((Config.freeBits s.free).toNat / 2 ^ (64 * i))
  | _ => l

/-- `FEATURE_OBSERVATION` (R355). -/
def execFeatureObservation (s : State) (ecc : Ecc := .clean) : Res :=
  .next (match s.takeItem (fun k => k == 6) (fun l => l.length == 4) with
    | none => s
    | some (i, good, s1) =>
      if good then
        let l := s1.wordsRead ecc i.words
        ((s1.bufferObs {
          cell := i.cell, obj := false, port := itemPort l, cls := 0, score := bitsOf (itemWord l 0) 55 48, u := itemU l, v := itemV l
          x := 0, y := 0, stamp := itemStamp l, desc := l.getD 2 0, extentMm := 0
          flow := if bitAt (itemWord l 3) 32 then some (BitVec.ofNat 16 (itemWord l 3), BitVec.ofNat 16 (itemWord l 3 / 65536)) else none
          }).tick).fusionRead ecc
      else s1.bump 0x5010C)

/-- `OBJECT_OBSERVATION` (R354, R355). -/
def execObjectObservation (s : State) (ecc : Ecc := .clean) : Res :=
  .next (match s.takeItem (fun k => k == 7) (fun l => l.length == 4) with
    | none => s
    | some (i, good, s1) =>
      if good then
        let l := s1.wordsRead ecc i.words
        match s1.placeItem l with
        | none => (s1.bump 0x50108).tick.fusionRead ecc
        | some w => ((s1.bufferObs {
            cell := i.cell, obj := true, port := itemPort l, cls := BitVec.ofNat 8 (bitsOf (itemWord l 0) 55 48)
            score := bitsOf (itemWord l 2) 63 56, u := 0, v := 0, x := w.x, y := w.y, stamp := itemStamp l, desc := l.getD 3 0
            extentMm := bitsOf (itemWord l 2) 55 40, flow := none }).tick).fusionRead ecc
      else s1.bump 0x5010C)

end Sys2Proof.Machine
end

