-- ==== Sys2Proof/Machine/Tracking.lean ====
section
/-! DEFINITION. The Track Manager (13): prediction, gating, greedy and auction assignment, update, life and birth of tracks, and their records. -/

namespace Sys2Proof.Machine

/-! ## What Fusion says of a port (R345) -/

/-- Is some shingle of the port owned by a cell without a route, or rebuilding? (R22, R345) -/
def State.portBlind (s : State) (p : Fin 16) : Bool :=
  (List.finRange 256).any fun c => (!s.hasRoute c || (s.cell c).rebuild.isSome) && mapsTo (s.port p).active.rmap c

/-! ## Prediction and cost (R362 to R364) -/

/-- Δt of a track at a stamp: ms for a feature, s for an object. -/
def Track.dt (t : Track) (stamp : Nat) : Word := fRatio ((stamp : Int) - t.tlast) (if t.obj then 1000000 else 1000)

/-- The predicted position of a track at a stamp (R362). -/
def Track.predict (t : Track) (stamp : Nat) : Word × Word :=
  (fAdd t.x (fMul t.vx (t.dt stamp)), fAdd t.y (fMul t.vy (t.dt stamp)))

/-- The position of an observation: rectified pixels or world metres. -/
def Obs.pos (o : Obs) : Word × Word := if o.obj then (o.x, o.y) else (fRatio o.u 8, fRatio o.v 8)

/-- Sum of the absolute differences of two descriptors. -/
def descGap (a b : DWord) : Nat :=
  (List.range 8).foldl (fun n i => n + (signedOf 8 (a.toNat / 2 ^ (8 * i)) - signedOf 8 (b.toNat / 2 ^ (8 * i))).natAbs) 0

/-- The nearest integer; a half goes the way a free choice `k` says (log entry 27). -/
def nearestInt (k : Nat) (v : FVal) : Int := if k % 2 = 0 then v.roundUp else -v.neg.roundUp

/-- Difference of two coordinates in units of 1/`n`, as an exact value. -/
def coordGap (a b : Word) (n : Int) : FVal := ((fval a).add (fval b).neg).mul (fOfInt n)

/-- The cost c(i, j) (R364); `k` indexes the free choice at a half. A coordinate without a finite value has a cost the spec does not give, a free value (log entry 27). -/
def pairCost (wd k : Nat) (t : Track) (o : Obs) : Nat :=
  let p := t.predict o.stamp
  let n : Int := if o.obj then 100 else 8
  let gx := coordGap o.pos.1 p.1 n
  let gy := coordGap o.pos.2 p.2 n
  if gx.isFinite && gy.isFinite then
    let dx := nearestInt (Config.freeRound k 0) gx
    let dy := nearestInt (Config.freeRound k 1) gy
    let sq := (dx * dx + dy * dy).natAbs
    min 65535 ((if o.obj then sq else sq / 16) + wd * descGap t.desc o.desc)
  else min 65535 (Config.freeRound k 2)

/-- GATE and WD of a kind. -/
def State.trkGate (s : State) (obj : Bool) : Nat := s.fld (if obj then 0x60004 else 0x60000) 15 0
def State.trkWd (s : State) (obj : Bool) : Nat := s.fld (if obj then 0x60004 else 0x60000) 23 16

/-- May a track and an observation be a candidate pair but for the gate? (R363) -/
def alike (t : Track) (o : Obs) : Bool := t.obj == o.obj && (if o.obj then t.cls == o.cls else t.port == o.port)

/-! ## Candidate pairs and greedy assignment (R365, R366) -/

/-- A candidate pair. -/
structure Pair where
  cost : Nat
  entry : Nat
  obs : Nat
  deriving DecidableEq, Repr

/-- Ascending order of cost, then entry index, then observation number. -/
def Pair.before (a b : Pair) : Bool :=
  decide (a.cost < b.cost) || (a.cost == b.cost && (decide (a.entry < b.entry) || (a.entry == b.entry && decide (a.obs < b.obs))))

def insertPair (p : Pair) (l : List Pair) : List Pair :=
  match l with
  | [] => [p]
  | q :: t => if p.before q then p :: q :: t else q :: insertPair p t

def sortPairs (l : List Pair) : List Pair := l.foldl (fun acc p => insertPair p acc) []

/-- Every pair within the gate of one observation, cheapest first. -/
def State.pairsOf (s : State) (tracks : List (Nat × Track)) (j : Nat) (o : Obs) : List Pair :=
  sortPairs (tracks.filterMap fun kv =>
    let c := pairCost (s.trkWd o.obj) (s.free + 32768 * j + kv.1) kv.2 o
    if alike kv.2 o && decide (c ≤ s.trkGate o.obj) then some ⟨c, kv.1, j⟩ else none)

/-- Observations with their numbers. -/
def numbered {α : Type} (l : List α) : List (Nat × α) := (List.range l.length).zip l

/-- Greedy assignment of pairs beside pairs already assigned (R366). -/
def greedy (l done : List Pair) : List Pair :=
  (sortPairs l).foldl (fun d p => if d.any fun q => q.entry == p.entry || q.obs == p.obs then d else d ++ [p]) done

/-! ## Clusters and the auction (R373 to R375) -/

/-- Are two pairs of one track or one observation? -/
def Pair.touches (a b : Pair) : Bool := a.entry == b.entry || a.obs == b.obs

/-- Add a pair to the clusters it connects. -/
def addToClusters (cs : List (List Pair)) (p : Pair) : List (List Pair) :=
  let near := cs.filter fun c => c.any p.touches
  (p :: near.flatten) :: cs.filter fun c => !c.any p.touches

/-- The lowest entry of a cluster, its tracks and its observations. -/
def lowestEntry (c : List Pair) : Nat := (leastOf (c.map fun p => p.entry)).getD 0
def clusterTracks (c : List Pair) : List Nat := sortNat (distinct (c.map fun p => p.entry))
def clusterObs (c : List Pair) : List Nat := sortNat (distinct (c.map fun p => p.obs))

def insertCluster (c : List Pair) (l : List (List Pair)) : List (List Pair) :=
  match l with
  | [] => [c]
  | d :: t => if lowestEntry c < lowestEntry d then c :: d :: t else d :: insertCluster c t

/-- The clusters of the candidate pairs, by lowest entry index (R373). -/
def clustersOf (l : List Pair) : List (List Pair) :=
  (l.foldl addToClusters []).foldl (fun acc c => insertCluster c acc) []

/-- State of an auction: prices, owners by observation, free tracks, bids. -/
structure Auction where
  price : List (Nat × Int)
  owner : List (Nat × Nat)
  free : List Nat
  bids : Nat
  deriving DecidableEq, Repr

/-- Larger first. -/
def insertDesc (x : Int) (l : List Int) : List Int :=
  match l with
  | [] => [x]
  | y :: t => if y ≤ x then x :: y :: t else y :: insertDesc x t

/-- One pass of the loop of R374: the first free track bids, or stays unassigned. -/
def Auction.bid (a : Auction) (c : List Pair) (n gate : Nat) (i : Nat) : Auction :=
  let free := a.free.drop 1
  let vals := (c.filter fun p => p.entry == i).map fun p =>
    (p.obs, Int.ofNat ((n + 1) * (gate + 1 - p.cost)) - assocGet a.price 0 p.obs)
  let all := (vals.map fun x => x.2).foldl (fun l x => insertDesc x l) [0]
  let v1 := all.headD 0
  match leastOf ((vals.filter fun x => x.2 == v1).map fun x => x.1) with
  | none => { a with free := free }
  | some j =>
    let v2 := all.getD 1 0
    let back := (a.owner.filter fun o => o.1 == j).map fun o => o.2
    { price := assocPut a.price j (assocGet a.price 0 j + v1 - v2 + 1)
      owner := (j, i) :: a.owner.filter fun o => o.1 != j
      free := free ++ back, bids := a.bids + 1 }

/-- The auction until no track is free or the bid limit is reached. -/
def Auction.run (fuel : Nat) (a : Auction) (c : List Pair) (n gate iter : Nat) : Auction :=
  match fuel with
  | 0 => a
  | m + 1 =>
    match a.free with
    | [] => a
    | i :: _ => if iter ≤ a.bids then a else (a.bid c n gate i).run m c n gate iter

/-- Solve one cluster beside what is assigned: its pairs, whether it was too large, whether it met the bid limit. -/
def State.solveCluster (s : State) (c : List Pair) (obj : Bool) : List Pair × Bool × Bool :=
  let tracks := clusterTracks c
  let n := tracks.length
  if n ≤ 512 ∧ (clusterObs c).length ≤ 512 then
    let iter := s.fld 0x60010 19 0
    let a := Auction.run (iter + n) ⟨[], [], tracks, 0⟩ c n (s.trkGate obj) iter
    let won := c.filter fun p => a.owner.contains (p.obs, p.entry)
    (greedy (c.filter fun p => a.free.contains p.entry) won, false, !a.free.isEmpty)
  else (greedy c [], true, false)

/-- Assignment in recovery (R373). -/
def State.solveAll (s : State) (obs : List (Nat × Obs)) (l : List Pair) : State × List Pair :=
  (clustersOf l).foldl (fun r c =>
    let obj := match c with
      | p :: _ => match obs.find? fun o => o.1 == p.obs with | some o => o.2.obj | none => false
      | [] => false
    let x := s.solveCluster c obj
    let s1 := if x.2.1 then r.1.bump 0x60054 else r.1
    let s2 := if x.2.2 then s1.bump 0x60058 else s1
    (s2, r.2 ++ x.1)) (s, [])

/-! ## Update, life, birth (R367 to R371) -/

/-- A U0.8 gain. -/
def gain8 (n : Nat) : Word := fRatio n 256

/-- A hit (R367). -/
def State.hitTrack (s : State) (k : Nat) (t : Track) (o : Obs) : Track :=
  let p := t.predict o.stamp
  let rx := fSub o.pos.1 p.1
  let ry := fSub o.pos.2 p.2
  let al := gain8 (s.fld 0x6000C 15 8)
  let be := gain8 (s.fld 0x6000C 7 0)
  let dt := t.dt o.stamp
  let vel (v r : Word) : Word := if (fval dt).isZero then v else fAdd v (fDiv (fMul be r) dt)
  { t with
    x := fAdd p.1 (fMul al rx), y := fAdd p.2 (fMul al ry), vx := vel t.vx rx, vy := vel t.vy ry
    tlast := o.stamp, desc := o.desc, port := if t.obj then o.port else t.port
    extent := if t.obj then fRatio o.extentMm 1000 else t.extent
    hits := min 255 (t.hits + 1), miss := 0, hist := (t.hist <<< 1) ||| 1, lastHit := stepIdx k }

/-- Is an unassigned track held? (R368) -/
def State.heldTrack (s : State) (t : Track) : Bool := !t.obj && ((s.port t.port).mode != .active || s.portBlind t.port)

/-- The update phase for one track. -/
def State.updTrack (s : State) (k : Nat) (obs : List (Nat × Obs)) (asg : List Pair) (e : Nat) (t : Track) : Track :=
  match asg.find? fun p => p.entry == e with
  | some p => match obs.find? fun o => o.1 == p.obs with
    | some o => s.hitTrack k t o.2
    | none => t
  | none => if s.heldTrack t then t else { t with miss := min 255 (t.miss + 1), hist := t.hist <<< 1 }

/-- Does a position lie outside the grid of R339? -/
def State.outsideGrid (s : State) (x y : Word) : Bool :=
  !((fval x).isFinite && (fval y).isFinite) || (s.gridCell ⟨x, y, 0⟩).isNone

/-- Does a position lie outside a port's rectified image? (R107) -/
def State.outsideImage (s : State) (p : Fin 16) (x y : Word) : Bool :=
  let w := s.calWord p 0
  !((fval x).isFinite && (fval y).isFinite) || decide ((fval x).floor < 0 ∨ (fval y).floor < 0) ||
    decide ((bitsOf w 10 0 : Int) < (fval x).floor) || decide ((bitsOf w 26 16 : Int) < (fval y).floor)

/-- Set bits among the low `m` of a history. -/
def histCount (h : Word) (m : Nat) : Nat := ((List.range m).filter fun i => h.getLsbD i).length

/-- Confirmation and deletion of one track (R369): the track as it stands, and why it goes: 0 misses, 1 the grid, 2 the image. -/
def State.judgeTrack (s : State) (te : Nat) (t : Track) : Track × Option Nat :=
  let life := s.reg 0x60008
  let t1 := if t.state = .new ∧ 2 ≤ t.hits then { t with state := .tentative } else t
  let t2 := if t1.state = .tentative ∧ bitsOf life.toNat 5 0 ≤ histCount t1.hist (bitsOf life.toNat 13 8) then { t1 with state := .confirmed } else t1
  let limit := if t2.state = .confirmed then bitsOf life.toNat 31 24 else bitsOf life.toNat 23 16
  let p := t2.predict te
  if limit ≤ t2.miss then (t2, some 0)
  else if t2.obj then (t2, if s.outsideGrid p.1 p.2 then some 1 else none)
  else (t2, if s.outsideImage t2.port p.1 p.2 then some 2 else none)

/-- Order of births (R370): objects first, then descending SCORE, then ascending number. -/
def bornBefore (a b : Nat × Obs) : Bool :=
  if a.2.obj != b.2.obj then a.2.obj
  else if a.2.score ≠ b.2.score then decide (b.2.score < a.2.score) else decide (a.1 < b.1)

def insertBirth (x : Nat × Obs) (l : List (Nat × Obs)) : List (Nat × Obs) :=
  match l with
  | [] => [x]
  | y :: t => if bornBefore x y then x :: y :: t else y :: insertBirth x t

/-- Valid entries of the table. -/
def Tracker.valid (t : Tracker) : List (Nat × Track) := t.table.filter fun kv => kv.2.valid

/-- The lowest free entry. -/
def Tracker.freeEntry (t : Tracker) : Option Nat :=
  (List.range 32768).find? fun e => !(t.table.any fun kv => kv.1 == e && kv.2.valid)

/-- The counter after an identifier: 0 is skipped, and the wrap remembered (R357). -/
def nextId (id : Word) : Word × Bool := if id + 1 = 0 then (1, true) else (id + 1, false)

/-- The identifier the next birth takes: from the first wrap on, none that a valid track holds (R357). -/
def findId (fuel : Nat) (held : List Word) (id : Word) (wrapped : Bool) : Word × Bool :=
  match fuel with
  | 0 => (id, wrapped)
  | n + 1 =>
    if wrapped && held.contains id then findId n held (nextId id).1 true else (id, wrapped)

/-- An FP16 pattern in binary32. -/
def half32 (v : BitVec 16) : Word := f32 (fDecode fp16 v.toNat)

/-- A NEW track from an observation (R370). -/
def newTrack (k : Nat) (id : Word) (o : Obs) : Track :=
  let v : Word × Word := match o.flow with
    | some (vx, vy) => if o.obj then (0, 0) else (half32 vx, half32 vy)
    | none => (0, 0)
  { valid := true, obj := o.obj, state := .new, port := o.port, cls := if o.obj then o.cls else 0, miss := 0, hits := 1
    id := id, hist := 1, birth := stepIdx k, lastHit := stepIdx k, extent := if o.obj then fRatio o.extentMm 1000 else 0
    x := o.pos.1, y := o.pos.2, vx := v.1, vy := v.2, desc := o.desc, tlast := o.stamp }

/-- One birth, or its refusal (R370, R371). -/
def State.birth (s : State) (k : Nat) (o : Obs) : State :=
  match s.trk.freeEntry with
  | none => s.bump 0x60044
  | some e =>
    let i := findId 32769 (s.trk.valid.map fun kv => kv.2.id) s.trk.idCtr s.trk.wrapped
    let n := nextId i.1
    let trk := { s.trk with
      table := assocPut s.trk.table e (newTrack k i.1 o), idCtr := n.1, wrapped := i.2 || n.2 }
    ({ s with trk := trk }).bump 0x60040

/-! ## Records (R359, R376) -/

/-- STATE as the entry encodes it (R356). -/
def TrackState.code : TrackState → Nat
  | .new => 0
  | .tentative => 1
  | .confirmed => 2

/-- Two words in one. -/
def pack2 (lo hi : Word) : DWord := BitVec.ofNat 64 (hi.toNat * 2 ^ 32 + lo.toNat)

/-- p0 of a TRACK or TRACK_END record. -/
def trackHead (t : Track) (hit : Bool) : DWord :=
  BitVec.ofNat 64 (t.id.toNat * 2 ^ 32 + t.state.code * 2 ^ 30 + bitOf t.obj * 2 ^ 29 + bitOf hit * 2 ^ 28 +
    t.port.val * 2 ^ 24 + t.cls.toNat * 2 ^ 16 + t.hits * 2 ^ 8 + t.miss)

/-- A TRACK record of step k, which ended at `te` (R52, R359). -/
def trackRecord (k te : Nat) (t : Track) (hit : Bool) : List DWord :=
  let p := t.predict te
  recordOf 0x13 (stepIdx k) te [trackHead t hit, pack2 p.1 p.2, pack2 t.vx t.vy, pack2 t.extent t.birth, t.desc]

/-- A TRACK_END record of step k, which ended at `te`; `why` is 0 MISS, 1 left grid, 2 left image. -/
def trackEnd (k te : Nat) (t : Track) (why : Nat) (hit : Bool) : List DWord :=
  recordOf 0x14 (stepIdx k) te [trackHead t hit, 0, 0, pack2 (BitVec.ofNat 32 why) t.birth, t.desc]

/-- A track after an association: its entry, whether it was hit, and why it goes if it does. -/
structure Judged where
  entry : Nat
  track : Track
  hit : Bool
  why : Option Nat
  deriving DecidableEq, Repr

/-- A record to write: the identifier that orders it, its routed type, its words. -/
structure TrackRec where
  id : Word
  route : Nat
  words : List DWord
  deriving DecidableEq, Repr

/-- Insert by identifier. -/
def insertById (x : TrackRec) (l : List TrackRec) : List TrackRec :=
  match l with
  | [] => [x]
  | y :: t => if x.id.toNat < y.id.toNat then x :: y :: t else y :: insertById x t

/-- Is a TRACK record written for a track? (R376) -/
def State.emits (s : State) (t : Track) (hit : Bool) : Bool :=
  if t.state = .confirmed then hit || s.bit 0x60018 1 else s.bit 0x60018 0

/-! ## One association (R358, R360, R372) -/

/-- Observations of a step. -/
def State.obsOf (s : State) (k : Nat) : List Obs := assocGet s.trk.obs [] k

/-- Forget the observations of a step. -/
def State.dropObs (s : State) (k : Nat) : State := { s with trk := { s.trk with obs := assocErase s.trk.obs k } }

/-- The record a judged track gives (R376). -/
def State.recordFor (s : State) (k te : Nat) (j : Judged) : Option TrackRec :=
  match j.why with
  | none => if s.emits j.track j.hit then some ⟨j.track.id, 3, trackRecord k te j.track j.hit⟩ else none
  | some why => if j.track.state = .confirmed then some ⟨j.track.id, 4, trackEnd k te j.track why j.hit⟩ else none

/-- Update and judgement of one entry (R367 to R369). -/
def State.judge (s : State) (k te : Nat) (obs : List (Nat × Obs)) (asg : List Pair) (e : Nat) (t : Track) : Judged :=
  let x := s.judgeTrack te (s.updTrack k obs asg e t)
  ⟨e, x.1, asg.any fun p => p.entry == e, x.2⟩

/-- The assignment of the candidate pairs: greedy, or exact in recovery (R366, R373). -/
def State.assign (s : State) (obs : List (Nat × Obs)) (pairs : List Pair) (recover : Bool) : State × List Pair :=
  if recover then s.solveAll obs pairs else (s, greedy pairs [])

/-- The judged tracks in the table, deletions counted. -/
def State.putJudged (s : State) (l : List Judged) : State :=
  ({ s with trk := { s.trk with
      table := l.foldl (fun m (j : Judged) => assocPut m j.entry { j.track with valid := j.why.isNone }) s.trk.table } }).bump
    0x60048 (l.filter fun j : Judged => j.why.isSome).length

/-- The association of step k, which ended at `te`, on the table as it stands, every phase in order (R358). -/
def State.associate (s : State) (k te : Nat) (recover : Bool) : State :=
  let obs := numbered (s.obsOf k)
  let tracks := s.trk.valid
  let cand := obs.map fun o => s.pairsOf tracks o.1 o.2
  let s1 := (s.bump 0x60050 (cand.filter fun l => decide (8 < l.length)).length).ticks (32768 * 8192)
  let r := s1.assign obs (cand.map fun l => l.take 8).flatten recover
  let judged := tracks.map fun kv => s.judge k te obs r.2 kv.1 kv.2
  let s2 := r.1.putJudged judged
  let fresh := (obs.filter fun o => !r.2.any fun p => p.obs == o.1).foldl (fun l o => insertBirth o l) []
  let s3 := s2.each fresh fun s o => s.birth k o.2
  let born : List Judged := (s3.trk.valid.filter fun kv =>
    !(judged.any fun j => j.entry == kv.1 && j.why.isNone)).map fun kv => ⟨kv.1, kv.2, true, none⟩
  let recs := ((judged ++ born).filterMap fun j => s.recordFor k te j).foldl (fun l x => insertById x l) []
  (s3.each recs fun s x => s.routed x.route x.words).dropObs k

/-- Steps that lie too far back are discarded, each an entry into recovery (R360, R372): the observations dropped, and the steps left. -/
def State.discardOld (s : State) (l : List (Nat × Nat)) : State × List (Nat × Nat) :=
  match l with
  | [] => (s, [])
  | k :: t =>
    if s.step.running && decide (k.1 + 8 < s.step.k) then
      (((s.bump 0x6004C (s.obsOf k.1).length).dropObs k.1).enterRecovery).discardOld t
    else (s, k :: t)

/-- An uncorrectable word of the Track Table: a valid entry, whichever it lies in, holds open values from here on (R497, R504; DESIGN CHOICE, log entry 65). -/
def State.trackEcc (s : State) (e : Ecc) : State :=
  match e with
  | .uncorrectable =>
    let l := s.trk.valid
    let f (i : Nat) : Word := (Config.freeBits (s.free + i)).setWidth 32
    match l[Config.freeOrder s.free % l.length]? with
    | some (n, t) =>
      let y := { t with
        x := f 0, y := f 1, vx := f 2, vy := f 3, extent := f 4, hist := f 5, birth := f 6, lastHit := f 7
        desc := (Config.freeBits (s.free + 8)).setWidth 64, tlast := (f 9).toNat }
      (({ s with trk := { s.trk with table := assocPut s.trk.table n y } }).ticks 10).fusionRead e
    | none => s.fusionRead e
  | _ => s.fusionRead e

end Sys2Proof.Machine
end

