-- ==== Sys2Proof/Machine/Zones.lean ====
section
/-! DEFINITION. What Fusion does at the close of a ridge (12): disputes, zone states, ZONE records and pins, decay, the scrolling grid, EGO and GRID TILE records; the privileged queues (R151 to R153). -/

namespace Sys2Proof.Machine

/-! ## Sector evidence (R343 to R347) -/

/-- Bit r of word 64·n + s of a sector table. -/
def mapBit (t : Assoc Word) (n sec bin : Nat) : Bool := (assocGet t 0 (64 * n + sec)).getLsbD bin

/-- The ZONE and COV banks of the evaluation: those active when the ridge became due (R344). -/
def State.zoneBank (s : State) : FusTables := s.fus.dueBank.getD s.fus.active

/-- Does sensor n view a sector cell? -/
def State.covers (s : State) (n : Fin 16) (c : Nat × Nat) : Bool := mapBit s.zoneBank.cov n.val c.1 c.2

/-- Is a sector cell part of zone z? -/
def State.inZone (s : State) (z : Fin 16) (c : Nat × Nat) : Bool := mapBit s.zoneBank.zone z.val c.1 c.2

/-- Is a sensor usable? (R345) -/
def State.usable (s : State) (n : Fin 16) : Bool :=
  let p := s.port n
  p.mode == .active && !p.excluded && !p.suspect && !p.cmp && !(s.fus.sensors[n.val]).suspect && !s.portBlind n

/-- OCC and FREE of a sensor in a sector cell. -/
def State.occ (s : State) (n : Fin 16) (c : Nat × Nat) : Nat := s.accOf n.val c.1 c.2 true
def State.freeEv (s : State) (n : Fin 16) (c : Nat × Nat) : Nat := s.accOf n.val c.1 c.2 false

/-- `FUS_SEV.OCC_T` and `FREE_T`. -/
def State.occT (s : State) : Nat := s.fld 0x50004 7 0
def State.freeT (s : State) : Nat := s.fld 0x50004 15 8

/-- Sector cells with OCC ≥ OCC_T from some sensor. -/
def State.strongCells (s : State) : List (Nat × Nat) :=
  distinct ((s.fus.acc.filter fun kv => kv.1 % 2 == 1 && decide (s.occT ≤ kv.2)).map fun kv => (kv.1 / 64 % 64, kv.1 / 2 % 32))

/-- Sensors with OCC ≥ OCC_T in a cell. -/
def State.strongOf (s : State) (c : Nat × Nat) : List (Fin 16) := (List.finRange 16).filter fun n => decide (s.occT ≤ s.occ n c)

/-- Sensors whose free evidence disputes a cell (R346). -/
def State.freeOf (s : State) (c : Nat × Nat) : List (Fin 16) :=
  (List.finRange 16).filter fun n => s.usable n && s.covers n c && decide (s.freeT ≤ s.freeEv n c)

/-- Is a cell disputed? (R346) -/
def State.disputed (s : State) (c : Nat × Nat) : Bool :=
  (s.strongOf c).any fun a => s.covers a c && (s.freeOf c).any fun b => b != a

/-- The disputed cells. -/
def State.disputes (s : State) : List (Nat × Nat) := s.strongCells.filter s.disputed

/-- The sensor with the largest value, the lowest number on equal values. -/
def largest (l : List (Fin 16)) (f : Fin 16 → Nat) : Option (Fin 16) :=
  match l with
  | [] => none
  | n :: t => match largest t f with
    | some m => if f n < f m then some m else some n
    | none => some n

/-- The weaker sensor of a disputed cell (R347); none where no sensor other than A disputes. -/
def State.weaker (s : State) (c : Nat × Nat) : Option (Fin 16) :=
  match largest ((List.finRange 16).filter fun n => s.covers n c) fun n => s.occ n c with
  | none => none
  | some a => (largest ((s.freeOf c).filter fun n => n != a) fun n => s.freeEv n c).map fun b =>
      if s.occ a c < s.freeEv b c then a else b

/-- One sensor after an evaluation: DRUN counts or clears, SUSPECT at 16 with its notice (R347). -/
def State.judgeSensor (s : State) (weak : List (Fin 16)) (n : Fin 16) : State :=
  let x := s.fus.sensors[n.val]
  let run := if weak.contains n then min 31 (x.drun + 1) else 0
  let y : Sensor := { x with drun := run, suspect := x.suspect || run == 16 }
  let s1 := { s with fus := { s.fus with sensors := s.fus.sensors.set n.val y n.isLt } }
  if run = 16 then s1.notice 0x04 (BitVec.ofNat 64 (16 * 256 + n.val)) 0 else s1

/-- The centre of a grid cell in the world, in the plane z = 0. -/
def State.gridCentre (s : State) (cell : Nat) : Vec3 :=
  ⟨fRatio (2 * (s.fus.gox + Int.ofNat (cell % 512)) + 1) 40, fRatio (2 * (s.fus.goy + Int.ofNat (cell / 512)) + 1) 40, 0⟩

/-- DISPUTED in the grid cells whose centre lies in a disputed sector cell (R346). -/
def State.flagDisputed (s : State) (k te : Nat) (l : List (Nat × Nat)) : State :=
  if l.isEmpty then s
  else s.each ((List.range (512 * 512)).filter fun cell => match s.sectorAt te (s.gridCentre cell) with
      | some c => l.contains c
      | none => false) fun s cell => s.setCellMeta cell (withBits (s.cellMetaOf cell k) 24 24 1)

/-! ## Zone states (R349, R350) -/

/-- Sector cells that the grid shows occupied: the channel OCC_CH of a cell whose centre lies there. -/
def State.gridCells (s : State) (te : Nat) : List (Nat × Nat) :=
  distinct ((s.fus.grid.filter fun kv => kv.1 % 16 == s.fld 0x50000 19 16 &&
      decide ((s.fld 0x50008 7 0 : Int) ≤ signedOf 8 kv.2.toNat)).filterMap fun kv => s.sectorAt te (s.gridCentre (kv.1 / 16)))

/-- Sector cells that hold a confirmed object track predicted to the step end (R361). -/
def State.trackCells (s : State) (te : Nat) : List (Nat × Nat) :=
  distinct ((s.trk.valid.filter fun kv => kv.2.obj && kv.2.state == .confirmed).filterMap fun kv =>
    let p := kv.2.predict te
    s.sectorAt te ⟨p.1, p.2, 0⟩)

/-- What the three levels show of a step: occupied sector, grid and track cells, and the disputed ones. -/
structure Evidence where
  sector : List (Nat × Nat)
  grid : List (Nat × Nat)
  tracks : List (Nat × Nat)
  disputed : List (Nat × Nat)
  deriving DecidableEq, Repr

def State.evidence (s : State) (te : Nat) : Evidence := ⟨s.strongCells, s.gridCells te, s.trackCells te, s.disputes⟩

/-- The cells of a zone. -/
def State.zoneCells (s : State) (z : Fin 16) : List (Nat × Nat) :=
  ((List.range 64).flatMap fun sec => (List.range 32).map fun bin => (sec, bin)).filter (s.inZone z)

/-- Is some cell of a zone covered by fewer than MINCOV usable sensors? -/
def State.zoneBlind (s : State) (z : Fin 16) (us : List (Fin 16)) : Bool :=
  (s.zoneCells z).any fun c => decide ((us.filter fun n => s.covers n c).length < s.fld 0x50008 9 8)

/-- The state of a zone: the first that applies (R349). -/
def State.zoneState (s : State) (z : Fin 16) (e : Evidence) (us : List (Fin 16)) : ZoneState :=
  if (e.sector.any fun c => s.inZone z c && !e.disputed.contains c) || e.grid.any (s.inZone z) || e.tracks.any (s.inZone z) then .intrusion
  else if e.disputed.any (s.inZone z) then .disputed
  else if s.zoneBlind z us then .blind
  else .clear

/-- Codes of the ZONE record. -/
def ZoneState.code : ZoneState → Nat
  | .clear => 0
  | .intrusion => 1
  | .disputed => 2
  | .blind => 3

/-- Cells of a zone that are occupied and not disputed. -/
def State.zoneOcc (s : State) (z : Fin 16) (e : Evidence) : List (Nat × Nat) :=
  (distinct (e.sector ++ e.grid ++ e.tracks)).filter fun c => s.inZone z c && !e.disputed.contains c

/-- A set of sensors as a mask. -/
def sensorMask (l : List (Fin 16)) : Nat := l.foldl (fun m n => m + 2 ^ n.val) 0

/-- The payload of a ZONE record (R350). -/
def State.zonePayload (s : State) (z : Fin 16) (e : Evidence) (us : List (Fin 16)) (prev st : ZoneState) : List DWord :=
  let disp := e.disputed.filter (s.inZone z)
  let occ := s.zoneOcc z e
  let near := (leastOf ((occ ++ disp).map fun c => c.2)).getD 0x3F
  let osns := (List.finRange 16).filter fun n => e.sector.any fun c => s.inZone z c && (s.strongOf c).contains n
  let view := us.filter fun n => (s.zoneCells z).any (s.covers n)
  let levels := bitOf (e.sector.any (s.inZone z)) * 16 + bitOf (e.grid.any (s.inZone z)) * 32 + bitOf (e.tracks.any (s.inZone z)) * 64
  [BitVec.ofNat 64 (near * 2 ^ 48 + sensorMask osns * 2 ^ 32 + sensorMask view * 2 ^ 16 + z.val * 256 + levels + prev.code * 4 + st.code),
   BitVec.ofNat 64 (disp.length * 2 ^ 16 + occ.length)]

/-! ## Privileged queues (R151 to R153) -/

/-- Level of a privileged queue. -/
def State.pqLevel (s : State) (z : Fin 16) : Nat := s.fld (0xB0400 + 4 * z.val) 8 0

/-- One word into a privileged queue: lost where it is full; a crossing of the level is counted and posted, and asserts `ATTN_n`. -/
def State.pushPqWord (s : State) (z : Fin 16) (w : FifoWord) : State :=
  let q := s.pq[z.val]
  if 256 ≤ q.length then ({ s with pqOvr := s.pqOvr ||| BitVec.ofNat 16 (2 ^ z.val) }).bump 0xB0480
  else
    let s1 := { s with pq := s.pq.set z.val (q ++ [w]) z.isLt }
    if q.length + 1 = s.pqLevel z then
      let s2 := s1.bump 0xB0484
      let s3 := s2.notice 0x02 (BitVec.ofNat 64 ((q.length + 1) * 2 ^ 32 + s.pqLevel z * 2 ^ 16 + z.val)) (BitVec.ofNat 64 (s2.ctr 0xB0484).toNat)
      { s3 with pins := { s3.pins with attn := true } }
    else s1

/-- A record as the words of one queue item (R128). -/
def asFifo (l : List DWord) : List FifoWord := l.mapIdx fun i w => ⟨w, i == 0, false⟩

/-- Records of four words at the front of a list. -/
def fours (fuel : Nat) (l : List DWord) : List (List DWord) :=
  match fuel, l with
  | n + 1, a :: b :: c :: d :: t => [a, b, c, d] :: fours n t
  | _, _ => []

/-- Is some host interface there to drain a privileged queue? -/
def State.hostLive (s : State) : Bool := (List.finRange 2).any fun h => s.bit (hifR h 0) 0 && s.linkTakes h

/-- The words of a privileged queue as the host interface is given them; `bad` are the places, by queue, of words that fail their parity (R130; log entry 61). -/
def State.pqRead (s : State) (bad : List (Fin 16 × Nat)) (z : Fin 16) : List DWord :=
  ((s.ticks (256 * z.val)).poisonWords s.pq[z.val] ((bad.filter fun b => b.1 == z).map fun b => b.2)).map fun w => w.data

/-- The host interface drains the privileged queues into the rings that `HIF_ROUTE0` names; they keep their words while no host port is live (log entry 10). -/
def State.drainPq (s : State) (bad : List (Fin 16 × Nat)) : State :=
  if s.hostLive then
    let s1 := { s with pq := Vector.replicate 16 [] }
    (s1.each (List.finRange 16) fun t z => t.each (fours 64 (s.pqRead bad z)) fun t r => t.routed 0 r).ticks 4096
  else s

/-! ## The close of a ridge in Fusion -/

/-- One enabled zone: its state, its record; a disabled one has no state (R349, R350). -/
def State.closeZone (s : State) (k : Nat) (e : Evidence) (us : List (Fin 16)) (z : Fin 16) : State :=
  let old := s.fus.zones[z.val]
  if s.bit 0x50008 (16 + z.val) then
    let st := s.zoneState z e us
    let y : Zone := ⟨st, true, (s.zoneOcc z e).length⟩
    let rec' := recordOf 0x10 (stepIdx k) (s.endOf k) (s.zonePayload z e us old.state st)
    ({ s with fus := { s.fus with zones := s.fus.zones.set z.val y z.isLt } }).each (asFifo rec') fun s w => s.pushPqWord z w
  else { s with fus := { s.fus with zones := s.fus.zones.set z.val { old with en := false } z.isLt } }

/-- The levels the zone pins take after a close (R351). -/
def State.zoneLevels (s : State) : BitVec 16 :=
  if s.step.running && s.pins.faultA && decide (s.pwr.state.toNat < 2) then
    BitVec.ofNat 16 (sensorMask ((List.finRange 16).filter fun z =>
      s.bit 0x50008 (16 + z.val) && (s.fus.zones[z.val]).en && (s.fus.zones[z.val]).state == .clear))
  else 0

/-- Set the zone pins. -/
def State.setZonePins (s : State) (v : BitVec 16) : State := { s with pins := { s.pins with zone := v } }

/-- Disputes counted and flagged, sensors judged (R346, R347). -/
def State.closeDisputes (s : State) (k te : Nat) (us : List (Fin 16)) : State :=
  let d := s.disputes
  let weak := d.filterMap s.weaker
  let s1 := ((s.bump 0x50100 d.length).flagDisputed k te d).each (List.finRange 16) (State.judgeSensor · weak)
  { s1 with fus := { s1.fus with
      sensors := Vector.ofFn fun n : Fin 16 => { (s1.fus.sensors[n.val]) with usable := us.contains n } } }

/-- The zone evaluation of step k (R344 to R351); a disagreement of the copies leaves no records and the pins low (R501), as does an abandoned one (R504). -/
def State.evaluateZones (s : State) (k : Nat) (mismatch : Bool) : State :=
  let te := s.endOf k
  let s0 := { s with fus := { s.fus with stale := false, abandoned := false, evalStep := stepIdx k } }
  if s.fus.abandoned then s0.dropZones
  else
    let us := (List.finRange 16).filter s.usable
    let e := s.evidence te
    let s1 := s0.closeDisputes k te us
    if mismatch then (s1.deviceFault 0x25 5 0 0 (stepIdx k) false).dropZones
    else
      let s2 := s1.each (List.finRange 16) fun t z => t.closeZone k e us z
      s2.setZonePins s2.zoneLevels

/-- Every sector accumulator shifted right by DECAY (R343). -/
def State.decaySectors (s : State) : State :=
  let d := s.fld 0x50004 18 16
  { s with fus := { s.fus with acc := s.fus.acc.filterMap fun kv => if kv.2 / 2 ^ d = 0 then none else some (kv.1, kv.2 / 2 ^ d) } }

/-- The place of a grid cell after the origin has moved. -/
def movedCell (dx dy : Int) (cell : Nat) : Option Nat :=
  let i := Int.ofNat (cell % 512) - dx
  let j := Int.ofNat (cell / 512) - dy
  if 0 ≤ i ∧ i < 512 ∧ 0 ≤ j ∧ j < 512 then some (512 * j.toNat + i.toNat) else none

/-- A memory of `w` bytes a cell after the origin has moved. -/
def movedMem (m : Memory) (w : Nat) (dx dy : Int) : Memory :=
  m.filterMap fun kv => (movedCell dx dy (kv.1 / w)).map fun c => (c * w + kv.1 % w, kv.2)

/-- An origin coordinate: round(p / 0.05) − 256; of a coordinate without a finite value, an open one (log entry 29). -/
def originOf (k : Nat) (w : Word) : Int :=
  let v := (fval w).mul (fOfInt 20)
  if v.isFinite then nearestInt k v - 256 else signedOf 32 k

/-- The grid follows the position at the step end (R339). -/
def State.scrollGrid (s : State) (te : Nat) : State :=
  let p := (s.pose te).p
  let gx := originOf (Config.freeOrder s.free) p.x
  let gy := originOf (Config.freeOrder (s.free + 1)) p.y
  let dx := gx - s.fus.gox
  let dy := gy - s.fus.goy
  { s with fus := { s.fus with
      gox := gx, goy := gy, grid := movedMem s.fus.grid 16 dx dy, cellMeta := movedMem s.fus.cellMeta 4 dx dy
      touched := s.fus.touched.filterMap (movedCell dx dy) } }

/-- The EGO record of step k (R333, R334, R416). -/
def State.egoRecord (s : State) (k : Nat) : List DWord :=
  let t := s.pose (s.endOf k)
  let m := s.motionAt (s.endOf k)
  let flags := bitOf s.ego.levelled + bitOf (!s.anySource) * 2 + bitOf s.ego.xstale * 4
  recordOf 0x11 (stepIdx k) (s.endOf k)
    [pack2 t.p.x t.p.y, pack2 t.p.z m.1.x, pack2 m.1.y m.1.z, pack2 m.2.x m.2.y, pack2 m.2.z t.q.w, pack2 t.q.x t.q.y,
     pack2 t.q.z (BitVec.ofNat 32 flags)]

/-- A GRID TILE record of step k. -/
def State.tileRecord (s : State) (k tile : Nat) : List DWord :=
  let col := tile % 16
  let row := tile / 16
  let cells := (List.range 32).flatMap fun r => (List.range 32).map fun c => 512 * (32 * row + r) + 32 * col + c
  recordOf 0x12 (stepIdx k) (s.endOf k)
    ([pack2 (BitVec.ofInt 32 s.fus.gox) (BitVec.ofInt 32 s.fus.goy), BitVec.ofNat 64 (row * 16 + col)] ++
     (cells.flatMap fun c => [BitVec.ofNat 64 (memNat s.fus.grid (16 * c) 8), BitVec.ofNat 64 (memNat s.fus.grid (16 * c + 8) 8)]) ++
     ((List.range 512).map fun i =>
       let c := cells.getD (2 * i) 0
       BitVec.ofNat 64 (memNat s.fus.cellMeta (4 * c) 4 + 2 ^ 32 * memNat s.fus.cellMeta (4 * (c + 1)) 4)))

/-- The tile of a grid cell. -/
def tileOf (cell : Nat) : Nat := cell / 512 / 32 * 16 + cell % 512 / 32

/-- GRID TILE records of the tiles touched since the last emission, in an order the spec does not give. -/
def State.emitTiles (s : State) (k : Nat) : State :=
  let g := s.fld 0x50000 27 24
  if g ≠ 0 ∧ k % g = 0 then
    let tiles := distinct (s.fus.touched.map tileOf)
    let s1 := s.each (freeOrderOf tiles.length (Config.freeOrder (s.free + 2)) tiles) fun t i => t.routed 2 (s.tileRecord k i)
    { s1 with fus := { s1.fus with touched := [] } }
  else s

/-- XSTALE of the ridge (R334). -/
def State.judgeHeld (s : State) (te : Nat) : State :=
  let h := s.poseHeld te
  let s1 := { s with ego := { s.ego with xstale := h } }
  if h then s1.bump 0x40508 else s1

/-- Everything Fusion does at the close of ridge k, in order; what it holds then is what the next step begins with (R23). -/
def State.closeFusion (s : State) (k : Nat) (mismatch : Bool) (bad : List (Fin 16 × Nat)) : State :=
  let te := s.endOf k
  let s1 := ((s.evaluateZones k mismatch).decaySectors.judgeHeld te).scrollGrid te
  let s2 := (s1.routed 1 (s1.egoRecord k)).emitTiles k
  ((({ s2 with fus := { s2.fus with dueBank := none } }).ticks 3).drainPq bad).settleFusion

/-- `ATTN_DEASSERT` (R152): once no cause holds. -/
def execAttnDeassert (s : State) : Res :=
  .next (if s.attnCause then s else { s with pins := { s.pins with attn := false } })

/-- `ZONE_STALE_EXPIRY` (R352): no ridge has closed within the limit of the previous close, steps open or not. -/
def execZoneStaleExpiry (s : State) : Res :=
  .next (if s.clocked && s.step.closed.isSome && !s.fus.stale then
      (({ s with fus := { s.fus with stale := true } }).bump 0x50114).dropZones
    else s)

end Sys2Proof.Machine
end

