-- ==== Sys2Proof/Machine/Scene.lean ====
section
/-! DEFINITION. Scene Memory (14): tokens and their buckets, writing, token frames, retrieval by shares, partial lists and their merge. -/

namespace Sys2Proof.Machine

/-! ## Geometry (R379, R380) -/

def State.scmTile (s : State) : Nat := s.fld 0x70004 7 0
def State.scmTx (s : State) : Nat := s.fld 0x70004 11 8
def State.scmTy (s : State) : Nat := s.fld 0x70004 15 12
def State.scmCg (s : State) : Nat := s.fld 0x70004 20 16
def State.scmBt (s : State) : Nat := s.fld 0x70004 27 24

/-- BTOK, the tokens of a bucket. -/
def State.btok (s : State) : Nat := 2 ^ s.scmBt

/-- Bytes of the region. -/
def State.regionSize' (s : State) : Nat := 2 ^ s.scmTx * 2 ^ s.scmTy * s.scmCg * s.btok * 128

/-- The tile of a world coordinate: floor of it over 0.25·TILE m. -/
def State.tileCoord (s : State) (w : Word) : Int := ((fval w).mul (fOfInt 4)).floor / (s.scmTile : Int)

/-- The bucket of a tile and class group (R380). -/
def State.bucketAt (s : State) (bx by' : Int) (g : Nat) : Nat :=
  (bx % (2 ^ s.scmTx : Nat)).toNat + 2 ^ s.scmTx * ((by' % (2 ^ s.scmTy : Nat)).toNat + 2 ^ s.scmTy * g)

/-- The device address of a slot (R380). -/
def slotAddress (slot : Nat) : Nat := 0x80000000 + 128 * slot

/-- Is the region enabled? -/
def State.scmOn (s : State) : Bool := s.bit 0x70000 0

/-! ## Writing (R378, R383 to R386) -/

/-- The sixteen words of a token (R378). -/
def tokenWords (desc : List DWord) (stamp : Nat) (port : Fin 16) (score cls : Nat) (track : Word) (w : Vec3) (wseq : Word) : List DWord :=
  desc ++ [BitVec.ofNat 64 (stamp % 2 ^ 62),
    BitVec.ofNat 64 (port.val * 2 ^ 48 + score % 256 * 2 ^ 40 + cls % 256 * 2 ^ 32 + track.toNat),
    pack2 w.x w.y, pack2 w.z wseq]

/-- The words of a slot as they stand. -/
def State.slotWords (s : State) (slot : Nat) : List DWord :=
  (List.range 16).map fun i => BitVec.ofNat 64 (memNat s.scm.mem (128 * slot + 8 * i) 8)

/-- STAMP and WSEQ of a token. -/
def tokStamp (l : List DWord) : Nat := (l.getD 12 0).toNat % 2 ^ 62
def tokWseq (l : List DWord) : Word := BitVec.ofNat 32 ((l.getD 15 0).toNat / 2 ^ 32)

/-- Square of the distance of a track from a point, predicted to a stamp. -/
def trackDist (t : Track) (stamp : Nat) (w : Vec3) : FVal :=
  let p := t.predict stamp
  let dx := coordGap p.1 w.x 1
  let dy := coordGap p.2 w.y 1
  (dx.mul dx).add (dy.mul dy)

/-- The nearer of two linked tracks, the lower ID on equal distance. -/
def nearerTrack (stamp : Nat) (w : Vec3) (a b : Track) : Track :=
  let da := trackDist a stamp w
  let db := trackDist b stamp w
  if da.lt db then a else if db.lt da then b else if a.id.toNat ≤ b.id.toNat then a else b

/-- TRACK of a token without one (R384). -/
def State.linkTrack (s : State) (cls stamp : Nat) (w : Vec3) : Word :=
  if !s.bit 0x70008 31 then 0
  else
    let r := s.fld 0x70008 23 16
    let near := (s.trk.valid.map fun kv => kv.2).filter fun t => t.obj && t.state == .confirmed && t.cls.toNat == cls &&
      (trackDist t stamp w).isFinite && !(FVal.lt (fOfInt (r * r : Nat)) ((trackDist t stamp w).mul (fOfInt 400)))
    match near with
    | [] => 0
    | t :: l => (l.foldl (nearerTrack stamp w) t).id

/-- Write an accepted token into the next slot of its bucket (R385). -/
def State.writeToken (s : State) (cell : Fin 256) (step b score : Nat) (words : Word → List DWord) : State :=
  let n := assocGet s.scm.next 0 b
  let cnt := assocGet s.scm.count 0 b
  let slot := s.btok * b + n
  let w : List DWord := words s.scm.wctr
  let s1 : State := { s with scm := { s.scm with
    mem := memWriteBytes s.scm.mem (128 * slot) (w.flatMap fun (d : DWord) => natLe 8 d.toNat)
    next := assocSet s.scm.next 0 b ((n + 1) % s.btok), count := assocSet s.scm.count 0 b (min s.btok (cnt + 1))
    wctr := s.scm.wctr + 1, fresh := s.scm.fresh ++ [⟨cell, step, slot, score, s.scm.wctr, w⟩] } }
  let s2 := s1.bump 0x70040
  if s.btok ≤ cnt then s2.bump 0x70044 else s2

/-- Is a cell one whose PARTIAL items count: a retrieval cell that `SCM_RCL` names, or a sibling that serves one? (R383, R399) -/
def State.isRetrievalCell (s : State) (c : Fin 256) : Bool :=
  let cl := clutchOf c
  let r := cellOf cl ⟨s.fld 0x70014 19 16 % 16, Nat.mod_lt _ (by decide)⟩
  s.bit 0x70014 cl.val && (c == r || (s.hostedOf r).any fun h => h.sibling == c)

/-- Is an item a PARTIAL item of a retrieval cell? (R392) -/
def State.isPartial (s : State) (i : BridgeItem) : Bool :=
  itemKind i.words == 0xC && i.words.length == 1 + 2 * ((i.words.headD 0).toNat % 8) && s.isRetrievalCell i.cell

/-- A token item, judged and written (R383 to R386). -/
def State.takeToken (s : State) (i : BridgeItem) : State :=
  let l := i.words
  if itemKind l ≠ 8 ∨ l.length ≠ 15 then s.bump 0x70050
  else if !s.scmOn || s.scm.erasing || decide (s.fld 0x70008 15 0 ≤ assocGet s.scm.taken 0 i.step) then s.bump 0x70048
  else match s.placeItem l with
    | none => s.bump 0x7004C
    | some w =>
      let cls := bitsOf (itemWord l 0) 55 48
      let score := bitsOf (itemWord l 2) 39 32
      let given : Word := BitVec.ofNat 32 (itemWord l 2)
      let track := if given = 0 then s.linkTrack cls (itemStamp l) w else given
      let b := s.bucketAt (s.tileCoord w.x) (s.tileCoord w.y) (cls % s.scmCg)
      let s1 := { s with scm := { s.scm with taken := assocSet s.scm.taken 0 i.step (assocGet s.scm.taken 0 i.step + 1) } }
      s1.writeToken i.cell i.step b score fun q => tokenWords (l.drop 3) (itemStamp l) (itemPort l) score cls track w q

/-- `TOKEN_ITEM` (R383 to R386): the next item of Scene Memory's inbox, other than a PARTIAL item of a retrieval cell. -/
def execTokenItem (s : State) : Res :=
  .next (match s.scm.inbox with
    | [] => s
    | i :: t =>
      if !s.clocked || s.isPartial i then s
      else (({ s with scm := { s.scm with inbox := t } }).takeToken i).tick)

/-! ## Token frames (R387, R389) -/

/-- Insert by descending SCORE, then ascending WSEQ. -/
def insertFresh (x : FreshToken) (l : List FreshToken) : List FreshToken :=
  match l with
  | [] => [x]
  | y :: t =>
    if y.score < x.score ∨ (y.score = x.score ∧ x.wseq.toNat < y.wseq.toNat) then x :: y :: t else y :: insertFresh x t

/-- Insert by ascending WSEQ. -/
def insertWseq (x : FreshToken) (l : List FreshToken) : List FreshToken :=
  match l with
  | [] => [x]
  | y :: t => if x.wseq.toNat < y.wseq.toNat then x :: y :: t else y :: insertWseq x t

/-- The TOKEN FRAME of ridge k; `lost` are slots whose token cannot be read (R552). -/
def State.tokenFrame (s : State) (k : Nat) (lost : List Nat) : State :=
  let l := s.scm.fresh.filter fun x => !lost.contains x.slot
  let fmax := s.fld 0x70010 12 0
  let sorted := l.foldl (fun a x => insertFresh x a) []
  let kept := (sorted.take fmax).foldl (fun a x => insertWseq x a) []
  let skipped := l.length - kept.length
  let p0 := min 65535 skipped * 2 ^ 48 + kept.length * 2 ^ 32 + (s.scm.frameFirst.getD k) % 2 ^ 32
  let s1 := { s with scm := { s.scm with fresh := [], frameFirst := some (k + 1) } }
  let s2 := (s1.bump 0x70054 skipped).bump 0x80044 (s.scm.fresh.length - l.length)
  s2.toTokenRing (recordOf 0x15 (stepIdx k) (s.endOf k) ([BitVec.ofNat 64 p0, 0] ++ kept.flatMap fun x => x.words))

/-! ## Retrieval (R391 to R399) -/

/-- Is a retrieval open: not ended? -/
def Retrieval.isOpen (r : Retrieval) : Bool := r.ended.isNone

/-- Replace the retrievals. -/
def State.setRets (s : State) (l : List Retrieval) : State := { s with scm := { s.scm with retrievals := l } }

/-- The lowest and highest tiles of a search square. -/
def State.square (s : State) (r : Retrieval) : (Int × Int) × (Int × Int) :=
  let cx := s.tileCoord r.cx
  let cy := s.tileCoord r.cy
  ((cx - r.radius, cy - r.radius), (cx + r.radius, cy + r.radius))

/-- The buckets of a search, in ascending order, each once (R395). -/
def State.searchBuckets (s : State) (r : Retrieval) : List Nat :=
  let q := s.square r
  let side := 2 * r.radius + 1
  sortNat (distinct ((List.range side).flatMap fun i => (List.range side).flatMap fun j =>
    ((List.range s.scmCg).filter fun g => r.gmask.getLsbD g).map fun g => s.bucketAt (q.1.1 + Int.ofNat i) (q.1.2 + Int.ofNat j) g))

/-- The retrieval clutches of `SCM_RCL`. -/
def State.retrievalClutches (s : State) : List (Fin 16) := (List.finRange 16).filter fun c => s.bit 0x70014 c.val

/-- Every `n`-th element of a list from place `i` on. -/
def everyNth {α : Type} (l : List α) (i n : Nat) : List α :=
  ((List.range l.length).zip l).filterMap fun x => if x.1 % n = i then some x.2 else none

/-- The shares of a search: its buckets dealt round-robin to the retrieval clutches (R397). -/
def State.dealBuckets (s : State) (r : Retrieval) : List Share :=
  let cls := s.retrievalClutches
  let b := s.searchBuckets r
  (((List.range cls.length).zip cls).map fun x =>
    Share.restart ⟨x.2, everyNth b x.1 cls.length, 0, [], [], [], none⟩).filter fun h => !h.buckets.isEmpty

/-- XSTAMP: stamps below it are expired (R388). -/
def State.xstamp (s : State) : Nat :=
  let sec := s.fld 0x7000C 19 0
  if sec = 0 then 0 else s.endOf s.step.k - sec * 1000000

/-- The QUERY HEADER item of a share (R391). -/
def State.queryHeader (s : State) (r : Retrieval) (h : Share) : List DWord :=
  let q := s.square r
  let w (i : Int) : Word := BitVec.ofInt 32 i
  [BitVec.ofNat 64 (0xA * 2 ^ 60 + r.rid.toNat * 2 ^ 32 + r.k % 512 * 2 ^ 16 + h.buckets.length % 2 ^ 16),
   BitVec.ofNat 64 (s.scmBt * 2 ^ 56 + s.scmCg * 2 ^ 48 + r.gmask.toNat * 2 ^ 32 + (r.snap.getD 0).toNat),
   pack2 (w q.1.1) (w q.1.2), pack2 (w q.2.1) (w q.2.2), pack2 (fRatio s.scmTile 4) 0, BitVec.ofNat 64 s.xstamp]

/-- The QUERY DATA item (R391). -/
def queryData (q : List Byte) : List DWord := (List.range 12).map fun i => BitVec.ofNat 64 (leNat ((q.drop (8 * i)).take 8))

/-- The next item of a share's stream: its queue, its words, the slot it reads, and the share after it. -/
def State.nextShareItem (s : State) (r : Retrieval) (h : Share) : Option (Fin 256 × List DWord × Option Nat × Share) :=
  if h.stage = 0 then some (240, s.queryHeader r h, none, { h with stage := 1 })
  else if h.stage = 1 then some (240, queryData r.query, none, { h with stage := 2 })
  else match h.slots with
    | i :: t => some (241, s.slotWords i, some i, { h with slots := t })
    | [] => match h.todo with
      | b :: t =>
        let n := assocGet s.scm.count 0 b
        some (241, [BitVec.ofNat 64 (0xB * 2 ^ 60 + r.rid.toNat * 2 ^ 32 + b), BitVec.ofNat 64 n], none,
          { h with todo := t, slots := (List.range n).map fun i => s.btok * b + i })
      | [] => none

/-- Has a share items left to stream? -/
def Share.streaming (h : Share) : Bool := decide (h.stage < 2) || !h.slots.isEmpty || !h.todo.isEmpty

/-- Stream items of a share while its queues have room; a token that cannot be read arrives with open words and is counted (R391, R393, R552). -/
def State.streamShare (fuel : Nat) (s : State) (r : Retrieval) (h : Share) (lost : List Nat) : State × Share :=
  match fuel with
  | 0 => (s, h)
  | n + 1 =>
    match s.nextShareItem r h with
    | none => (s, h)
    | some (q, ws, slot, h1) =>
      let bad := match slot with | some i => lost.contains i | none => false
      let words := if bad then (List.range 16).map fun i => BitVec.ofNat 64 (Config.freeBits (s.free + i)).toNat else ws
      let c := cellOf h.clutch ⟨s.fld 0x70014 19 16 % 16, Nat.mod_lt _ (by decide)⟩
      match s.targets false c q words with
      | [] => (s, h)
      | (d, w) :: _ =>
        if !s.hasRoute d || s.linkHeld (.hub h.clutch) d q || s.admission d q w.length == .refused then (s, h)
        else
          let s1 := if bad then (s.ticks 16).bump 0x80044 else s
          (s1.landItem d q w).streamShare n r h1 lost

/-- Items a share may still have. -/
def State.shareFuel (s : State) (h : Share) : Nat := 2 + h.slots.length + h.todo.length * (1 + s.btok)

/-- Replace one share of a retrieval. -/
def putShare (l : List Share) (h : Share) : List Share := l.map fun x => if x.clutch = h.clutch then h else x

/-- Replace the first open retrieval of an identifier that satisfies `p`. -/
def putRet (l : List Retrieval) (p : Retrieval → Bool) (y : Retrieval) : List Retrieval :=
  match l with
  | [] => []
  | x :: t => if p x then y :: t else x :: putRet t p y

/-- Is a retrieval open, started and spared, with that identifier? -/
def Retrieval.live (r : Retrieval) (rid : BitVec 16) : Bool := r.rid == rid && r.isOpen && r.snap.isSome && r.doom.isNone

/-- Does another open retrieval stand half streamed at a clutch? -/
def State.otherStreaming (s : State) (cl : Fin 16) (rid : BitVec 16) : Bool :=
  s.scm.retrievals.any fun r => r.isOpen && r.rid != rid && r.shares.any fun h => h.clutch == cl && decide (0 < h.stage) && h.streaming

/-- `RETRIEVAL_SHARE_STREAM` (R391, R474): a hub streams a share of a retrieval as far as room allows. -/
def execRetrievalShareStream (cl : Fin 16) (rid : BitVec 16) (lost : List Nat) (s : State) : Res :=
  .next (
    let p (r : Retrieval) : Bool := r.live rid && r.shares.any fun h => h.clutch == cl && h.streaming
    if !s.clocked || s.otherStreaming cl rid then s
    else match s.scm.retrievals.find? p with
      | none => s
      | some r => match r.shares.find? fun h => h.clutch == cl with
        | none => s
        | some h =>
          let x := (s.ungate cl).streamShare (s.shareFuel h) r h lost
          x.1.setRets (putRet x.1.scm.retrievals p { r with shares := putShare r.shares x.2 }))

/-- The entries of a PARTIAL item: slot, WSEQ, score. -/
def partialEntries (l : List DWord) : List (Nat × Word × Word) :=
  (List.range ((l.headD 0).toNat % 8)).map fun i =>
    (itemWord l (2 * i + 1) % 2 ^ 32, BitVec.ofNat 32 (itemWord l (2 * i + 1) / 2 ^ 32), BitVec.ofNat 32 (itemWord l (2 * i + 2)))

/-- `PARTIAL_ITEM` (R392): entries of a share arrive; the last item carries the buckets scanned. -/
def execPartialItem (s : State) : Res :=
  .next (match s.scm.inbox with
    | [] => s
    | i :: t =>
      if s.clocked && s.isPartial i then
        let s1 := { s with scm := { s.scm with inbox := t } }
        let w := itemWord i.words 0
        let rid := BitVec.ofNat 16 (bitsOf w 47 32)
        let p (r : Retrieval) : Bool := r.live rid && r.shares.any fun h => h.clutch == clutchOf i.cell && h.scanned.isNone
        match s1.scm.retrievals.find? p with
        | none => s1
        | some r =>
          let add (h : Share) : Share :=
            if h.clutch = clutchOf i.cell then
              { h with
                entries := h.entries ++ partialEntries i.words
                scanned := if bitAt w 59 then some (bitsOf w 31 16) else none }
            else h
          s1.setRets (putRet s1.scm.retrievals p { r with shares := r.shares.map add })
      else s)

/-- A scored slot with its token. -/
structure Scored where
  slot : Nat
  score : Word
  words : List DWord
  deriving DecidableEq, Repr

/-- Rank order: descending score, then larger STAMP, then lower address (R396). -/
def Scored.before (a b : Scored) : Bool :=
  let x := fval a.score
  let y := fval b.score
  if y.lt x then true
  else if x.lt y then false
  else if tokStamp a.words ≠ tokStamp b.words then decide (tokStamp b.words < tokStamp a.words)
  else decide (a.slot < b.slot)

def insertScored (x : Scored) (l : List Scored) : List Scored :=
  match l with
  | [] => [x]
  | y :: t => if x.before y then x :: y :: t else y :: insertScored x t

/-- Buckets that the shares have reported scanned. -/
def Retrieval.scannedSum (r : Retrieval) : Nat := r.shares.foldl (fun n h => n + h.scanned.getD 0) 0

/-- The merged list of a retrieval: entries whose slot still holds the WSEQ they name, no NaN, the best K (R392, R396). -/
def State.mergeList (s : State) (r : Retrieval) (lost : List Nat) : List Scored :=
  let all := r.shares.flatMap fun h => h.entries
  let ok := all.filterMap fun e =>
    let w := s.slotWords e.1
    if lost.contains e.1 || tokWseq w != e.2.1 || (fval e.2.2).isNan then none else some (⟨e.1, e.2.2, w⟩ : Scored)
  (ok.foldl (fun a x => insertScored x a) []).take r.k

/-- End a retrieval, counted in `SCM_RDONE`. -/
def State.endRet (s : State) (p : Retrieval → Bool) (r : Retrieval) (st : ResultStatus) (toks : List (List DWord × Word)) : State :=
  (s.setRets (putRet s.scm.retrievals p { r with ended := some (st, r.scannedSum, toks) })).bump 0x70058

/-- `RETRIEVAL_MERGE_COMPLETE` (R392, R396, R397): every share has reported; the result waits for the next ridge. -/
def execRetrievalMergeComplete (rid : BitVec 16) (lost : List Nat) (s : State) : Res :=
  .next (
    let p (r : Retrieval) : Bool := s.clocked && r.live rid && decide (r.ridges < r.rmax) && r.shares.all fun h => h.scanned.isSome
    match s.scm.retrievals.find? p with
    | none => s
    | some r =>
      let met := ((r.shares.flatMap fun h => h.entries).filter fun e => lost.contains e.1).length
      (s.bump 0x80044 met).endRet p r .ok ((s.mergeList r lost).map fun x => (x.words, x.score)))

/-- `RETRIEVAL_TIMEOUT` (R398): the RMAX-th ridge after k0 has closed and the merge has not completed. -/
def execRetrievalTimeout (rid : BitVec 16) (s : State) : Res :=
  .next (
    let p (r : Retrieval) : Bool := s.clocked && r.live rid && decide (r.rmax ≤ r.ridges)
    match s.scm.retrievals.find? p with
    | none => s
    | some r => s.endRet p r .timeout [])

/-- STATUS of a RESULT record. -/
def ResultStatus.code : ResultStatus → Nat
  | .ok => 0
  | .timeout => 1
  | .erased => 2
  | .disabled => 3

/-- Scores packed two to a word. -/
def packScores (l : List Word) : List DWord :=
  match l with
  | [] => []
  | [a] => [pack2 a 0]
  | a :: b :: t => pack2 a b :: packScores t

/-- The RESULT record of an ended retrieval, a record of step k (R397). -/
def State.resultRecord (s : State) (k : Nat) (r : Retrieval) (st : ResultStatus) (scanned : Nat) (toks : List (List DWord × Word)) : List DWord :=
  let p0 := r.rid.toNat * 2 ^ 48 + st.code * 2 ^ 32 + toks.length * 2 ^ 14 + scanned % 2 ^ 14
  recordOf 0x16 (stepIdx k) (s.endOf k)
    ([BitVec.ofNat 64 p0, pack2 (r.snap.getD 0) (stepIdx (r.k0.getD k))] ++ (toks.flatMap fun t => t.1) ++ packScores (toks.map fun t => t.2))

/-- One open retrieval at the close of ridge k: it takes its snapshot or counts the ridge; a doomed one ends, another that has just its snapshot starts (R395, R398, R400, R401). -/
def State.ridgeRet (s : State) (k : Nat) (r : Retrieval) : Retrieval :=
  let q := if r.snap.isSome then { r with ridges := r.ridges + 1 } else { r with k0 := some k, snap := some s.scm.wctr }
  match r.doom with
  | some st => { q with ended := some (st, q.scannedSum, []) }
  | none => if r.snap.isSome then q else { q with shares := s.dealBuckets q }

/-- Scene Memory at the close of ridge k: the frame, the results in order of acceptance, the open retrievals (R389, R395, R397). -/
def State.closeScene (s : State) (k : Nat) (lost : List Nat) : State :=
  let s := { s with scm := { s.scm with gated := false } }
  let every := s.fld 0x70010 31 24
  let s1 := if s.scmOn && decide (every ≠ 0) && k % every == 0 then s.tokenFrame k lost else s
  let s2 := s1.each s1.scm.retrievals fun t r => match r.ended with
    | some (st, n, toks) => t.toTokenRing (t.resultRecord k r st n toks)
    | none => t
  let left := s2.scm.retrievals.filter Retrieval.isOpen
  (s2.setRets (left.map (s2.ridgeRet k))).bump 0x70058 (left.filter fun r => r.doom.isSome).length

/-- Doom every open retrieval. -/
def State.doomAll (s : State) (st : ResultStatus) : State :=
  s.setRets (s.scm.retrievals.map fun r => if r.isOpen && r.doom.isNone then { r with doom := some st } else r)

/-- Empty the region: every COUNT at zero (R381, R387). DESIGN CHOICE, log entry 66: the tokens written since the last frame still join the next one. -/
def State.emptyRegion (s : State) : State := { s with scm := { s.scm with next := [], count := [] } }

/-- An erase begins: the region is empty and zero, every open retrieval ends at the next ridge (R400). DESIGN CHOICE, log entry 66: the tokens of the next frame are gone with it, counted as left out. -/
def State.eraseRegion (s : State) : State :=
  let s1 := s.emptyRegion.bump 0x70054 s.scm.fresh.length
  ({ s1 with scm := { s1.scm with mem := [], fresh := [], erasing := true, gated := false } }).doomAll .erased

/-- FIRST of the next frame when step k opens as a first step: a frame that steps have closed for keeps its own (R389). -/
def State.restartFrame (s : State) (k : Nat) : Option Nat :=
  match s.scm.frameFirst, s.step.closed with
  | some f, some c => if f ≤ c.1 then some f else some k
  | _, _ => some k

/-- Scene Memory at the opening of a first step k: no token has been accepted of step k or a later one (R386, R389). -/
def State.openScene (s : State) (k : Nat) : State :=
  { s with scm := { s.scm with frameFirst := s.restartFrame k, taken := s.scm.taken.filter fun e => decide (e.1 < k) } }

/-- `ERASE_COMPLETE` (R400): the region is overwritten. -/
def execEraseComplete (s : State) : Res :=
  .next (if s.clocked && s.scm.erasing then { s with scm := { s.scm with erasing := false } } else s)

end Sys2Proof.Machine
end

