-- ==== Sys2Proof/Machine/Load.lean ====
section
/-! DEFINITION. Loading images and starting cells: the sequencer's start and stop (R191, R192), START's effect, the load of an active image, the swap of the slots (R430, R431), the checks of an image (R20, R157, R172), measurements (R530). -/

namespace Sys2Proof.Machine

/-! ## Sequencers (R191, R192) -/

/-- A sequencer as it starts: at `CEL_ENTRY`, scalar, predicate, vector, descriptor and accumulator state zero, every token free; its cell step the open step `k`, or none until a step opens (R191, R217, R419). -/
def startedCell (x : Cell) (entry : BitVec 16) (k : Option Nat) : Cell :=
  { x with
    mode := .running, pc := entry, sreg := Vector.replicate 32 0, preg := Vector.replicate 8 false
    vreg := Vector.replicate 16 0, greg := Vector.replicate 8 0, acc := Vector.replicate 4 ⟨[], none, false⟩
    tok := dropOps x, loops := [], step := k, wait := .none, dueSeen := false, moultDone := false, clearing := false, stalled := none
    queues := x.queues.map (fun q : Queue => { q with fence := none }), spent := 0, reserved := 0 }

/-- `CEL_SEQ_ENB.RUN` goes from 0 to 1: a STOPPED cell starts (R191). -/
def State.runCell (s : State) (c : Fin 256) : State :=
  let s1 := s.setReg (celR c 0) 1
  if s.bit (celR c 0) 0 || (s.cell c).mode != .stopped then s1
  else s1.modCell c fun x => startedCell x (BitVec.ofNat 16 (s.fld (celR c 0x10) 18 3)) (if s.step.running then some s.step.k else none)

/-- `CEL_SEQ_ENB.RUN` goes from 1 to 0: a RUNNING cell issues nothing further, and is STOPPED once no operation is left (R192). -/
def State.haltCell (s : State) (c : Fin 256) : State :=
  let s1 := s.setReg (celR c 0) 0
  if (s.cell c).mode == .running then s1.modCell c fun x => ({ x with mode := .stopping, wait := .none, stalled := none }).settle else s1

/-- The logical cells the active image places that stand in their places. -/
def State.imageCells (s : State) : List (Fin 256) :=
  match s.slots.active with
  | none => []
  | some x => ((x.image.cells.map fun ci => ci.cell).filter fun c =>
      (s.clutch (clutchOf c)).inService && !(s.cell c).removed && !s.isHosted c).eraseDups

/-- RUN in the step unit and in every cell of the image (15, START); the Steward's access ungates a clutch (R474). -/
def State.startAll (s : State) : State := (s.each s.imageCells fun t c => (t.ungate (clutchOf c)).runCell c).setReg 0x204 1

/-- RUN cleared in every cell of the image (06, after R193). -/
def State.haltAll (s : State) : State := s.each s.imageCells State.haltCell

/-! ## The checks of an image (R20, R157, R172) -/

/-- A register of a cell as an image leaves it. -/
def imageOrReset (ci : CellImage) (o : Nat) : Nat := ((imageReg ci o).getD (resetOf (0x200000 + o))).toNat

/-- HALF and BASE of a queue of an image's cell. -/
def imageHalf (ci : CellImage) (q : Nat) : Nat := bitsOf (imageOrReset ci (0x1000 + 4 * q)) 12 0
def imageBase (ci : CellImage) (q : Nat) : Nat := bitsOf (imageOrReset ci (0x1000 + 4 * q)) 28 16

/-- Configured queues as pairs of base and half. -/
def imageQueues (ci : CellImage) : List (Nat × Nat) :=
  ((List.range 256).map fun q => (imageBase ci q, imageHalf ci q)).filter fun p => p.2 != 0

/-- Is each queue inside queue memory and clear of those behind it in the list? (R157) -/
def queuesClear (l : List (Nat × Nat)) : Bool :=
  match l with
  | [] => true
  | p :: t => decide (p.1 + p.2 ≤ 4096) && (t.all fun r => decide (p.1 + p.2 ≤ r.1 ∨ r.1 + r.2 ≤ p.1)) && queuesClear t

/-- Does a cell keep to 15/16 of its memories, its queues apart? (R20, R157) -/
def occupancyOk (ci : CellImage) : Bool :=
  decide (bitsOf (imageOrReset ci 0x20) 29 16 ≤ 15360) && decide (bitsOf (imageOrReset ci 0x24) 28 16 ≤ 7680) &&
  decide ((imageQueues ci).foldl (fun a p => a + 2 * p.2) 0 ≤ 7680) && queuesClear (imageQueues ci)

/-- Do the cells of each clutch carry the same code? (R20) -/
def codeUniform (img : Image) : Bool :=
  img.cells.all fun a => img.cells.all fun b => decide (clutchOf a.cell ≠ clutchOf b.cell) || a.code == b.code

/-- What one sibling of fifteen is given of a cell's shingles, dealt in turn (R17, R172): blocks and queue words. -/
def siblingShare (ci : CellImage) (i : Nat) : Nat × Nat :=
  let mine := ((sortShingles ci.shingles).zipIdx.filter fun p => p.2 % 15 == i).map fun p => p.1
  (mine.length, mine.foldl (fun a h => a + h.queues.foldl (fun b q => b + 2 * imageHalf ci q.val) 0) 0)

/-- Would each sibling's reserve hold its share? (R172) -/
def reserveOk (ci : CellImage) : Bool :=
  (List.range 15).all fun i =>
    let n := siblingShare ci i
    decide (n.1 * bitsOf (imageOrReset ci 0x34) 29 16 ≤ 1024) && decide (n.1 * bitsOf (imageOrReset ci 0x34) 12 0 ≤ 512) && decide (n.2 ≤ 512)

/-- The reason an image is refused for, if one (R426): occupancy, code, sibling reserve. -/
def imageRefused (img : Image) : Option Nat :=
  if !img.cells.all occupancyOk then some 4
  else if !codeUniform img then some 5
  else if !img.cells.all reserveOk then some 6 else none

/-! ## Measurements (R530) -/

/-- Extend a measurement with a digest. -/
def extendBy (m d : BitVec 256) : BitVec 256 := Config.sha256 (natLe 32 m.toNat ++ natLe 32 d.toNat)

/-- Set one measurement. -/
def State.setM (s : State) (i : Fin 6) (v : BitVec 256) : State := { s with sec := { s.sec with m := s.sec.m.set i.val v i.isLt } }

/-- One measurement. -/
def State.meas (s : State) (i : Fin 6) : BitVec 256 := s.sec.m[i.val]

/-- The measurement of a slot: zero while it is empty, else zero extended with its digest. -/
def slotMeasure (x : Option Slot) : BitVec 256 := match x with | some y => extendBy 0 y.digest | none => 0

/-! ## Loading the active image (R16, R17, R171, R174, R357, R453) -/

/-- CFG bits of a register of the CEL window, by its offset. -/
def celCfgMask (o : Nat) : Nat := match regRow? (0x200000 + o) with | some r => r.cfg | none => 0

/-- The Steward writes the CFG fields of one register (R453). -/
def State.stewardCfg (s : State) (key : Nat) (mask : Nat) (v : Word) : State :=
  s.setReg key (BitVec.ofNat 32 (Nat.land v.toNat mask + ((s.reg key).toNat - Nat.land (s.reg key).toNat mask)))

/-- The queues of a cell across a load: one whose BASE or HALF changes is flushed (R145), one whose HALF changes forgets its last word delivered (R135), and back-pressure follows the watermarks the image gives (R147). -/
def loadedQueues (old : State) (c : Fin 256) (ci : CellImage) : Vector Queue 256 :=
  Vector.ofFn fun q : Fin 256 =>
    let x := old.queue c q
    let r := celR c (0x1000 + 4 * q.val)
    let w := imageOrReset ci (0x1400 + 4 * q.val)
    let same := old.fld r 12 0 == imageHalf ci q.val
    if same && old.fld r 28 16 == imageBase ci q.val then
      { x with fence := none, mark := none, bp := hysteresis (bitsOf w 13 0) (bitsOf w 29 16) x.words.length x.bp }
    else { flushQueue x with last := if same then x.last else 0, mark := none, fence := none }

/-- The shingle-table words of the cell's own shingles. -/
def ownShingles (ci : CellImage) : List Nat :=
  ci.shingles.map fun h => shWord false h.port.val h.col.val h.row.val ci.cell.val h.tbase h.cbase

/-- An image's cell with nothing in it, for a cell the image does not place (DESIGN CHOICE, log entry 18). -/
def emptyImage (c : Fin 256) : CellImage := ⟨c, [], [], [], [], []⟩

/-- Load one standing cell: the registers that a load writes, CWM, Thatch and the bank A of its shingle table (R170, R174, R197); the decay table is not among them. A FAULTED cell stays so until a reset (R193). -/
def State.loadCell (s : State) (c : Fin 256) : State :=
  let ci := (s.cellImage c).getD (emptyImage c)
  let x := s.cell c
  let y : Cell := { Cell.reset with
    mode := if x.mode = .faulted then .faulted else .stopped
    queues := loadedQueues s c ci, kept := x.kept, frac := x.frac, sentinel := x.sentinel, moultFull := true
    cwm := (imageCwm ci).foldl (fun m kv => memWrite m kv.1 kv.2) []
    thatch := writeShBank (ci.thatch.foldl (fun m kv => memWrite m kv.1 kv.2) []) false (ownShingles ci) }
  let s1 := s.dropRegs fun k => decide (celR c 0 ≤ k ∧ k < celR c 0x2000) && !isDecay k
  (s1.each ci.regs fun t r => t.stewardCfg (celR c r.1) (celCfgMask r.1) r.2).setCell c y

/-- The shingles of one hosted logical cell are dealt over its siblings (R17, R171). -/
def State.dealHosted (s : State) (c : Fin 256) : State :=
  match s.cellImage c with
  | some ci => s.dealShingles c ci (s.siblings c) (sortShingles ci.shingles) 0
  | none => s

/-- Bank A of a cell that hosts: its own and the hosted shingles (R174). -/
def State.fillBankA (s : State) (d : Fin 256) : State :=
  let own := match s.cellImage d with | some ci => ownShingles ci | none => []
  let guests := (s.disc.hosted.filter fun h => h.sibling == d).map fun h =>
    shWord true h.port.val h.col.val h.row.val h.lcell.val h.tbase h.cbase
  s.modCell d fun x => { x with thatch := writeShBank x.thatch false (own ++ guests), shActive := false }

/-- The active image goes into one clutch (R16, R430, R550). -/
def State.loadClutch (s : State) (cl : Fin 16) : State :=
  let all := (List.finRange 16).map fun i => cellOf cl i
  let own := s.ownCells cl
  let hosted := all.filter fun c => s.isHosted c && !(s.cell c).removed
  let s0 := { s with disc := { s.disc with hosted := s.disc.hosted.filter fun h => clutchOf h.lcell != cl } }
  let s1 := ((s0.ungate cl).each own State.loadCell).each hosted State.dealHosted
  let s2 := s1.each own State.fillBankA
  s2.modClutch cl fun x => { x with reductions := Vector.replicate 16 none }

/-- Is a register one of `FAB_SPK_REGr`? -/
def isRegion (key : Nat) : Bool := decide (0xD0110 ≤ key ∧ key < 0xD0120)

/-- Would a value of a `FAB_SPK_REGr` place a clutch in two regions? (R309, R322) -/
def State.regionClash (s : State) (key : Nat) (v : Word) : Bool :=
  (List.range 4).any fun r => 0xD0110 + 4 * r != key && Nat.land (s.reg (0xD0110 + 4 * r)).toNat v.toNat % 65536 != 0

/-- One register outside the cells takes the CFG fields an image gives it; one that would place a clutch in two regions is not taken (R309), and a new scene region is empty (R381). -/
def State.loadReg (s : State) (key : Nat) (v : Word) : State :=
  match regRow? key with
  | some row =>
    if isRegion key && s.regionClash key v then s
    else
      let t := s.stewardCfg key row.cfg v
      if key = 0x70004 && s.reg key != t.reg key then t.emptyRegion else t
  | none => s

/-- The registers outside the cells that an image gives values: their CFG fields (R453); the regions are the image's, one it does not list empty (R309, R322). -/
def State.loadRegs (s : State) (img : Image) : State := (s.dropRegs isRegion).each img.regs fun t r => t.loadReg r.1 r.2

/-- The load effects of a new active image (R174, R357, R430); `ups` are the upsets its writes into cells meet (R163). -/
def State.loadActive (s : State) (ups : CellUpsets) : State :=
  match s.slots.active with
  | none => s
  | some x =>
    let s1 := (s.meetAll ups).each ((List.finRange 16).filter fun cl => (s.clutch cl).inService) State.loadClutch
    let s2 := s1.loadRegs x.image
    { s2 with
      weights := x.image.weights.foldl (fun m kv => memWrite m kv.1 kv.2) []
      trk := { s2.trk with table := s2.trk.table.map (fun (e : Nat × Track) => (e.1, { e.2 with valid := false })), idCtr := 1, wrapped := false }
      step := { s2.step with sinceLoad := none } }

/-- The image counter advances at the commit of a swap, and an image below it is discarded (R527). -/
def State.burnImage (s : State) (x : Slot) : State :=
  if x.advance && decide (s.sec.svnImg < x.svn) then
    let s1 := ({ s with sec := { s.sec with svnImg := x.svn } }).setM 5 (extendBy (s.meas 5) x.digest)
    match s1.slots.staged with
    | some y => if y.svn < x.svn then { s1 with slots := { s1.slots with staged := none } } else s1
    | none => s1
  else s

/-- The slots swap: the staged image becomes active and is loaded, the former one staged (R430, R527, R530). -/
def State.swapSlots (s : State) (ups : CellUpsets) : State :=
  match s.slots.staged with
  | none => s
  | some x =>
    let s1 := { s with slots := { s.slots with active := some x, staged := s.slots.active } }
    let s2 := s1.burnImage x
    ((s2.setM 1 (extendBy 0 x.digest)).setM 2 (slotMeasure s2.slots.staged)).loadActive ups

/-- Is the open step's ridge the stopping ridge of a pending swap? (R110, R431) -/
def State.swapHere (s : State) : Bool :=
  match s.slots.swap with
  | some (_, n) => !s.slots.swapped && (let d := (n - stepIdx s.step.k).toNat; decide (d = 0 ∨ 2 ^ 31 ≤ d))
  | none => false

/-- Is the open step's ridge the last? (R43, R431) -/
def State.lastRidge (s : State) : Bool := s.step.stopping || (s.step.running && s.swapHere)

end Sys2Proof.Machine
end

