-- ==== Sys2Proof/Machine/Flags.lean ====
section
/-! DEFINITION. What a host reads: the status fields, summary bits, ridge copies and counters every register view is computed from (R449, R455). -/

namespace Sys2Proof.Machine

/-- A bit at a place. -/
def bitNo (b : Bool) (i : Nat) : Nat := bitOf b * 2 ^ i

/-- A count of events and one of clock cycles together, saturating (R455). -/
def countAdd (n : Word) (cycles : Nat) : Word := BitVec.ofNat 32 (min 0xFFFFFFFF (n.toNat + cycles))

/-- A counter as a read shows it: what it has counted, and the cycles of its waits (log entry 30). -/
def State.readCtr (s : State) (key : Nat) : Word := countAdd (s.ctr key) (waited s.waits key)

/-- A counter's copy as a read shows it; `key` is the counter's (R59, R61). -/
def State.readLat (s : State) (key : Nat) : Word := countAdd (assocGet s.lat 0 key) (waited s.latWaits key)

/-- `_NZ`: is the counter nonzero in this step? (R455) -/
def State.nz (s : State) (key : Nat) : Bool := s.readCtr key != 0

/-- A summary of `n` counters in order, 4 bytes apart, lowest bit first. -/
def State.sum (s : State) (key n : Nat) : Nat := (List.range n).foldl (fun a i => a + bitNo (s.nz (key + 4 * i)) i) 0

/-- Sixteen flags as a mask. -/
def mask16 (f : Fin 16 → Bool) : Nat := (List.finRange 16).foldl (fun a i => a + bitNo (f i) i.val) 0

/-! ## DEV (R66, R466, R467) -/

/-- Participating cells that have still to execute `RIDGE` for the open step (R49). -/
def State.cellsLeft (s : State) : List (Fin 256) :=
  (List.finRange 256).filter fun c => (s.cell c).participates && !(s.cell c).removed &&
    match (s.cell c).step with | some k => decide (k ≤ s.step.k) | none => true

/-- Does a spike item of the open step still hold the ridge? (R49, R317) -/
def State.delivHeld (s : State) : Bool :=
  (List.finRange 4).any fun r => !(s.inFlight r s.step.k).isEmpty && !s.step.expired.getLsbD r.val

/-- Does a counter of clock cycles count at present? The waits of the open step (R43, R66), a cell's bank conflicts while an operation is under way (R161), its sequencer's stalls (R206, R231), an engine's wait for a full queue (R244), the spike gate (R312). -/
def State.counting (s : State) (key : Nat) : Bool :=
  if key = 0x220 then s.step.running && !s.step.due
  else if key = 0x224 then s.step.running && s.step.due && !s.cellsLeft.isEmpty
  else if key = 0x228 then s.step.running && s.step.due && s.delivHeld
  else if key < 0x200000 then false
  else
    let c : Fin 256 := ⟨(key - 0x200000) / 0x2000 % 256, Nat.mod_lt _ (by decide)⟩
    let x := s.cell c
    let o := key % 0x2000
    if o = 0x204 then !x.ops.isEmpty
    else if o = 0x314 ∨ o = 0x320 then x.stalled == some o
    else if o = 0x688 then x.ops.any fun p => !p.words.isEmpty
    else if o = 0x708 then s.gateHolds c
    else false

/-- A counter that counts goes on counting; one that does not is as it stands. -/
def State.goOnCounting (s : State) (key : Nat) : State := if s.counting key then s.countWait key else s

/-- A host loads a counter: what counts in it goes on from the value (R5). -/
def State.loadCtr (s : State) (key : Nat) (v : Word) : State := (s.setCtr key v).goOnCounting key

/-- `DEV_STEP_STS`. -/
def State.stepSts (s : State) : Nat :=
  bitNo s.step.running 0 + bitNo s.horizon.isNone 1 + bitNo s.step.due 2 + bitNo s.lastRidge 3 +
  bitNo (s.nz 0x22C) 4 + bitNo (s.nz 0x220) 5 + bitNo (s.nz 0x224) 6 + bitNo (s.nz 0x228) 7

/-- `DEV_RIDGE_WAIT`. With no step open it reads 0, as `DEV_STEP_OPEN` does (`readDev`), also where steps have run before: their tables give only the reset value (DESIGN CHOICE, log entry 68). -/
def State.ridgeWait (s : State) : Nat :=
  let n := s.cellsLeft.length
  if s.step.running then
    bitNo (!s.step.due) 0 + bitNo (decide (0 < n)) 1 + bitNo (s.step.due && s.delivHeld) 2 + n * 2 ^ 16
  else 0

/-- `DEV_READY`: the clutches in service, then HP0, HP1, MEM, FUS, TRK, SCM, MOT. A host port can be used only while its link is up (R466). -/
def State.readyWord (s : State) : Nat :=
  let hp (h : Fin 2) : Nat := bitNo (s.disc.ready.getLsbD h.val && (s.host h).up) h.val
  mask16 (fun c => (s.clutch c).inService) + (s.disc.ready.toNat / 4 * 4 + hp 0 + hp 1) * 2 ^ 16

/-- Healthy physical cells found by discovery. -/
def State.healthyCount (s : State) : Nat :=
  ((List.finRange 256).filter fun p => s.disc.healthy.getLsbD p.val).length

/-- The identity words `DEV_ID`, `DEV_FW`, `DEV_CAP`, `DEV_BOOT`. -/
def State.idWord (s : State) (i : Nat) : Nat :=
  match i with
  | 0 => 0x32162000 + Config.stepping.toNat * 16
  | 1 => s.sec.fw.toNat
  | 2 => s.disc.memGib.toNat * 2 ^ 16 + s.healthyCount
  | _ => s.disc.boot.toNat

/-- A register of the DEV block that is no counter, copy or plain field, as port `hp` reads it. -/
def State.readDev (s : State) (hp : Fin 2) (off : Nat) : Option Nat :=
  let m := (s.host hp).mbx
  if off < 0x10 then some (s.idWord (off / 4))
  else if off = 0x10 then some s.readyWord
  else if off = 0x14 then some s.disc.readySp.toNat
  else if off = 0x40 then some (bitNo s.disc.cfgMismatch 31 + s.disc.cfgAddr.toNat * 4)
  else if off = 0x44 then some s.disc.accLast.toNat
  else if off = 0xC0 then some (s.sum 0x80 3)
  else if off = 0x100 then some m.sel.toNat
  else if off = 0x104 then some (m.sel.toNat + bitNo m.badsel 30 + bitNo m.valid 31)
  else if off = 0x108 then some (if m.valid then m.step.toNat else 0)
  else if 0x110 ≤ off ∧ off < 0x120 then some (if m.valid then (m.d.toList.getD ((off - 0x110) / 4) 0).toNat else 0)
  else if off = 0x208 then some s.stepSts
  else if off = 0x20C then some (if s.step.running then (stepIdx s.step.k).toNat else 0)
  else if off = 0x210 then some s.ridgeWait
  else if off = 0x240 then some s.step.lastStep.toNat
  else if 0x300 ≤ off ∧ off < 0x320 then some (s.step.cnz.toList.getD ((off - 0x300) / 4) 0).toNat
  else none

/-- A semaphore as port `hp` reads it (R432). -/
def semWord (x : Sem) (hp : Fin 2) : Nat :=
  match x.owner with
  | some o => 2 ^ 31 + bitNo (o == hp) 30 + o.val * 2 ^ 29 + x.lease.toNat * 2 ^ 8 + x.left.toNat
  | none => x.lease.toNat * 2 ^ 8 + x.left.toNat

/-! ## HIF (R442) -/

/-- A register of the HIF block of port `hp`, by its offset in the block. -/
def State.readHif (s : State) (hp : Fin 2) (o : Nat) : Option Nat :=
  let x := s.host hp
  if o = 0x10 then
    some (bitNo x.up 0 + bitNo x.bme 1 + bitNo (s.host (if hp = 0 then 1 else 0)).up 2 + x.gen.toNat * 2 ^ 3)
  else if o = 0xC0 then some (s.sum (hifR hp 0x40) 8)
  else none

/-! ## INK (R66, R95, R126, R158) -/

/-- `INK_PTIME_STS`. -/
def State.portTimeSts (s : State) (p : Fin 16) : Nat :=
  let x := s.port p
  bitNo (x.mode == .active) 0 + bitNo (x.mode == .silent) 1 + bitNo (x.mode == .returning) 2 + bitNo (!x.held.isEmpty) 3 +
  bitNo x.trail 4 + bitNo x.lead 5 + bitNo x.suspect 6 + bitNo x.excluded 7 + s.sum (inkP p 0xF04) 4 * 2 ^ 8 + x.cohRun * 2 ^ 12

/-- `INK_PLINK_STS`. -/
def State.portLinkSts (s : State) (p : Fin 16) : Nat :=
  let x := s.port p
  bitNo x.lock 0 + bitNo x.notb 1 + bitNo x.staged.isSome 2 + s.sum (inkP p 0x40) 13 * 2 ^ 8

/-- A register of the window of a sensor port. -/
def State.readPort (s : State) (p : Fin 16) (o : Nat) : Option Nat :=
  let x := s.port p
  if o = 0x020 then some (s.portLinkSts p)
  else if o = 0x208 then some (min 65535 (fifoDepth x.fifo) + bitNo x.flow 16)
  else if o = 0x20C then some (bitNo x.cmp 0 + s.sum (inkP p 0x240) 10 * 2)
  else if o = 0x308 then some (bitNo (s.nz (inkP p 0x300)) 0 + x.rd / 16384 % 2 * 2 ^ 8)
  else if o = 0xF00 then some (s.portTimeSts p)
  else none

/-- The word of `INK_TSWAP_STS` and `FUS_TSWAP_STS`. -/
def swapSts (x : TableSwap) : Nat := bitNo x.armed 0 + bitNo x.lateArm 1 + bitNo (x.copying != 0) 2

/-- A register of the INK block. -/
def State.readInk (s : State) (off : Nat) : Option Nat :=
  if off = 0x20104 then some (bitNo s.inkSwap.armed 31 + s.inkSwap.mask.toNat)
  else if off = 0x20108 then some (swapSts s.inkSwap)
  else if 0x21000 ≤ off then s.readPort ⟨(off - 0x21000) / 0x1000 % 16, Nat.mod_lt _ (by decide)⟩ ((off - 0x21000) % 0x1000)
  else none

/-! ## MOT and FUS (R353) -/

/-- Level of `MPn_RDY` (R325, R478). -/
def State.motReady (s : State) (m : Fin 4) : Bool := s.bit (motP m 0) 0 && !(s.mot m).above && decide (s.pwr.point = 0)

/-- Is some counter of a row of sixteen nonzero? -/
def State.anyNz (s : State) (key : Nat) : Bool := (List.range 16).any fun i => s.nz (key + 4 * i)

/-- A register of the MOT block. -/
def State.readMot (s : State) (off : Nat) : Option Nat :=
  if off < 0x40080 ∧ off % 0x20 = 8 then
    let m : Fin 4 := ⟨(off - 0x40000) / 0x20 % 4, Nat.mod_lt _ (by decide)⟩
    let d := (s.mot m).fifo.length
    some (d + bitNo (decide (d = 0)) 11 + bitNo (decide (1024 ≤ d)) 12 + bitNo (s.motReady m) 16 +
      bitNo (s.nz (motP m 0x10)) 17 + bitNo (s.nz (motP m 0x0C)) 18)
  else if off = 0x40208 then
    some (bitNo s.ego.levelled 0 + bitNo (!s.anySource) 1 + bitNo s.ego.xstale 2 + bitNo (s.anyNz 0x40300) 8 +
      bitNo (s.anyNz 0x40340) 9 + bitNo (s.anyNz 0x40380) 10 + bitNo (s.nz 0x40504) 11 + bitNo (s.nz 0x40508) 12 +
      bitNo (s.nz 0x4050C) 13 + bitNo (s.nz 0x40500) 14)
  else none

/-- A register of the FUS block. -/
def State.readFus (s : State) (off : Nat) : Option Nat :=
  if off = 0x50024 then some (bitNo s.fusSwap.armed 31 + s.fusSwap.mask.toNat)
  else if off = 0x50028 then some (swapSts s.fusSwap)
  else if 0x50040 ≤ off ∧ off < 0x50080 then
    let z : Fin 16 := ⟨(off - 0x50040) / 4 % 16, Nat.mod_lt _ (by decide)⟩
    let x := s.fus.zones[z.val]
    some (x.state.code + bitNo x.en 4 + bitNo (!s.pins.zone.getLsbD z.val) 5 + x.nocc % 4096 * 2 ^ 16)
  else if 0x50080 ≤ off ∧ off < 0x500C0 then
    let n : Fin 16 := ⟨(off - 0x50080) / 4 % 16, Nat.mod_lt _ (by decide)⟩
    let x := s.fus.sensors[n.val]
    some (x.drun + bitNo x.suspect 8 + bitNo x.usable 9 + bitNo (s.portBlind n) 10)
  else if off = 0x500C0 then some (bitNo s.fus.stale 0 + bitNo (s.nz 0x50100 || s.nz 0x50104) 1 + s.sum 0x50108 5 * 4)
  else none

/-! ## TRK and SCM (R377, R403) -/

/-- A register of the TRK block. -/
def State.readTrk (s : State) (off : Nat) : Option Nat :=
  if off = 0x60020 then
    some (bitNo (decide (0 < s.trk.rleft) || s.bit 0x60014 0) 0 + bitNo s.trk.behind 1 + min 255 s.trk.rleft * 2 ^ 8 + s.sum 0x60040 10 * 2 ^ 18)
  else if off = 0x60024 then
    some ((s.trk.valid.filter fun kv => kv.2.state == .confirmed).length + s.trk.valid.length * 2 ^ 16)
  else none

/-- Retrievals that are open. -/
def State.openRetrievals (s : State) : List Retrieval := s.scm.retrievals.filter Retrieval.isOpen

/-- A register of the SCM block. -/
def State.readScm (s : State) (off : Nat) : Option Nat :=
  if off = 0x70024 then
    some (bitNo s.scm.geoErr 0 + bitNo s.scm.erasing 1 + s.openRetrievals.length * 2 ^ 8)
  else if off = 0x70028 then some s.scm.avail
  else if off = 0x7002C then some (s.sum 0x70040 9)
  else none

/-! ## PWR, LED, SAF, SEC, MEM, FAB -/

/-- A register of the PWR block. -/
def State.readPwr (s : State) (off : Nat) : Option Nat :=
  let w := s.pwr
  if off = 0x90000 then
    some (w.state.toNat + ((w.entry.map fun t => t.toNat).getD 0) * 2 ^ 4 + w.point * 2 ^ 8 + bitNo w.queued.isSome 13 +
      ((w.queued.map fun t => t.toNat).getD 0) * 2 ^ 14 + bitNo w.wakePend 16)
  else if off = 0x90008 then some w.lastWake.toNat
  else if off = 0x90018 then some w.temp.toNat
  else if 0x90040 ≤ off ∧ off < 0x90080 then
    let x := s.clutch ⟨(off - 0x90040) / 4 % 16, Nat.mod_lt _ (by decide)⟩
    some (s.fld off 1 0 + x.level.toNat * 2 ^ 4 + x.cap.toNat * 2 ^ 8 + bitNo x.chg 12)
  else if off = 0x900C0 then some (s.sum 0x90080 5)
  else none

/-- A register of the LED block. -/
def State.readLed (s : State) (off : Nat) : Option Nat :=
  let x := s.clutch ⟨off % 64 / 4 % 16, Nat.mod_lt _ (by decide)⟩
  if 0xA0100 ≤ off ∧ off < 0xA0140 then some (x.up * 2 ^ 8 + x.dn * 2 ^ 12 + x.gov * 2 ^ 16)
  else if 0xA0140 ≤ off ∧ off < 0xA0180 then some x.allow
  else if 0xA0180 ≤ off ∧ off < 0xA01C0 then some (min 0xFFFFFFFF x.lastS)
  else if off = 0xA0300 then some (s.sum 0xA0200 7)
  else none

/-- The commanded level of a pin, numbered as DETAIL of cause 0x27 (R516). -/
def State.pinLevel (s : State) (i : Fin 8) : Bool :=
  if i = 0 then s.pins.faultA
  else if i = 1 then s.pins.faultB
  else if i = 2 then s.step.hbeat
  else if i = 3 then false
  else s.pins.zone.getLsbD (i.val - 4)

/-- The level a pin is read back at: its commanded one, unless something holds it (R502). -/
def State.readBack (s : State) (i : Fin 8) : Bool :=
  match s.pins.held.find? fun p => p.1 == i with
  | some p => p.2
  | none => s.pinLevel i

/-- The causes present at the moment: those that stay, a delivery rule of back-pressure still unmet after the watchdog has expired (R51), a pin that differs from its commanded level (R502, R508). -/
def State.liveNow (s : State) : BitVec 32 :=
  let unmet := if s.delivHeld then s.saf.live else s.saf.live &&& ~~~(BitVec.ofNat 32 8)
  if (List.finRange 8).any fun i => s.readBack i != s.pinLevel i then unmet ||| BitVec.ofNat 32 128 else unmet

/-- A register of the SAF block. -/
def State.readSaf (s : State) (off : Nat) : Option Nat :=
  let o := off - 0xB0000
  if o = 4 then
    some (bitNo (s.readBack 0) 0 + bitNo (s.readBack 1) 1 + bitNo (s.readBack 2) 2 +
      bitNo (s.bit 0xB0000 0 && s.saf.latched == 0 && !s.saf.noFault) 3 + bitNo s.fatal 4)
  else if o = 8 then some s.saf.latched.toNat
  else if o = 0xC then some s.liveNow.toNat
  else if o = 0x10 then some 0
  else if o = 0x14 then some s.saf.first.toNat
  else if o = 0x30 then some s.saf.seq.toNat
  else if o = 0xC0 then some (s.sum 0xB0080 6)
  else if 0x100 ≤ o ∧ o < 0x180 then
    let e := s.saf.log.toList.getD ((o - 0x100) / 8) (0, 0)
    some (if o % 8 = 0 then e.1.toNat else e.2.toNat)
  else if 0x440 ≤ o ∧ o < 0x480 then
    let z : Fin 16 := ⟨(o - 0x440) / 4 % 16, Nat.mod_lt _ (by decide)⟩
    let d := (s.pq[z.val]).length
    some (d + bitNo (decide (d = 0)) 16 + bitNo (decide (256 ≤ d)) 17 + bitNo (s.pqOvr.getLsbD z.val) 23 +
      bitNo (decide (s.fld (0xB0400 + 4 * z.val) 8 0 ≤ d)) 24)
  else if o = 0x4A0 then
    some (mask16 (fun z => decide (s.fld (0xB0400 + 4 * z.val) 8 0 ≤ (s.pq[z.val]).length)) + s.sum 0xB0480 2 * 2 ^ 16)
  else none

/-- A register of the SEC block. -/
def State.readSec (s : State) (off : Nat) : Option Nat :=
  let x := s.sec
  let o := off - 0xC0000
  if o = 0 then some (x.enrolled.toNat + x.revoked.toNat * 2 ^ 4 + bitNo x.reqsig 8)
  else if o = 4 then some (x.svnFw.toNat + x.svnImg.toNat * 2 ^ 8)
  else if o = 8 then some (bitNo x.idKey 0 + bitNo x.trngFail 1 + x.dbg.toNat * 2 ^ 2 + bitNo (x.busyInk || x.busyFus) 4)
  else if o = 0x10 then some 0
  else if 0x20 ≤ o ∧ o < 0x40 then some (((x.challenge.map fun v => v.toNat).getD 0) / 2 ^ (8 * (o - 0x20)) % 2 ^ 32)
  else if o = 0x40 then some x.tamper.toNat
  else if o = 0xC0 then some (s.sum 0xC0080 2)
  else none

/-- A register of the FAB block. -/
def State.readFab (s : State) (off : Nat) : Option Nat :=
  if 0xD0120 ≤ off ∧ off < 0xD0130 then
    let r : Fin 4 := ⟨(off - 0xD0120) / 4 % 4, Nat.mod_lt _ (by decide)⟩
    let n := if s.step.running then (spikeKeys (s.inFlight r s.step.k)).length else 0
    some (min 65535 n + s.regionSize r.val * 2 ^ 16 + bitNo (s.dropRegime r.val) 23 + bitNo (s.step.expired.getLsbD r.val) 24 +
      bitNo (s.nz (0xD0140 + 4 * r.val)) 25)
  else none

/-! ## CEL (R157, R197, R238, R283, R322) -/

/-- `CEL_STS.STATE`. -/
def CellMode.code (m : CellMode) : Nat :=
  match m with | .stopped => 0 | .running => 1 | .stopping => 2 | .faulted => 3 | .hosted => 4

/-- Words an image or a host configures the queues of a cell to hold (`CEL_OCC_Q.DECL`), the hosted ones apart. -/
def State.declWords (s : State) (c : Fin 256) : Nat :=
  (List.finRange 256).foldl (fun a q => a + s.qCap c q) 0 - (s.cell c).hostedQ

/-- `CEL_STS`. -/
def State.celSts (s : State) (c : Fin 256) : Nat :=
  let x := s.cell c
  let inRidge := match x.wait with | .ridge _ => true | _ => false
  let inWaitq := match x.wait with | .waitq _ _ _ => true | _ => false
  x.mode.code + bitNo (inRidge && !s.moultOk c) 4 + bitNo x.clearing 5 + bitNo inWaitq 6 + bitNo inRidge 7 +
    mask16 (fun t => x.busy t.val) * 2 ^ 16

/-- `CEL_QSTSq`. DBANK follows the read position: for an empty queue whose position stands at a bank boundary it shows the bank that the next word will fill (DESIGN CHOICE, log entry 69). -/
def State.queueSts (s : State) (c q : Fin 256) : Nat :=
  let x := s.queue c q
  let d := x.words.length
  d + bitNo (decide (d = 0)) 16 + bitNo (s.qFull c q) 17 + bitNo x.part 18 + bitNo x.bp 19 + x.rd / (s.qCap c q / 2) % 2 * 2 ^ 20 +
    bitNo x.ign 27 + bitNo x.ovr 28 + bitNo x.unr 29 + bitNo x.flpart 30 + bitNo x.poison 31

/-- Position of a cell in the mesh, row and column (`CEL_HEALTH.PROW`, `PCOL`). -/
def State.placeOf (s : State) (c : Fin 256) : Nat :=
  match (List.finRange 256).find? fun p => (s.disc.lcell[p.val]) == some c with
  | some p => p.val
  | none => 0

/-- A register of the window of a logical cell that stands in its own place. -/
def State.readCel (s : State) (c : Fin 256) (o : Nat) : Option Nat :=
  let x := s.cell c
  if o = 0x004 then some (s.celSts c)
  else if o = 0x008 then some (x.pc.toNat * 8)
  else if o = 0x00C then some ((stepIdx (x.step.getD 0)).toNat)
  else if o = 0x014 then some (x.lost.toNat + x.restored.toNat * 2 ^ 12 + x.cause.toNat * 2 ^ 20 + s.placeOf c * 2 ^ 24)
  else if o = 0x018 then some x.hosts.toNat
  else if o = 0x020 then some (s.fld (celR c 0x20) 31 16 * 2 ^ 16 + x.hostedT)
  else if o = 0x024 then some (s.fld (celR c 0x24) 31 16 * 2 ^ 16 + x.hostedC)
  else if o = 0x028 then some (s.declWords c * 2 ^ 16 + x.hostedQ)
  else if o = 0x030 then some ((shEntries x.thatch x.shActive).length * 2 ^ 8 + bitOf x.shActive)
  else if 0x100 ≤ o ∧ o < 0x120 then some (bankSig .thatch x.thatch ((o - 0x100) / 4))
  else if 0x120 ≤ o ∧ o < 0x130 then some (bankSig .cwm x.cwm ((o - 0x120) / 4))
  else if o = 0x280 then some (s.sum (celR c 0x200) 7)
  else if o = 0x300 then some x.pfault.toNat
  else if o = 0x380 then some (s.sum (celR c 0x310) 5)
  else if o = 0x6F0 then some (s.sum (celR c 0x680) 6)
  else if o = 0x780 then some (s.sum (celR c 0x700) 3)
  else if 0x1800 ≤ o ∧ o < 0x1C00 then some (s.queueSts c (queueNo ((o - 0x1800) / 4)))
  else if o = 0x1C80 then some (s.sum (celR c 0x1C00) 7)
  else none

/-! ## One read -/

/-- The logical cell whose CEL window holds an offset. -/
def cellAt (off : Nat) : Fin 256 := ⟨(off - 0x200000) / 0x2000 % 256, Nat.mod_lt _ (by decide)⟩

/-- What the device computes for a register, where it is no stored value. -/
def State.readSts (s : State) (hp : Fin 2) (off : Nat) : Option Nat :=
  if off < 0x10000 then s.readDev hp off
  else if off < 0x20000 then s.readHif hp (off - 0x10000)
  else if off < 0x40000 then s.readInk off
  else if off < 0x50000 then s.readMot off
  else if off < 0x60000 then s.readFus off
  else if off < 0x70000 then s.readTrk off
  else if off < 0x80000 then s.readScm off
  else if off < 0x90000 then
    if off = 0x80000 then some s.disc.memSts.toNat else if off = 0x80080 then some (s.sum 0x80040 3) else none
  else if off < 0xA0000 then s.readPwr off
  else if off < 0xB0000 then s.readLed off
  else if off < 0xC0000 then s.readSaf off
  else if off < 0xD0000 then s.readSec off
  else if off < 0xE0000 then s.readFab off
  else s.readCel (cellAt off) (off % 0x2000)

/-- Is an offset in the CEL window of a hosted logical cell? (R197) -/
def State.inHosted (s : State) (off : Nat) : Bool := decide (0x200000 ≤ off) && decide (off < 0x400000) && s.isHosted (cellAt off)

/-- What a register holds as a port sees it (R443, R448, R449, R455). -/
def State.regValue (s : State) (hp : Fin 2) (off : Nat) : Word :=
  match regRow? off with
  | none => 0
  | some r =>
    let key := regKey hp off
    if s.inHosted off then BitVec.ofNat 32 (if off % 0x2000 = 4 then 4 else 0)
    else
      match r.kind with
      | .cnt => s.readCtr key
      | .lat _ => s.readLat (regKey hp ((latCounter off r).getD 0))
      | .sem => BitVec.ofNat 32 (semWord (s.sem ⟨(off - 0x400) / 4 % 64, Nat.mod_lt _ (by decide)⟩) hp)
      | _ =>
        match s.readSts hp off with
        | some v => BitVec.ofNat 32 v
        | none => s.reg key

/-- What a read of a doubleword returns: the whole register, or zero with no byte enable set (R445); the acquisition by a read of a free semaphore is `SEM_ACQUIRE`. -/
def State.readReg (s : State) (hp : Fin 2) (off : Nat) (be : BitVec 4) : Word := if be = 0 then 0 else s.regValue hp off

/-- A read request of several doublewords: as many accesses in ascending order, each by its own byte enables (R446). -/
def State.readRegs (s : State) (hp : Fin 2) (off : Nat) (l : List (BitVec 4)) : List Word := l.mapIdx fun i be => s.readReg hp (off + 4 * i) be

/-- Is a command a register write of a port? -/
def writeOf (hp : Fin 2) (i : Instr) : Bool :=
  match i with
  | .portEnable h _ | .portDisable h _ | .inkTswapArm h _ | .stepRunSet h | .stepRunClear h | .celSeqStart h _ | .celSeqStop h _
  | .fusSnsClrWrite h _ | .fusTswapArm h _ | .scmEnable h | .scmDisable h | .scmGeomWrite h _ | .scmErase h | .commandDoorbell h _
  | .consumerDoorbell h _ _ | .semRelease h _ | .semLeaseSet h _ _ | .mailboxSelect h _ | .registerWrite h _ _ _ _
  | .levelRequestWrite h _ _ | .safArm h _ | .safClear h _ | .debugChallenge h => h == hp
  | _ => false

/-- The completion of a port's read: none while an earlier write of that port has not been performed (R447), nor while the block's clock is stopped (R475). -/
def State.readNow (s : State) (hp : Fin 2) (off : Nat) (l : List (BitVec 4)) : Option (List Word) :=
  if s.pending.any (writeOf hp) || !(s.host hp).late.isEmpty || (retained off && !s.clocked) then none else some (s.readRegs hp off l)

end Sys2Proof.Machine
end

