-- ==== Sys2Proof/Machine/Host.lean ====
section
/-! DEFINITION. The host ports (15, 16): snapshots, semaphores, link loss and link up, records from cells, the mailbox, a command's timeout. -/

namespace Sys2Proof.Machine

/-! ## Snapshots (R356, R428) -/

/-- The eight words of a Track Table entry (R356). -/
def Track.words (t : Track) : List DWord :=
  [BitVec.ofNat 64 (bitNo t.valid 63 + bitNo t.obj 62 + t.state.code * 2 ^ 60 + t.port.val * 2 ^ 56 + t.cls.toNat * 2 ^ 48 +
      t.miss % 256 * 2 ^ 40 + t.hits % 256 * 2 ^ 32 + t.id.toNat),
   pack2 t.birth t.hist, pack2 t.extent t.lastHit, pack2 t.x t.y, pack2 t.vx t.vy, t.desc, 0, BitVec.ofNat 64 (t.tlast % 2 ^ 62)]

/-- Little-endian bytes of words. -/
def wordBytes (l : List DWord) : List Byte := l.flatMap fun d => natLe 8 d.toNat

/-- The Track Table as bytes: 32,768 entries, one never written all zero. -/
def State.trackBytes (s : State) : List Byte :=
  (List.range 32768).flatMap fun i =>
    match s.trk.table.find? fun kv => kv.1 == i with
    | some kv => wordBytes kv.2.words
    | none => List.replicate 64 0

/-- The state a SNAPSHOT copies, by WHAT. -/
def State.snapBytes (s : State) (what : Nat) : List Byte :=
  if what = 0 then s.trackBytes
  else if what = 1 then memBytes s.fus.grid 0 4194304
  else memBytes s.fus.cellMeta 0 1048576

/-- Bytes of each state a SNAPSHOT copies. -/
def snapSize (what : Nat) : Nat := if what = 0 then 2097152 else if what = 1 then 4194304 else 1048576

/-- The snapshot of one port, as step `k` leaves the state: data, count, RESULT2, completion (R428). -/
def State.takeSnapshot (s : State) (h : Fin 2) (a : ActiveCmd) (k : Nat) : State :=
  let n := s.slots.snapshots + 1
  let id : DWord := BitVec.ofNat 64 ((stepIdx k).toNat * 2 ^ 32 + n.toNat)
  ({ s with
      hostOut := HostWrite.data h (descWord a.desc 2) (s.snapBytes (descWord a.desc 1 % 256)) :: s.hostOut
      slots := { s.slots with snapshots := n, lastSnap := id } }).complete h stOk 0 id.toNat

/-- The SNAPSHOT commands in progress whose WHAT satisfies `f` take their state. -/
def State.takeSnapshots (s : State) (f : Nat → Bool) (k : Nat) : State :=
  s.each [0, 1] fun s h =>
    match (s.host h).cmd with
    | some a => if a.op = 8 ∧ f (descWord a.desc 1 % 256) then s.takeSnapshot h a k else s
    | none => s

/-- The oldest waiting step is associated, whole; a step that lies more than 8 after the last one enters recovery (R358, R360, R372). -/
def State.associateNext (s : State) (k te : Nat) (rest : List (Nat × Nat)) : State :=
  let gap := match s.trk.lastAssoc with
    | some j => decide (j + 8 < k)
    | none => false
  let s1 := if gap then s.enterRecovery else s
  let s2 := s1.associate k te (s1.bit 0x60014 0 || decide (0 < s1.trk.rleft))
  { s2 with trk := { s2.trk with waiting := rest, lastAssoc := some k, rleft := s2.trk.rleft - 1, behind := decide (2 ≤ rest.length) } }

/-- `TRACK_ASSOCIATION` (R358, R360, R372, R428, R504): the association of the oldest waiting step that is not discarded, and the snapshots that wait for it. -/
def execTrackAssociation (s : State) (ecc : Ecc := .clean) : Res :=
  .next (if s.clocked && !s.trk.waiting.isEmpty then
      let d := (s.trackEcc ecc).discardOld s.trk.waiting
      match d.2 with
      | [] => { d.1 with trk := { d.1.trk with waiting := [], behind := false } }
      | k :: rest => (d.1.associateNext k.1 k.2 rest).takeSnapshots (fun w => w == 0) k.1
    else s)

/-! ## Semaphores (R432 to R435) -/

/-- A free semaphore: LEASE and LEFT zero. -/
def Sem.free : Sem := ⟨none, 0, 0⟩

/-- A HOST NOTICE: CAUSE, the port concerned, the semaphores released. -/
def hostNotice (cause : Nat) (port : Fin 2) : DWord := BitVec.ofNat 64 (port.val * 256 + cause)

/-- `SEM_ACQUIRE` (R433, R445, R447): a read with a byte enable set takes a free semaphore, once no earlier write of its port waits. -/
def execSemAcquire (hp : Fin 2) (n : Fin 64) (be : BitVec 4) (s : State) : Res :=
  .next (if (s.host hp).up && (s.host hp).late.isEmpty && decide (be ≠ 0) && (s.sem n).owner.isNone then s.setSem n ⟨some hp, 0, 0⟩ else s)

/-- A write to a semaphore: REL releases, else LEASE is set with LEFT; by another than the owner it is ignored and counted (R434). -/
def State.writeSem (s : State) (hp : Fin 2) (n : Fin 64) (v : Word) : State :=
  if (s.sem n).owner = some hp then
    if v.getLsbD 16 then s.setSem n Sem.free
    else
      let l : Byte := BitVec.ofNat 8 (bitsOf v.toNat 15 8)
      s.setSem n ⟨some hp, l, l⟩
  else s.bump (hifR hp 0x50)

/-- LEFT counts down at a ridge close (R435). -/
def Sem.tick (x : Sem) : Sem := if x.owner.isSome && x.lease != 0 && x.left != 0 then { x with left := x.left - 1 } else x

/-- Every held semaphore with a lease counts a ridge. -/
def State.tickSems (s : State) : State := { s with sems := s.sems.map Sem.tick }

/-- Has a semaphore's lease run out? -/
def Sem.spent (x : Sem) : Bool := x.owner.isSome && x.lease != 0 && x.left == 0

/-- `LEASE_EXPIRY` (R435): a semaphore whose LEFT has reached 0 is released. -/
def execLeaseExpiry (n : Fin 64) (s : State) : Res :=
  .next (if (s.sem n).spent then
      let hp : Fin 2 := (s.sem n).owner.getD 0
      (s.setSem n Sem.free).notice 0x06 (hostNotice 3 hp) (BitVec.ofNat 64 (2 ^ n.val))
    else s)

/-! ## The links (R439, R440) -/

/-- The other host port. -/
def peer (hp : Fin 2) : Fin 2 := if hp = 0 then 1 else 0

/-- Is a register key one of a port's own: its HIF block or its mailbox? -/
def ownKey (hp : Fin 2) (key : Nat) : Bool := key / portStride == hp.val &&
  (decide (0x10000 ≤ key % portStride ∧ key % portStride < 0x20000) || decide (0x100 ≤ key % portStride ∧ key % portStride < 0x120))

/-- The port's HIF registers, counters and copies return to their reset values. -/
def State.clearHif (s : State) (hp : Fin 2) : State :=
  let t := s.dropRegs (ownKey hp)
  { t with
    cnt := s.cnt.filter fun kv => !ownKey hp kv.1
    lat := s.lat.filter fun kv => !ownKey hp kv.1 }

/-- The command in progress of a port is abandoned without a record: what it waits for before its commit point is undone (R424, R439). -/
def State.undoCmd (s : State) (hp : Fin 2) : State :=
  match (s.host hp).cmd with
  | none => s
  | some a =>
    if a.committed then s
    else if a.op = 4 then
      match s.slots.swap with
      | some (o, _) => if o = hp ∧ ¬s.slots.swapped then { s with slots := { s.slots with swap := none } } else s
      | none => s
    else if a.op = 11 then
      if s.pwr.qOwner = some hp then { s with pwr := { s.pwr with queued := none, qOwner := none } }
      else if s.pwr.owner = some hp then s.abandonEntry 3 else s
    else s

/-- Mask of the semaphores a port holds. -/
def State.heldSems (s : State) (hp : Fin 2) : Nat :=
  (List.finRange 64).foldl (fun a n => a + bitNo ((s.sem n).owner == some hp) n.val) 0

/-- `LINK_LOSS` (R439): from that cycle on nothing is written to the port; its semaphores, commands, staged and unwritten records, HIF registers and mailbox go, and the other port is told. -/
def execLinkLoss (hp : Fin 2) (s : State) : Res :=
  .next (if (s.host hp).up then
      let held := s.heldSems hp
      let s1 := { s with sems := s.sems.map fun (x : Sem) => if x.owner = some hp then Sem.free else x }
      let s2 := ((s1.modHost hp fun x => { x with up := false }).undoCmd hp).clearHif hp
      let s3 := s2.setHost hp { HostPort.reset with lost := true }
      s3.noticeTo (peer hp) 0x06 (hostNotice 1 hp) (BitVec.ofNat 64 held)
    else s)

/-- The wake notices a port is owed are posted (R477). -/
def State.payOwed (s : State) (hp : Fin 2) : State :=
  let l := (s.host hp).owed
  (s.modHost hp fun x => { x with owed := [] }).each l fun t w =>
    t.noticeTo hp 0x07 (BitVec.ofNat 64 (4 * 2 ^ 8 + bitsOf w.toNat 9 8 * 2 ^ 4 + t.pwr.state.toNat)) (BitVec.ofNat 64 w.toNat)

/-- Is an entry to S3 past its commit, or S3 reached: are the links held down? (R440) -/
def State.linksHeld (s : State) : Bool := decide (s.pwr.state = 3) || (s.pwr.committed && s.pwr.entry == some 3)

/-- `LINK_UP` (R439, R442, R477): the data link is up at a generation, which takes a booted device or the ROM's host boot; after a loss the other port is told. The records that waited drain (R421). -/
def execLinkUp (hp : Fin 2) (gen : BitVec 2) (s : State) : Res :=
  .next (if (s.host hp).up || s.linksHeld || s.sec.halted then s
    else
      let s1 := s.modHost hp fun x => { x with up := true, bme := true, gen := gen, lost := false }
      let s2 := if (s.host hp).lost then s1.noticeTo (peer hp) 0x06 (hostNotice 2 hp) 0 else s1
      ((s2.drainOut hp).payOwed hp).updAttn)

/-! ## Records from cells (R417 to R421) -/

/-- Bytes of the staging area of a port (R420). -/
def stagingBytes : Nat := 67108864

/-- Stage a CELL record on one port, if it has the ring: lost and counted where staging is full (R417, R421). -/
def State.stageOn (s : State) (h : Fin 2) (c : Fin 256) (ring : Nat) (late : Bool) (words : List DWord) : State :=
  if decide (2 ≤ ring) && decide (2 ≤ s.ringKind h ring) && s.ringOn h ring then
    let s1 := if late then s.bump (hifR h 0x4C) else s
    if stagingBytes < (s1.host h).stagedBytes + 8 * words.length then s1.bump (hifR h 0x48)
    else s1.modHost h fun x => { x with staged := x.staged ++ [⟨c, ring, words⟩], stagedBytes := x.stagedBytes + 8 * words.length }
  else s

/-- An item that the output bridge of queue 248 hands to the host interface (R418 to R421). -/
def State.stageItem (s : State) (i : BridgeItem) : State :=
  let w0 := itemWord i.words 0
  if itemKind i.words = 9 then
    let payload := BitVec.ofNat 64 (i.cell.val + bitsOf w0 51 44 * 256) :: i.words.drop 1
    let r := recordOf 0x17 (stepIdx s.step.k) (s.endOf s.step.k) payload
    s.each [0, 1] fun t h => t.stageOn h i.cell (bitsOf w0 59 52) (decide (i.step < s.step.k)) r
  else s.each [0, 1] fun t h => t.bump (hifR h 0x44)

/-- `CELL_ITEM` (R127, R418, R419): the next item of queue 248 goes to the host interface, unless its output queues hold the bridges back (log entry 64). -/
def execCellItem (c : Fin 256) (s : State) (u : Upset := .none) : Res :=
  .next (if s.clocked && !s.outHeld then
      match s.bridgeItem c 248 u with
      | none => s
      | some (i, t) => (t.chargeItem c i.words.length).stageItem i
    else s)

/-- A record to an output or token ring of one port, if it is in use. -/
def State.postRing (s : State) (h : Fin 2) (n : Nat) (words : List DWord) : State :=
  if decide (2 ≤ s.ringKind h n) && s.ringOn h n then s.putRecord h n words else s

/-- The staged records go into their rings in arrival order (R420). -/
def State.writeStaged (s : State) : State :=
  s.each [0, 1] fun s h =>
    let l := (s.host h).staged
    (s.modHost h fun x => { x with staged := [], stagedBytes := 0 }).each l fun t r => t.postRing h r.ring r.words

/-! ## The mailbox (R460 to R464, R491) -/

/-- A 64-bit value in D1:D0, then D2 and D3. -/
def mbxWords (v d2 d3 : Nat) : Vector Word 4 :=
  #v[BitVec.ofNat 32 v, BitVec.ofNat 32 (v / 2 ^ 32), BitVec.ofNat 32 d2, BitVec.ofNat 32 d3]

/-- The ledger totals that have a selector (R491): those by class are kept in parts of a quantum. -/
def State.ledgerTotal (s : State) (sel : Nat) : Option Nat :=
  let v := assocGet s.led.totals 0 sel
  if 0x120 ≤ sel ∧ sel < 0x12E then some (v / 262144)
  else if (0x100 ≤ sel ∧ sel < 0x105) ∨ (0x110 ≤ sel ∧ sel < 0x120) ∨ sel = 0x130 ∨ sel = 0x131 then some v
  else none

/-- A selector's port. -/
def selPort (sel : Nat) : Fin 16 := ⟨sel % 16, Nat.mod_lt _ (by decide)⟩

/-- The value of a mailbox selector, absent where it is reserved (R464). -/
def State.mbxValue (s : State) (sel : Nat) : Option (Vector Word 4) :=
  let x := s.port (selPort sel)
  if sel = 0 then some (mbxWords (s.horizon.getD 0) (bitOf s.horizon.isSome) 0)
  else if sel = 1 then
    some (if s.step.running then mbxWords (s.step.k * s.period) (stepIdx s.step.k).toNat 1 else mbxWords 0 0 0)
  else if sel = 2 then
    some (match s.step.closed with | some (k, t) => mbxWords t (stepIdx k).toNat 1 | none => mbxWords 0 0 0)
  else if 0x10 ≤ sel ∧ sel < 0x20 then
    some (mbxWords (x.horizon.getD 0) (bitNo (x.mode == .active) 0 + bitNo (x.mode == .silent) 1 + bitNo (x.mode == .returning) 2) 0)
  else if 0x20 ≤ sel ∧ sel < 0x30 then
    some (mbxWords (x.baseHi.toNat * 2 ^ 34 + x.baseLo.toNat * 64) (bitNo x.staged.isSome 31 + (x.staged.getD 0).toNat) (bitOf x.notb))
  else if 0x30 ≤ sel ∧ sel < 0x40 then
    some (match x.trig with | some (t, c) => mbxWords t (2 ^ 31 + c) 0 | none => mbxWords 0 0 0)
  else if sel = 0x40 then
    some #v[BitVec.ofInt 32 s.fus.gox, BitVec.ofInt 32 s.fus.goy, s.fus.evalStep, 0]
  else if 0x100 ≤ sel ∧ sel < 0x140 then (s.ledgerTotal sel).map fun v => mbxWords v 0 0
  else if sel = 0x200 then some (mbxWords s.step.ridges 0 0)
  else if sel = 0x201 then some (mbxWords ((List.finRange 16).foldl (fun a p => a + (s.port p).events) 0) 0 0)
  else if 0x210 ≤ sel ∧ sel < 0x220 then some (mbxWords x.events 0 0)
  else if sel = 0x220 then some (mbxWords s.ego.total 0 0)
  else if sel = 0x300 then some (mbxWords s.slots.lastSnap.toNat 0 0)
  else if sel = 0x400 then some (mbxWords Config.serial.toNat 0 0)
  else none

/-- A write of the selector (R460, R462). -/
def State.selectMbx (s : State) (hp : Fin 2) (sel : BitVec 16) : State :=
  s.modHost hp fun x => { x with mbx := { x.mbx with sel := sel, valid := false, badsel := false, capturing := true } }

/-- `MAILBOX_CAPTURE` (R461 to R464): the capture in progress of a port completes with the value as it stands. -/
def execMailboxCapture (hp : Fin 2) (s : State) : Res :=
  .next (let m := (s.host hp).mbx
    if m.capturing then
      let v := s.mbxValue m.sel.toNat
      s.modHost hp fun x => { x with mbx := { x.mbx with
          valid := true, badsel := v.isNone, capturing := false
          step := s.statusStep, d := v.getD (Vector.replicate 4 0) } }
    else s)

/-! ## Timeouts (R424) -/

/-- TIMEOUT of a descriptor; 0 is none. -/
def timeoutOf (d : Descriptor) : Nat := descWord d 0 % 2 ^ 32

/-- Opcode and TAG of a descriptor. -/
def opOf' (d : Descriptor) : Nat := bitsOf (descWord d 0) 63 56
def tagOf (d : Descriptor) : BitVec 16 := BitVec.ofNat 16 (bitsOf (descWord d 0) 47 32)

/-- The ring count of the fetched descriptor `i` places on from the next one to start. -/
def HostPort.ahead (x : HostPort) (i : Nat) : Word := x.started + BitVec.ofNat 32 i

/-- Does a fetched descriptor `i` places on wait for its turn? (R422, R424) -/
def HostPort.waits (x : HostPort) (i : Nat) : Bool := decide (i < (x.fetched - x.started).toNat) && !x.gone.contains (x.ahead i)

/-- `COMMAND_TIMEOUT` (R424): a command with a timeout that has not reached its commit point, in progress or fetched and waiting its turn, is abandoned without effect and completes TIMEOUT. -/
def execCommandTimeout (hp : Fin 2) (s : State) (ahead : Option (Nat × Descriptor) := none) : Res :=
  .next (match ahead with
    | some (i, d) =>
      if (s.host hp).waits i && timeoutOf d != 0 then
        ((s.modHost hp fun x => { x with gone := x.ahead i :: x.gone }).bump (hifR hp 0x58)).completion hp (opOf' d) (tagOf d) stTimeout 0 0
      else s
    | none =>
      match (s.host hp).cmd with
      | none => s
      | some a =>
        if a.committed || timeoutOf a.desc == 0 then s
        else ((s.undoCmd hp).bump (hifR hp 0x58)).complete hp stTimeout 0 0)

end Sys2Proof.Machine
end

