-- ==== Sys2Proof/Machine/Boot.lean ====
section
/-! DEFINITION. Reset, boot, discovery and readiness (01, 19, 20), measurements of the tables, tamper. -/

namespace Sys2Proof.Machine

/-! ## Measurements of the tables (R530 to R532) -/

/-- The digest of a table of `n` words over its full size. -/
def tableDigest (t : Assoc Word) (n : Nat) : List Byte :=
  natLe 32 (Config.sha256 ((List.range n).flatMap fun i => natLe 4 (assocGet t 0 i).toNat)).toNat

/-- M3: the active intake banks, in port order and then kind order. -/
def State.intakeMeasure (s : State) : BitVec 256 :=
  Config.sha256 (s.ports.toList.flatMap fun x =>
    tableDigest x.active.hot 131072 ++ tableDigest x.active.mesh 1024 ++ tableDigest x.active.calrec 24 ++ tableDigest x.active.rmap 2048)

/-- Words of a coverage or zone map: 1,024 words hold 64 sectors of 16 maps. -/
def State.fusionMeasure (s : State) : BitVec 256 :=
  Config.sha256 (tableDigest s.fus.active.zone 1024 ++ tableDigest s.fus.active.cov 1024 ++ tableDigest s.fus.active.mext 192)

/-- The measurement part of a report, bytes 72 to 311 (R533). -/
def State.measureBytes (s : State) : List Byte :=
  let x := s.sec
  let sg (o : Option Slot) : Nat := match o with | some y => y.signer.toNat | none => 0
  let sv (o : Option Slot) : Nat := match o with | some y => y.svn.toNat | none => 0
  let ms := x.m.toList.flatMap fun m => natLe 32 m.toNat
  natLe 4 (x.enrolled.toNat + x.revoked.toNat * 16 + bitNo x.reqsig 8 + x.dbg.toNat * 2 ^ 12) ++
  natLe 4 (x.svnFw.toNat + x.svnImg.toNat * 2 ^ 8 + sv s.slots.active * 2 ^ 16 + sv s.slots.staged * 2 ^ 24) ++
  natLe 4 (sg s.slots.active + sg s.slots.staged * 16 + bitNo s.slots.active.isSome 8 + bitNo s.slots.staged.isSome 9) ++
  natLe 4 0 ++ ms ++ natLe 32 (Config.sha256 ms).toNat

/-- An attestation report over a nonce; the state's free counter indexes the salt (R533). -/
def State.report (s : State) (nonce : List Byte) : List Byte :=
  let at' : Nat × Nat := match s.step.closed with | some (k, t) => ((stepIdx k).toNat, t) | none => (0xFFFFFFFF, 0)
  let body := natLe 4 0x41545331 ++ natLe 4 1720 ++ (List.range 32).map (fun i => nonce.getD i 0) ++ natLe 8 Config.serial.toNat ++
    natLe 4 (s.idWord 0) ++ natLe 4 (s.idWord 1) ++ natLe 4 at'.1 ++ natLe 4 0 ++ natLe 8 at'.2 ++ s.measureBytes ++
    (List.range 1024).map Config.devCert
  body ++ (List.range 384).map fun j => Config.signIdentity s.free body j

/-- Data a command writes to host memory. -/
def State.putData (s : State) (h : Fin 2) (addr : Nat) (bytes : List Byte) : State :=
  { s with hostOut := HostWrite.data h addr bytes :: s.hostOut }

/-- ATTEST signs and completes (R533, R535). -/
def State.signReport (s : State) (h : Fin 2) (a : ActiveCmd) : State :=
  if decide (s.sec.dbg = 2) || s.sec.trngFail then s.complete h stState 0 0
  else (((s.putData h (descWord a.desc 2) (s.report a.data)).tick).bump 0xC0084).complete h stOk 1720 0

/-! ## Discovery (R14 to R21) -/

/-- Is a position healthy: cell and router pass? (R15) -/
def Discovery.isHealthy (d : Discovery) (p : Fin 256) : Bool := (d.tests[p.val]) == .healthy

/-- The healthy positions of a clutch, by row and then column. -/
def Discovery.healthyIn (d : Discovery) (cl : Fin 16) : List (Fin 256) :=
  (List.finRange 256).filter fun p => clutchAt p == cl && d.isHealthy p

/-- May a clutch take part: its hub passes and at most one of its cells is not healthy? (R21) -/
def Discovery.eligible (d : Discovery) (cl : Fin 16) : Bool := !d.hubFail.getLsbD cl.val && decide (15 ≤ (d.healthyIn cl).length)

/-- The logical cell a position serves (R16). -/
def Discovery.serves (d : Discovery) (p : Fin 256) : Option (Fin 256) :=
  let cl := clutchAt p
  if d.hubFail.getLsbD cl.val then none
  else (((d.healthyIn cl).zip (List.finRange 16)).find? fun x => x.1 == p).map fun x => cellOf cl x.2

/-- A logical cell after discovery: where the hub passes, in its place or hosted; removed in a clutch that takes no part (R16, R21, R509). -/
def Discovery.cellFor (d : Discovery) (c : Fin 256) : Cell :=
  let cl := clutchOf c
  let own := decide (c.val % 16 < (d.healthyIn cl).length)
  let x := if own || d.hubFail.getLsbD cl.val then Cell.reset else hostedCell 0
  { x with removed := !d.eligible cl, cause := if own then 0 else 1 }

/-- The Steward's discovery (R14 to R16). -/
def State.discover (s : State) : State :=
  let d := s.disc
  { s with
    disc := { d with
      lcell := Vector.ofFn d.serves
      healthy := BitVec.ofNat 256 ((List.finRange 256).foldl (fun a p => a + bitNo (d.isHealthy p) p.val) 0) }
    cells := Vector.ofFn d.cellFor }

/-! ## Boot (R523 to R526, R546) -/

/-- The values of the OTP lifecycle fields. -/
def Security.lifeFields (x : Security) : List Nat :=
  [x.enrolled.toNat, x.revoked.toNat, bitOf x.reqsig, x.svnFw.toNat, x.svnImg.toNat]

/-- Fresh XTS keys of LPDDR5X (R524). -/
def State.drawKeys (s : State) : State :=
  ({ s with sec := { s.sec with memKeys := some (Config.trng s.free, Config.trng (s.free + 1)) } }).ticks 2

/-- The tweak of the LPDDR5X unit an address lies in: the device address divided by 128 (R402, R524). -/
def unitTweak (addr : Nat) : Nat := addr / 128

/-- What a unit of the scene memory region holds in LPDDR5X, by its slot: ciphertext under the keys of this boot; without keys there is none (R402, R524). -/
def State.unitStored (s : State) (slot : Nat) : Option (List Byte) :=
  s.sec.memKeys.map fun k => Config.xtsUnit k.1 k.2 (unitTweak (slotAddress slot)) (memBytes s.scm.mem (128 * slot) 128)

/-- The ROM starts firmware: M0, M5, the firmware counter, memory keys, then discovery (R524, R526). -/
def State.startFirmware (s : State) (version : Word) (digest : BitVec 256) (advance : Bool) (svn : BitVec 6) : State :=
  let s1 := s.setM 0 (extendBy 0 digest)
  let s2 := s1.setM 5 (extendBy (s1.meas 5) (Config.lifeDigest s1.sec.lifeFields))
  let s3 := if advance && decide (s2.sec.svnFw < svn) then
      ({ s2 with sec := { s2.sec with svnFw := svn } }).setM 5 (extendBy (s2.meas 5) digest)
    else s2
  let s4 := (s3.setM 3 s3.intakeMeasure).setM 4 s3.fusionMeasure
  let s5 := if s4.sec.trngFail then s4 else s4.drawKeys
  ({ s5 with sec := { s5.sec with running := true, fw := version, idKey := true } }).discover

/-- KIND, ADVANCE, ENC, SVN and SIGNER in the header of a container (R520). -/
def headKind (h : Vector DWord 32) : Nat := bitsOf h[0].toNat 31 24
def headAdvance (h : Vector DWord 32) : Bool := bitAt h[0].toNat 17
def headEnc (h : Vector DWord 32) : Bool := bitAt h[0].toNat 16
def headSvn (h : Vector DWord 32) : BitVec 6 := BitVec.ofNat 6 (bitsOf h[0].toNat 13 8)
def headSigner (h : Vector DWord 32) : BitVec 4 := BitVec.ofNat 4 (bitsOf h[0].toNat 3 0)

/-- A firmware copy as a reset finds it in flash: what this device has written over it, else what was given (R523, R525). -/
def State.flashCopy (s : State) (b : BootInputs) (i : Nat) : Option FlashCopy :=
  match s.sec.flash.find? fun p => p.1 == i with
  | some p => some p.2
  | none => b.flash.getD i none

/-- The order in which the two copies are tried (R523). -/
def flashOrder (x y : Option FlashCopy) : List (Nat × FlashCopy) :=
  match x, y with
  | some a, some b => if headSvn a.head < headSvn b.head then [(1, b), (0, a)] else [(0, a), (1, b)]
  | some a, none => [(0, a)]
  | none, some b => [(1, b)]
  | none, none => []

/-- The first copy that passes R521. -/
def State.flashPick (s : State) (b : BootInputs) : Option (Nat × FlashCopy) :=
  (flashOrder (s.flashCopy b 0) (s.flashCopy b 1)).find? fun c => c.2.sound && decide (s.sec.svnFw ≤ headSvn c.2.head)

/-- Does the ROM wait for firmware from a host? (R546, R547) -/
def State.hostBoot (s : State) : Bool := !s.sec.running && s.disc.boot.getLsbD 2

/-- Everything at its reset value but the command queue, host memory, the OTP and what a reset keeps (R518, R542, R543, R545). -/
def State.cleared (s : State) (bootsel : BitVec 2) (tamper : Word) (b : BootInputs) : State :=
  { State.reset with
    pending := s.pending, free := s.free, hostOut := s.hostOut
    sec := { Security.reset with
      enrolled := s.sec.enrolled, revoked := s.sec.revoked, reqsig := s.sec.reqsig, keyHash := s.sec.keyHash, imgKey := s.sec.imgKey
      svnFw := s.sec.svnFw, svnImg := s.sec.svnImg, tamper := tamper, trngFail := !b.trngOk, flash := s.sec.flash }
    disc := { Discovery.reset with
      boot := BitVec.ofNat 32 bootsel.toNat, hubFail := b.hubFail
      tests := b.failing.foldl (fun v p => v.set p.1.val p.2 p.1.isLt) Discovery.reset.tests } }

/-- The ROM after a reset (R523, R546): it starts firmware, waits for a host, or halts. -/
def State.romBoot (s : State) (b : BootInputs) : State :=
  let sel := s.disc.boot.toNat % 4
  match (if sel < 2 then s.flashPick b else none) with
  | some (i, c) =>
    ({ s with sec := { s.sec with booted := some i } }).startFirmware c.version c.digest (headAdvance c.head) (headSvn c.head)
  | none =>
    if sel = 1 ∨ sel = 2 then { s with disc := { s.disc with boot := s.disc.boot ||| 4 } }
    else { s with sec := { s.sec with halted := true } }

/-- `POWER_ON_RESET` (R542): the pins sampled, the tamper record cleared. -/
def execPowerOnReset (b : BootInputs) (s : State) : Res := .next ((s.cleared b.bootsel 0 b).romBoot b)

/-- `SYSTEM_RESET` (R542): the pins sampled, the tamper record kept. -/
def execSystemReset (b : BootInputs) (s : State) : Res := .next ((s.cleared b.bootsel s.sec.tamper b).romBoot b)

/-- A tamper reset: SRC and LAST written, BOOTSEL kept (R540, R542). -/
def State.tamperReset (s : State) (src : Nat) (b : BootInputs) : State :=
  (s.cleared (BitVec.ofNat 2 s.disc.boot.toNat) (BitVec.ofNat 32 (src % 16 * 16 + 1)) b).romBoot b

/-- `TAMPER_DETECT` (R540): a glitch on a rail (1) or a clock (2). -/
def execTamperDetect (src : BitVec 4) (b : BootInputs) (s : State) : Res :=
  .next (if src = 1 ∨ src = 2 then s.tamperReset src.toNat b else s)

/-- `JTAG_INSTRUCTION` (R539): any but BYPASS, IDCODE and SAMPLE/PRELOAD is a tamper event. -/
def execJtagInstruction (i : JtagInstr) (b : BootInputs) (s : State) : Res :=
  .next (if i = .bypass ∨ i = .idcode ∨ i = .samplePreload then s else s.tamperReset 3 b)

/-- `TRNG_HEALTH_FAIL` (R525): TRNGFAIL is set; the keys in use remain. -/
def execTrngHealthFail (s : State) : Res := .next { s with sec := { s.sec with trngFail := true } }

/-! ## Readiness (R466, R548 to R551) -/

/-- Set a bit of `DEV_READY` above the clutches. -/
def State.setReady (s : State) (i : Nat) : State :=
  { s with disc := { s.disc with ready := s.disc.ready ||| BitVec.ofNat 7 (2 ^ i) } }

/-- The cells of the image in one clutch start, if the steps run: RUN is 1, or a step is open (R550; DEDUCED, log entry 76). -/
def State.startClutch (s : State) (cl : Fin 16) : State :=
  if s.bit 0x204 0 || s.step.running then s.each (s.imageCells.filter fun c => clutchOf c == cl) State.runCell else s

/-- A clutch comes into service: its routes written, loaded, its cells started (R16, R21, R550); `ups` are the upsets its load meets (R163). -/
def State.clutchIn (s : State) (cl : Fin 16) (ups : CellUpsets) : State :=
  if s.disc.eligible cl && !(s.clutch cl).served then
    let s1 := s.modClutch cl fun x => { x with inService := true, served := true }
    let mask := (List.finRange 16).foldl (fun a i => a + 2 ^ (cellOf cl i).val) 0
    let s2 := ({ s1 with disc := { s1.disc with routed := s1.disc.routed ||| BitVec.ofNat 256 mask } }).writeRoutes
    let s3 := if s2.slots.active.isSome then (s2.meetAll ups).loadClutch cl else s2
    s3.startClutch cl
  else s

/-- `FUNCTION_READY` (R466, R548): a function is ready once those it depends on are. -/
def execFunctionReady (fn : DevFunction) (s : State) (ups : CellUpsets := []) : Res :=
  .next (match fn with
    | .hostPort h => if s.sec.running || s.hostBoot then s.setReady h.val else s
    | .clutch cl => if s.sec.running then s.clutchIn cl ups else s
    | .sensor n =>
      if s.sec.running then { s with disc := { s.disc with readySp := s.disc.readySp ||| BitVec.ofNat 16 (2 ^ n.val) } } else s
    | .mem => if s.sec.running && s.sec.memKeys.isSome && s.disc.memSts.getLsbD 0 then s.setReady 2 else s
    | .fus => if s.sec.running then s.setReady 3 else s
    | .trk => if s.sec.running then s.setReady 4 else s
    | .scm => if s.disc.ready.getLsbD 2 then s.setReady 5 else s
    | .mot => if s.sec.running then s.setReady 6 else s)

/-- `MEMORY_TRAINING_DONE` (R551): the capacity and `SCM_AVAIL`, and MEM once the keys are there; or the failing channel and its code. -/
def execMemoryTrainingDone (r : Training) (s : State) : Res :=
  .next (if s.sec.running && s.disc.memSts == 0 then
      match r with
      | .done gib =>
        let s1 := { s with
          disc := { s.disc with memSts := 1, memGib := BitVec.ofNat 8 gib }
          scm := { s.scm with avail := (992 * gib - 2048) / 64 } }
        if s1.sec.memKeys.isSome then s1.setReady 2 else s1
      | .failed ch code =>
        { s with disc := { s.disc with memSts := BitVec.ofNat 32 (2 + ch.toNat * 2 ^ 8 + code.toNat * 2 ^ 12) } }
    else s)

end Sys2Proof.Machine
end

