-- ==== Sys2Proof/Machine/Delta.lean ====
section
/-! DEFINITION. Delta convolution: `DCONV` of the array and `FCONV` of the tadpole engine (R261 to R263, R267, R268, R288). -/

namespace Sys2Proof.Machine

/-- A tap that hits the stored map: output column and row, filter column and row. -/
structure TapHit where
  ox : Nat
  oy : Nat
  kx : Nat
  ky : Nat
  deriving DecidableEq, Repr

/-- Output position on one axis that tap `k` reaches from input position `x` (R261). -/
def tapOut (x pl k dx sx w : Nat) : Option Nat :=
  let n : Int := ((x + pl : Nat) : Int) - (k * dx : Nat)
  if n % (sx : Int) = 0 ∧ 0 ≤ n / (sx : Int) ∧ n / (sx : Int) < w then some (n / (sx : Int)).toNat else none

/-- The taps that hit, in ascending (oy, ox). -/
def tapHits (gd gf : Desc) (x y : Nat) : List TapHit :=
  ((sitesOf gf.w gf.h).filterMap fun t =>
    match tapOut x gd.pl t.1 gd.dx gd.sx gd.w, tapOut y gd.pt t.2 gd.dy gd.sy gd.h with
    | some ox, some oy => some ⟨ox, oy, t.1, t.2⟩
    | _, _ => none).reverse

/-- The filter and stored output formats of a delta operation, by ESIZE: int8 or int4, and int16 or int32 (R262). -/
def deltaFormats (gf gd : Desc) (act : Nat) : List Nat :=
  if decide (gf.esize ≤ 1) && decide (2 ≤ gd.esize) && act != 0 then [] else [0x12]

/-- What a delta operation leaves so far: memory, items, saturations. -/
structure DeltaEnd where
  s : State
  items : List (List DWord)
  sats : Nat
  deriving DecidableEq, Repr

/-- The activation of a stored value as int8, and whether the conversion saturated (R249, R261). -/
def actOf (shift act : Nat) (z : Int) : Int × Bool := satTo 8 (actInt act (shiftRound shift z))

/-- One output site: its changes for channels 0 upward, from the state `s0` before the operation (R261, R262). -/
def State.deltaSite (s0 : State) (c : Fin 256) (gd gf : Desc) (shift act layer : Nat) (din : List (Nat × Int)) (e : DeltaEnd) (t : TapHit) : DeltaEnd :=
  let dz := (List.range gd.c).map fun co =>
    din.foldl (fun a d => a + signedOf gf.bits (s0.elem c gf t.kx t.ky d.1 co) * d.2) (0 : Int)
  if dz.all fun v => v == 0 then e
  else
    let zs := dz.zipIdx.map fun v =>
      let zo := signedOf gd.bits (s0.elem c gd t.ox t.oy v.2 0)
      let z := satTo gd.bits (zo + v.1)
      let a := actOf shift act z.1
      (z.1, a.1 - (actOf shift act zo).1, bitOf z.2 + (if act = 3 then 0 else bitOf a.2))
    { s := zs.zipIdx.foldl (fun s z => s.setElem c gd t.ox t.oy z.2 0 (patternOf gd.bits z.1.1)) e.s
      items := e.items ++ (if act = 3 then [] else deltaItems layer t.ox t.oy (zs.map fun z => z.2.1))
      sats := zs.foldl (fun a z => a + z.2.2) e.sats }

/-- Does any access of a delta operation meet the limit? -/
def State.deltaBeyond (s : State) (c : Fin 256) (gd gf : Desc) (din : List (Nat × Int)) (l : List TapHit) : Bool :=
  l.any fun t => (List.range gd.c).any fun co =>
    s.elemBeyond c gd t.ox t.oy co 0 || din.any fun d => s.elemBeyond c gf t.kx t.ky d.1 co

/-- A delta operation once its descriptors are known to be sound. -/
def State.deltaRun (s : State) (c : Fin 256) (f : Fields) (engine : Nat) (gd gf : Desc) (shift act layer : Nat) (q : Fin 256)
    (din : List (Nat × Int)) (hits : List TapHit) (codes : List Nat) : Issue :=
  let r := hits.foldl (s.deltaSite c gd gf shift act layer din) ⟨s, [], 0⟩
  (r.s.countSat c r.sats).engineDone c f engine [8, 9] {
    s := r.s.countSat c r.sats
    codes := codes ++ (if s.deltaBeyond c gd gf din hits then [2] else []) ++ (if 0 < r.sats then [0x15] else [])
    count := r.items.length, queue := some q, items := r.items }

/-- `DCONV` (R261, R262, R288). -/
def execDconv (c : Fin 256) (f : Fields) (u : Upset) (s : State) : Res :=
  let site : BitVec 5 := BitVec.ofNat 5 (immOf f 29 25)
  let m := spanRegs (s.descAt c f.a).c
  .next (s.issueToken c f ⟨.g, .g, .v, im 33 2, decide (4 < m) || decide (f.b.toNat + m ≤ 16)⟩ false (sId site :: spanIds f.b (min m 4)) 0x11 fun s =>
    s.underUpset c u fun s =>
    let gd := s.descAt c f.d
    let gf := s.descAt c f.a
    let act := immOf f 3 2
    let bad := gd.bad || gf.bad || decide (256 < gf.c) || decide (15 < gf.w) || decide (15 < gf.h) || f.b.toNat % m != 0 || gd.c != gf.n
    match (if bad then [4] else []) ++ deltaFormats gf gd act with
    | code :: t => s.engineDone c f 0x11 [] (.none s (lowestCode (code :: t)))
    | [] => s.underResidue c u (fun _ => false) fun s codes =>
      let w := s.sreg c site
      let hits := tapHits gd gf (siteX w) (siteY w)
      let din := (List.range gf.c).map fun ci => (ci, (s.cell c).deltaIn f.b ci)
      (s.chargeArray c 0 0 hits.length gf.c gf.n).deltaRun c f 0x11 gd gf (immOf f 8 4) act (immOf f 16 9) (queueNo (immOf f 24 17)) din hits codes)

/-- `FCONV` in FIRST mode (R267, R288): one added to the site word's input channel. -/
def execFconvFirst (c : Fin 256) (f : Fields) (u : Upset) (s : State) : Res :=
  .next (s.issueToken c f ⟨.g, .g, .s, im 33 2, true⟩ false [sId f.b] 0x14 fun s => s.underUpset c u fun s =>
    let gd := s.descAt c f.d
    let gf := s.descAt c f.a
    let w := s.sreg c f.b
    let act := immOf f 7 6
    let bad := gd.bad || gf.bad || decide (4 < gf.c) || decide (64 < gf.n) || decide (15 < gf.w) || decide (15 < gf.h) || gd.c != gf.n
    match (if bad then [4] else []) ++ (if gf.c ≤ siteC w then [0x11] else []) ++ deltaFormats gf gd act with
    | code :: t => s.engineDone c f 0x14 [] (.none s (lowestCode (code :: t)))
    | [] =>
      let hits := tapHits gd gf (siteX w) (siteY w)
      (s.charge c 5 (ceilDiv (hits.length * gf.n) 128)).deltaRun c f 0x14 gd gf (immOf f 12 8) act (immOf f 20 13) (queueNo (immOf f 28 21))
        [(siteC w, 1)] hits [])

/-- `FCONV` in LAST mode (R268): a dense convolution of few output channels. -/
def execFconvLast (c : Fin 256) (f : Fields) (u : Upset) (s : State) : Res :=
  .next (s.issueToken c f ⟨.g, .g, .g, im 33 2, true⟩ false [] 0x14 fun s => s.underUpset c u fun s =>
    let ga := s.descAt c f.a
    let gb := s.descAt c f.b
    let gd := s.descAt c f.d
    let fmt := immOf f 5 2
    let act := immOf f 7 6
    let bad := ga.bad || gb.bad || gd.bad || ga.c != gb.c || decide (15 < gb.w) || decide (15 < gb.h) || decide (8 < gb.n) || decide (256 < ga.c) ||
      decide ((gd.w : Int) ≠ ga.outW gb) || decide ((gd.h : Int) ≠ ga.outH gb) || gd.c != gb.n
    let fmtOk := ga.esize == 1 && gb.esize == 1 && [0, 2, 3].contains fmt && fmtFits fmt gd && act != 3
    match (if emptyOut ga gb then [1] else []) ++ (if bad then [4] else []) ++ (if fmtOk then [] else [0x12]) with
    | code :: t => s.engineDone c f 0x14 [] (.none s (lowestCode (code :: t)))
    | [] =>
      let dots := convDots ga gb
      let l := dots.zipIdx.map fun t => (s.accumulate c 0 0 ga gb 48 false 0 t.2 t.1, t.2)
      let r := s.writeOutputs c gd fmt (immOf f 12 8) act s.free l
      let beyond := dots.any fun t => t.terms.any (fun p => s.beyondAt c ga p.1 || s.beyondAt c gb p.2) || s.beyondAt c gd t.out
      let sats := r.2 + l.foldl (fun a x => a + x.1.sats) 0
      let s1 := (r.1.countSat c sats).charge c 5 (gd.w * gd.h * gb.w * gb.h * ceilDiv ga.c 16)
      (s1.ticks l.length).engineDone c f 0x14 [8, 9] {
        s := s1.ticks l.length
        codes := (if beyond then [2] else []) ++ (if 0 < sats then [0x15] else [])
        count := gd.h })

end Sys2Proof.Machine
end

