-- ==== Sys2Proof/Machine/Guard.lean ====
section
/-! DEFINITION. The watch over the device (18): sentinel runs, the monitors, the fault pins. -/

namespace Sys2Proof.Machine

/-! ## Sentinel runs (R498 to R500) -/

/-- Does a sentinel run start in a cell: RUNNING, STOPPED or STOPPING, and standing in its place? (R498) -/
def runsSentinel (x : Cell) : Bool :=
  !x.removed && (x.mode == .running || x.mode == .stopped || x.mode == .stopping)

/-- A sentinel run starts in every such cell, none of its runs in progress restarted, its clutch ungated; none in S2 and S3 (R498, R500). -/
def State.startSentinels (s : State) : State :=
  if s.awake && s.clocked then
    let s1 := { s with cells := s.cells.map fun x : Cell => { x with sentinel := x.sentinel || runsSentinel x } }
    s1.each (List.finRange 16) State.ungate
  else s

/-- `SENTINEL_TIMER_EXPIRY` (R498). -/
def execSentinelTimerExpiry (s : State) : Res := .next s.startSentinels

/-- Row and column of a logical cell's mesh position, row-major number `16 r + c`. -/
def State.positionOf (s : State) (c : Fin 256) : Option (Fin 256) :=
  (List.finRange 256).find? fun p => (s.disc.lcell[p.val]) == some c

/-- The router of a cell's position counts as router-dead from here on (R19, R500). -/
def State.routerDies (s : State) (c : Fin 256) : State :=
  match s.positionOf c with
  | some p => { s with disc := { s.disc with tests := s.disc.tests.set p.val .routerDead p.isLt } }
  | none => s

/-- DETAIL of cause 0x15: the router's row and column (R516). -/
def State.routerDetail (s : State) (c : Fin 256) : Word :=
  match s.positionOf c with | some p => BitVec.ofNat 32 p.val | none => 0

/-- The cell of a failed loopback fails with cause 0x15, its router with it (R500). -/
def State.loopbackFails (s : State) (c : Fin 256) : State :=
  ((s.bump 0xB008C).failCell c 7 0x15 (s.routerDetail c)).routerDies c

/-- A clutch's hub has completed a run when no cell of the clutch is left in one (DEDUCED, log entry 24). -/
def State.noteRun (s : State) (c : Fin 256) : State :=
  let cl := clutchOf c
  if (List.finRange 16).any fun i => (s.cell (cellOf cl i)).sentinel then s
  else { s with saf := { s.saf with sentSince := s.saf.sentSince ||| BitVec.ofNat 16 (2 ^ cl.val) } }

/-- What a run's result does (R500). -/
def State.runEnds (s : State) (c : Fin 256) (r : SentinelResult) : State :=
  match r with
  | .pass => s
  | .engine d => (s.bump 0xB008C).failCell c 6 0x14 (BitVec.ofNat 32 d)
  | .loopback => s.loopbackFails c
  | .comparators => (s.bump 0xB008C).clutchOut (clutchOf c)

/-- `SENTINEL_RUN_COMPLETE` (R500, R506): counted, its failure acted on, and the clutch's run noted. -/
def execSentinelRunComplete (c : Fin 256) (r : SentinelResult) (s : State) : Res :=
  .next (if (s.cell c).sentinel then
      let s1 := (s.modCell c fun x => { x with sentinel := false }).bump 0xB0088
      (s1.runEnds c r).noteRun c
    else s)

/-- `SENTINEL_LOOPBACK_TIMEOUT` (R500): the run ends with a failed loopback. -/
def execSentinelLoopbackTimeout (c : Fin 256) (s : State) : Res :=
  .next (if (s.cell c).sentinel then
      let s1 := (s.modCell c fun x => { x with sentinel := false }).bump 0xB0088
      (s1.loopbackFails c).noteRun c
    else s)

/-- `HUB_SENTINEL_TIMEOUT` (R500): no run for 800,000 cycles takes a clutch in service out of it. -/
def execHubSentinelTimeout (cl : Fin 16) (s : State) : Res :=
  .next (if s.awake && (s.clutch cl).inService then s.clutchOut cl else s)

/-! ## Monitors (R497, R502, R567) -/

/-- What holds a pin at a level from here on, if anything. -/
def State.holdPin (s : State) (pin : Fin 8) (level : Option Bool) : State :=
  { s with pins := { s.pins with
      held := (s.pins.held.filter fun p => p.1 != pin) ++ (level.map fun b => (pin, b)).toList } }

/-- `OUTPUT_READBACK_FAULT` (R502, R508): DETAIL names the pin; 3 names none (R516). A pin that stays wrong is held at the level it was found at. -/
def execOutputReadbackFault (pin : Fin 8) (s : State) (lasts : Bool := false) : Res :=
  .next (if pin = 3 then s
    else (s.holdPin pin (if lasts then some (!s.pinLevel pin) else none)).deviceFault 0x27 7 0 0 (BitVec.ofNat 32 pin.val) false)

/-- `CLOCK_MONITOR_FAULT` (R497, R516). -/
def execClockMonitorFault (domain : Fin 7) (s : State) : Res :=
  .next (s.fatalFault 0x31 17 domain.val 4 (BitVec.ofNat 32 domain.val))

/-- Is it a rail of R567 or a clutch regulator? -/
def railOk (rail : BitVec 16) : Bool := decide (rail.toNat < 14) || decide (0x100 ≤ rail.toNat ∧ rail.toNat < 0x110)

/-- `SUPPLY_MONITOR_FAULT` (R516, R567). -/
def execSupplyMonitorFault (rail : BitVec 16) (s : State) : Res :=
  .next (if railOk rail then s.fatalFault 0x32 18 (rail.toNat % 256) 5 (BitVec.ofNat 32 rail.toNat) else s)

/-- `STEWARD_LOCKSTEP_FAULT` (R497, R504): what the Steward's lockstep and its memory's ECC find. -/
def execStewardLockstepFault (s : State) (f : StewardFault := .lockstep) : Res :=
  .next (match f with
    | .lockstep => s.fatalFault 0x30 16 0 0 0
    | .memory => s.fatalFault 0x33 19 0 0 0
    | .corrected n => s.bump 0xB0090 n)

/-- The no-fault levels at the close of a ridge, once the conditions of R506 hold. -/
def State.releasePins (s : State) : State :=
  let s1 := { s with saf := { s.saf with ridgeSince := true } }
  if s1.noFaultHolds && !s1.saf.noFault then s1.driveNoFault else s1

end Sys2Proof.Machine
end

