-- ==== Sys2Proof/Machine/HostCmds.lean ====
section
/-! DEFINITION. The host commands (15, R422 to R431, and the chapters that define each) and the containers LOAD_IMAGE reads (19). -/

namespace Sys2Proof

/-- Fields of the header of a container (R520). -/
def Container.kind (c : Container) : Nat := Machine.headKind c.head
def Container.advance (c : Container) : Bool := Machine.headAdvance c.head
def Container.enc (c : Container) : Bool := Machine.headEnc c.head
def Container.svn (c : Container) : BitVec 6 := Machine.headSvn c.head
def Container.signer (c : Container) : BitVec 4 := Machine.headSigner c.head
def Container.length (c : Container) : Nat := c.head[1].toNat
def Container.phash (c : Container) : Nat := (List.range 4).foldl (fun a i => a + (c.head.toList.getD (2 + i) 0).toNat * 2 ^ (64 * i)) 0
def Container.iv (c : Container) : Nat := c.head[6].toNat + c.head[7].toNat % 2 ^ 32 * 2 ^ 64
def Container.tag (c : Container) : Nat := c.head[8].toNat + c.head[9].toNat * 2 ^ 64
def Container.fwMin (c : Container) : Word := c.head[10].setWidth 32

/-- KIND of a payload (R520). -/
def Payload.kind : Payload → Nat
  | .image _ => 1
  | .enrol _ _ _ _ _ => 2
  | .firmware _ => 3
  | .unlock _ _ _ _ => 4

/-- Are the bits of the header that R520 does not list zero? -/
def Container.reservedZero (c : Container) : Bool :=
  let n := c.head[0].toNat
  bitsOf n 23 18 == 0 && bitsOf n 15 14 == 0 && bitsOf n 7 4 == 0 && bitsOf c.head[7].toNat 63 32 == 0 && bitsOf c.head[10].toNat 63 32 == 0 &&
  (c.head.toList.drop 11).all fun w => w == 0

/-- The format check: magic, kind, reserved bits, LENGTH against the size passed, and zeros where an unsigned container carries them (R521, R522). -/
def Container.formatOk (c : Container) (size : Nat) : Bool :=
  c.head[0].toNat / 2 ^ 32 == 0x44525831 && c.kind == c.payload.kind && c.reservedZero && c.size == size && 1024 + c.length == size &&
  (c.signer != 14 || c.modSigZero)

end Sys2Proof

namespace Sys2Proof.Machine

/-! ## Fetch and the common checks (R422 to R426, R547) -/

/-- Descriptors the doorbell shows that the port has not fetched. -/
def State.waitingCmds (s : State) (h : Fin 2) : Nat := (s.ringC h 0 - (s.host h).fetched).toNat

/-- Is firmware or a ROM there to execute commands? (R547) -/
def State.executes (s : State) : Bool := s.sec.running || s.hostBoot

/-- May a port fetch descriptors: interface and ring 0 enabled, the link up, something there to execute them? (R405, R422) -/
def State.fetchesOn (s : State) (h : Fin 2) : Bool :=
  s.bit (hifR h 0) 0 && s.bit (hifR h 0x1008) 31 && s.linkTakes h && s.executes

/-- Fetch what the doorbell shows, up to 16 descriptors ahead, and give the count in the pointer block (R409, R422). -/
def State.fetchAhead (s : State) (h : Fin 2) : State :=
  let x := s.host h
  let n := min (s.waitingCmds h) (16 - (x.fetched - x.started).toNat)
  if s.fetchesOn h && decide (0 < n) then
    let f := x.fetched + BitVec.ofNat 32 n
    ({ s with hostOut := HostWrite.count h (s.ptrEntry h 0) f :: s.hostOut }).modHost h fun y => { y with fetched := f }
  else s

/-- The turns of descriptors abandoned before theirs are passed over (R424). -/
def HostPort.passOver (fuel : Nat) (x : HostPort) : HostPort :=
  match fuel with
  | 0 => x
  | n + 1 =>
    if x.started != x.fetched && x.gone.contains x.started then
      ({ x with started := x.started + 1, gone := x.gone.filter fun w => w != x.started }).passOver n
    else x

/-- The port comes to its next command. -/
def State.toNextCmd (s : State) (h : Fin 2) : State := (s.fetchAhead h).modHost h fun x => x.passOver 17

/-- May a port start its next fetched command: none of its own in progress? (R422) -/
def State.canStart (s : State) (h : Fin 2) : Bool := s.executes && (s.host h).cmd.isNone && (s.host h).started != (s.host h).fetched

/-- Are the reserved bits of c0 and the bits of c1 to c7 outside `masks` zero? -/
def reservedOk (d : Descriptor) (masks : List Nat) : Bool :=
  bitsOf (descWord d 0) 55 48 == 0 &&
  (List.finRange 7).all fun i => Nat.land (descWord d ⟨i.val + 1, by omega⟩) (masks.getD i.val 0) == descWord d ⟨i.val + 1, by omega⟩

/-- Every bit of a word. -/
def allBits : Nat := 2 ^ 64 - 1

/-- What a command's code says before its body: bits it uses, guard, whether the ROM executes it. -/
structure CmdForm where
  code : Nat
  masks : List Nat
  guard : Option (Fin 64)
  rom : Bool

/-- Does a port hold a guard? (R426, R437) -/
def State.holds (s : State) (h : Fin 2) (g : Option (Fin 64)) : Bool :=
  match g with
  | some n => (s.sem n).owner == some h
  | none => true

/-- The place of a command that starts now in the order of fetch (R534; DEDUCED, log entry 70). -/
def State.cmdOrder (s : State) (h : Fin 2) : Nat := match (s.host (peer h)).cmd with | some a => a.after + 1 | none => 0

/-- The next fetched command is in progress, and the port fetches on (R422). -/
def State.startCmd (s : State) (h : Fin 2) (d : Descriptor) (data : List Byte) (load : Option (Option Container × Ecc)) : State :=
  (s.modHost h fun x => { x with started := x.started + 1, cmd := some ⟨opOf' d, tagOf d, d, false, data, load, s.cmdOrder h⟩ }).fetchAhead h

/-- A host command that its port comes to: BADCMD, NOGUARD and the ROM's STATE judged in that order; then its body. `d` is its descriptor as it was fetched. -/
def State.hostCmd (s : State) (h : Fin 2) (d : Descriptor) (data : List Byte) (load : Option (Option Container × Ecc)) (f : CmdForm) (range : Bool)
    (body : State → State) : State :=
  let s0 := s.toNextCmd h
  if s0.canStart h && opOf' d == f.code then
    let t := s0.startCmd h d data load
    if !(reservedOk d f.masks && range) then t.complete h stBadCmd 0 0
    else if !s.holds h f.guard then (t.bump (hifR h 0x50)).complete h stNoGuard 0 0
    else if s.hostBoot && !f.rom then t.complete h stState 0 0
    else body t
  else s0

/-- `CMD_NOP`: NOP, and every reserved code, which completes BADCMD (R425). -/
def execCmdNop (hp : Fin 2) (d : Descriptor) (s : State) : Res :=
  .next (if 13 ≤ opOf' d then
      let s0 := s.toNextCmd hp
      if s0.canStart hp then (s0.startCmd hp d [] none).complete hp stBadCmd 0 0 else s0
    else s.hostCmd hp d [] none ⟨0, [], none, true⟩ true fun t => t.complete hp stOk 0 0)

/-! ## Containers (R520 to R522, R527 to R529, R536 to R538) -/

/-- The security counter of a kind. -/
def Security.counterOf (x : Security) (kind : Nat) : BitVec 6 := if kind = 1 then x.svnImg else if kind = 3 then x.svnFw else 0

/-- Is an owner slot enrolled, not revoked, and its hash that of the modulus? -/
def Security.ownerOk (x : Security) (signer : BitVec 4) (modHash : BitVec 256) : Bool :=
  decide (signer.toNat < 4) && x.enrolled.getLsbD signer.toNat && !x.revoked.getLsbD signer.toNat &&
  x.keyHash.toList.getD signer.toNat 0 == modHash

/-- Is the signer the vendor: its modulus has the root key hash, or, to unlock, the debug key hash (R518, R523; DEDUCED, log entry 70)? -/
def vendorOk (c : Container) : Bool := c.signer == 15 && c.modHash == (if c.kind = 4 then Config.debugKeyHash else Config.vendorKeyHash)

/-- Is the signer allowed for the kind? (R522) -/
def Security.signerOk (x : Security) (c : Container) : Bool :=
  let owner := x.ownerOk c.signer c.modHash
  let base := match c.payload with
    | .firmware _ => vendorOk c
    | .image _ => owner || (!x.reqsig && (c.signer == 14 || vendorOk c))
    | .enrol _ _ _ _ _ => owner || (c.signer == 14 && x.enrolled == 0)
    | .unlock _ _ level _ => if level = 2 then vendorOk c else owner
  base && (!c.enc || decide (c.signer.toNat < 4))

/-- Enrolled slots not revoked, were `rev` the revocations. -/
def Security.unrevoked (x : Security) (rev : BitVec 4) : BitVec 4 := x.enrolled &&& ~~~rev

/-- The checks of a kind: `none` passes, else the reason (R521, R528, R537). -/
def State.kindRefused (s : State) (c : Container) : Option Nat :=
  let x := s.sec
  match c.payload with
  | .image i => if s.sec.fw < c.fwMin then some 3 else imageRefused i
  | .enrol slot op keyHash imgKey zeroOk =>
    let bit : BitVec 4 := BitVec.ofNat 4 (2 ^ slot)
    if !zeroOk || decide (3 < slot) || !(op == 1 || op == 2 || op == 3) then some 3
    else if op = 1 then
      if (x.enrolled ||| x.revoked) &&& bit != 0 || (!c.enc && x.enrolled != 0) then some 3 else none
    else if keyHash != 0 || imgKey != 0 then some 3
    else if op = 2 ∧ x.unrevoked (x.revoked ||| bit) = 0 then some 3 else none
  | .firmware _ => none
  | .unlock challenge serial level zeroOk =>
    if c.length != 64 || !zeroOk || !(level == 1 || level == 2) then some 3
    else if s.sec.challenge == some challenge && serial == Config.serial then none else some 1

/-- The reason a container is refused for, in the order of R521. -/
def State.refusedFor (s : State) (c : Container) (size : Nat) : Option Nat :=
  if !c.formatOk size then some 3
  else if c.svn < s.sec.counterOf c.kind then some 2
  else if !s.sec.signerOk c || !(c.signer == 14 || c.sigOk) || !c.phashOk || (c.enc && !c.decOk) then some 1
  else s.kindRefused c

/-- The staged slot empties, M2 with it (R530). -/
def State.dropStaged (s : State) : State := ({ s with slots := { s.slots with staged := none } }).setM 2 0

/-- M5 is extended with a container's digest (R530). -/
def State.extendLife (s : State) (c : Container) : State := s.setM 5 (extendBy (s.meas 5) c.digest)

/-- An accepted enrolment (R528, R529). -/
def State.enrol (s : State) (slot op : Nat) (keyHash imgKey : BitVec 256) : State :=
  let bit : BitVec 4 := BitVec.ofNat 4 (2 ^ slot)
  let i : Fin 4 := ⟨slot % 4, Nat.mod_lt _ (by decide)⟩
  if op = 1 then
    { s with sec := { s.sec with
        enrolled := s.sec.enrolled ||| bit, keyHash := s.sec.keyHash.set i.val keyHash i.isLt
        imgKey := s.sec.imgKey.set i.val imgKey i.isLt } }
  else if op = 2 then { s with sec := { s.sec with revoked := s.sec.revoked ||| bit } }
  else { s with sec := { s.sec with reqsig := true } }

/-- The steps stop at once, without a ridge (R538). -/
def State.stopNow (s : State) : State :=
  let s1 := ((s.each s.imageCells State.haltCell).setReg 0x204 0).dropZones
  let s2 := { s1 with step := { s1.step with running := false, stopping := false, halting := false, due := false }, mesh := [] }
  (s2.completeAll 3 stOk s2.lastClosedIdx.toNat 0).releaseHeld

/-- A cell with its memories and queues zeroed and its operations gone (R538). -/
def wipedCell (x : Cell) : Cell :=
  { x with
    mode := if x.mode == .stopping then .stopped else x.mode
    thatch := [], cwm := [], tok := dropOps x, wait := .none, step := none, clearing := false
    queues := x.queues.map fun (q : Queue) => { flushQueue q with last := 0 } }

/-- The queues outside the cells zeroed (R127, R538; DEDUCED, log entry 71), and the staging areas, whose units are unreadable. -/
def State.wipeQueues (s : State) : State :=
  let s1 := s.each (List.finRange 4) fun t m => t.setFrames m []
  let s2 := { s1 with
    ports := s1.ports.map fun (x : Port) => { x with rd := x.rd + fifoDepth x.fifo, fifo := [] }
    pq := Vector.replicate 16 []
    hosts := s1.hosts.map fun (x : HostPort) => { x with staged := [], stagedBytes := 0, outq := [] } }
  s2.updFlows

/-- An accepted debug unlock (R531, R538). -/
def State.unlock (s : State) (c : Container) (level : Byte) : State :=
  let s1 := s.stopNow.wipeQueues
  let s2 := { s1 with
    slots := { s1.slots with active := none, staged := none, swap := none, swapped := false }
    cells := s1.cells.map wipedCell, weights := []
    fus := { Fusion.reset with sensors := s1.fus.sensors, zones := s1.fus.zones }
    trk := { s1.trk with table := [], obs := [], waiting := [], behind := false }
    scm := { s1.scm with mem := [], next := [], count := [], fresh := [], inbox := [] } }
  let s3 := ((s2.setM 2 0).extendLife c).drawKeys
  { s3 with sec := { s3.sec with dbg := BitVec.ofNat 2 level.toNat, idKey := s3.sec.idKey && decide (level ≠ 2), busyFus := true } }

/-- Firmware goes over the flash copy that did not boot (R525); over either where the host has booted the device (DESIGN CHOICE, log entry 70). -/
def State.writeFlash (s : State) (c : Container) (version : Word) : State :=
  let i := match s.sec.booted with | some j => 1 - j | none => Config.freeOrder s.free % 2
  ({ s with sec := { s.sec with
      flash := (i, ⟨c.head, version, c.digest, true⟩) :: s.sec.flash.filter fun p => p.1 != i } }).tick

/-- What an accepted container does. -/
def State.accept (s : State) (c : Container) : State :=
  match c.payload with
  | .image i =>
    let y : Slot := ⟨i, c.digest, c.signer, c.svn, c.advance⟩
    ({ s with slots := { s.slots with staged := some y } }).setM 2 (extendBy 0 c.digest)
  | .enrol slot op keyHash imgKey _ => (s.enrol slot op keyHash imgKey).extendLife c
  | .firmware version =>
    if s.hostBoot then s.startFirmware version c.digest c.advance c.svn else s.writeFlash c version
  | .unlock _ _ level _ => s.unlock c level

/-- An unlock container consumes the challenge, whatever becomes of it (R536). -/
def State.consume (s : State) (c : Container) : State :=
  if c.kind = 4 then { s with sec := { s.sec with challenge := none } } else s

/-- A container is verified and acted on (R429, R521). -/
def State.loadContainer (s : State) (h : Fin 2) (size : Nat) (img : Option Container) : State :=
  match img with
  | none => s.dropStaged.complete h stHostErr 0 0
  | some c =>
    if s.hostBoot && c.kind != 3 then s.complete h stState 0 0
    else
      match s.refusedFor c size with
      | some r => ((s.dropStaged.consume c).bump 0xC0080).complete h stRefused r 0
      | none => ((s.dropStaged.consume c).accept c).complete h stOk 0 0

/-- LOAD_IMAGE when the RSA engine comes to it (R429, R549). -/
def State.loadNow (s : State) (h : Fin 2) (a : ActiveCmd) : State :=
  match a.load with
  | none => s
  | some (img, ecc) =>
    if !s.hostBoot && !s.disc.ready.getLsbD 2 then s.complete h stState 0 0
    else if s.slots.swap.isSome then s.complete h stBusy 0 0
    else (s.reservedRead ecc).loadContainer h (descWord a.desc 2) img

/-! ## The RSA engine and the measurements (R530 to R534) -/

/-- Is a measurement being recomputed: `SEC_STS.MBUSY`? -/
def State.mbusy (s : State) : Bool := s.sec.busyInk || s.sec.busyFus

/-- The command of a port that the RSA engine is to serve: ATTEST, or LOAD_IMAGE. -/
def State.rsaCmd (s : State) (h : Fin 2) : Option ActiveCmd :=
  match (s.host h).cmd with
  | some a => if a.op = 10 ∨ (a.op = 1 ∧ a.load.isSome) then some a else none
  | none => none

/-- The one it serves next: in order of fetch, HP0 first (R534). -/
def State.rsaNext (s : State) : Option (Fin 2 × ActiveCmd) :=
  match s.rsaCmd 0, s.rsaCmd 1 with
  | some a, some b => if b.after < a.after then some (1, b) else some (0, a)
  | some a, none => some (0, a)
  | none, some b => some (1, b)
  | none, none => none

/-- The RSA engine serves one command after another; an ATTEST waits for `MBUSY` to clear, and those behind it with it (R532, R534). -/
def State.serveRsa (fuel : Nat) (s : State) : State :=
  match fuel with
  | 0 => s
  | n + 1 =>
    match s.rsaNext with
    | none => s
    | some (h, a) =>
      if a.op = 10 then if s.mbusy then s else (s.signReport h a).serveRsa n
      else (s.loadNow h a).serveRsa n

/-- QUERY with selector 1 waits for `MBUSY` to clear (R532). -/
def State.serveQueries (s : State) : State :=
  if s.mbusy then s
  else s.each [0, 1] fun s h =>
    match (s.host h).cmd with
    | some a => if a.op = 12 then (s.putData h (descWord a.desc 2) s.measureBytes).complete h stOk 240 0 else s
    | none => s

/-- The commands that wait for the RSA engine or the measurements go on. -/
def State.serveMeasured (s : State) : State := (s.serveRsa 2).serveQueries

/-- `MEASUREMENT_RECOMPUTE` (R531, R532): M3 or M4 follows its active banks; the commands that waited are served. -/
def execMeasurementRecompute (fusion : Bool) (s : State) : Res :=
  .next (if fusion then
      if s.sec.busyFus then
        let s1 := s.setM 4 s.fusionMeasure
        ({ s1 with sec := { s1.sec with busyFus := false } }).serveMeasured
      else s
    else if s.sec.busyInk then
      let s1 := s.setM 3 s.intakeMeasure
      ({ s1 with sec := { s1.sec with busyInk := false } }).serveMeasured
    else s)

/-- `LOAD_IMAGE` (R425, R429, R520 to R529, R534, R536 to R538, R547, R549); `img` is what a read of host memory brings, `ecc` what is found in the reserved area. -/
def execLoadImage (hp : Fin 2) (d : Descriptor) (img : Option Container) (s : State) (ecc : Ecc := .clean) : Res :=
  .next (s.hostCmd hp d [] (some (img, ecc)) ⟨1, [allBits, 0xFFFFFFFF], some 0, true⟩ (decide (descWord d 2 ≤ 536870912)) State.serveMeasured)

/-! ## Steps and slots (R42, R43, R430, R431) -/

/-- `START` (R42, R425, R431, R549). -/
def execCmdStart (hp : Fin 2) (d : Descriptor) (s : State) : Res :=
  .next (s.hostCmd hp d [] none ⟨2, [], some 0, false⟩ true fun t =>
    if t.slots.active.isNone || !(List.finRange 16).any (fun c => (t.clutch c).inService) then t.complete hp stState 0 0
    else t.startAll.complete hp stOk 0 0)

/-- The index of the last step closed as RESULT: a free value where none has closed (log entry 18). -/
def State.closedResult (s : State) : Nat :=
  match s.step.closed with
  | some (k, _) => (stepIdx k).toNat
  | none => (Config.freeBits s.free).toNat % 2 ^ 32

/-- `STOP` (R43, R425): RUN clears; the open step closes as usual, and the command completes with it. -/
def execCmdStop (hp : Fin 2) (d : Descriptor) (s : State) : Res :=
  .next (s.hostCmd hp d [] none ⟨3, [], some 0, false⟩ true fun t =>
    if t.step.running then
      let t1 := (t.setReg 0x204 0).commit hp
      { t1 with step := { t1.step with stopping := true, halting := true } }
    else ((t.haltAll.setReg 0x204 0).releaseHeld.complete hp stOk t.closedResult 0).tick)

/-- A load from a slot with a word beyond correction: some word that the load wrote is open (R504, R552; DESIGN CHOICE, log entry 72). -/
def State.openLoaded (s : State) (ecc : Ecc) : State :=
  match ecc with
  | .uncorrectable =>
    let a := 8 * Config.freeOrder s.free
    let v := (Config.freeBits (s.free + 1)).toNat
    let c : Fin 256 := ⟨Config.freeOrder (s.free + 2) % 256, Nat.mod_lt _ (by decide)⟩
    (if Config.freeOrder (s.free + 3) = 0 then { s with weights := memWriteNat s.weights (a % 16777216) 8 v }
      else if Config.freeOrder (s.free + 3) = 1 then s.modCell c fun x => { x with cwm := memWriteNat x.cwm (a % 524288) 8 v }
      else s.modCell c fun x => { x with thatch := memWriteNat x.thatch (a % 1048576) 8 v }).ticks 4
  | _ => s

/-- `SWAP_SLOT` (R430, R431, R549); `ecc` and `ups` are what a swap made at once meets in the slot and in the cells (R163, R552). -/
def execSwapSlot (hp : Fin 2) (d : Descriptor) (s : State) (ecc : Ecc := .clean) (ups : CellUpsets := []) : Res :=
  .next (s.hostCmd hp d [] none ⟨4, [0x1FFFFFFFF], some 0, false⟩ true fun t =>
    if !t.disc.ready.getLsbD 2 then t.complete hp stState 0 0
    else if t.slots.staged.isNone || (bitAt (descWord d 1) 32 && t.step.running) then t.complete hp stState 0 0
    else if t.slots.swap.isSome then t.complete hp stBusy 0 0
    else if t.step.running then { t with slots := { t.slots with swap := some (hp, BitVec.ofNat 32 (descWord d 1)) } }
    else ((((t.reservedRead ecc).swapSlots ups).openLoaded ecc).complete hp stOk ((Config.freeBits t.free).toNat % 2 ^ 32) 0).tick)

/-! ## Power and ledger commands (R470, R471, R482, R486) -/

/-- A legal budget: none, or 500 to 45,000 mW (R492). -/
def budgetOk (n : Nat) : Bool := n == 0 || (decide (500 ≤ n) && decide (n ≤ 45000))

/-- `SET_BUDGET` (R425, R486). -/
def execSetBudget (hp : Fin 2) (d : Descriptor) (s : State) : Res :=
  .next (s.hostCmd hp d [] none ⟨5, [0xFFFFFFFF], some 1, false⟩ (budgetOk (descWord d 1)) fun t =>
    (t.setReg 0xA0000 (BitVec.ofNat 32 (descWord d 1))).complete hp stOk 0 0)

/-- Requests written while no step is open come in force at once; SET_PL commands whose levels are met complete (R470, R471). -/
def State.requestsWritten (s : State) : State := if s.step.running then s.settleLevels else s.applyRequests

/-- `SET_PL` (R471): the requests are written, the command waits for the levels. -/
def execSetPl (hp : Fin 2) (d : Descriptor) (s : State) : Res :=
  .next (s.hostCmd hp d [] none ⟨6, [0xFFFF0003], some 1, false⟩ true fun t =>
    let t1 := t.each ((List.finRange 16).filter fun c => bitAt (descWord d 1) (16 + c.val)) fun u c =>
      u.setReg (0x90040 + 4 * c.val) (BitVec.ofNat 32 (descWord d 1 % 4))
    (t1.commit hp).requestsWritten)

/-- `POWER` (R480 to R482). -/
def execCmdPower (hp : Fin 2) (d : Descriptor) (s : State) : Res :=
  .next (s.hostCmd hp d [] none ⟨11, [0xF03], some 1, false⟩ true fun t =>
    if t.slots.swap.isSome then t.complete hp stState 0 0
    else if (List.finRange 16).any (fun c => (t.clutch c).chg) then t.complete hp stBusy 0 0
    else t.powerRequest hp (BitVec.ofNat 2 (descWord d 1)) (BitVec.ofNat 4 (bitsOf (descWord d 1) 11 8)))

/-! ## TABLE_WRITE (R108, R427) -/

/-- Words of a table, by block and kind. -/
def tableWords (fusion : Bool) (kind : Nat) : Nat :=
  if fusion then (if kind = 2 then 192 else 1024)
  else if kind = 0 then 131072 else if kind = 1 then 1024 else if kind = 2 then 24 else 2048

/-- A word of an intake table as it is stored, absent where it is refused (R108). -/
def storedWord (kind i : Nat) (v : Nat) : Option Nat :=
  if kind = 2 then
    if i = 0 then some (Nat.land v 0x07FF07FF)
    else if i = 1 then if 16 < bitsOf v 20 16 then none else some (Nat.land v 0x001F00FF)
    else if i = 2 then some (Nat.land v 0x0001FFFF)
    else if i = 3 then
      let sx := bitsOf v 6 0
      let sy := bitsOf v 22 16
      if 1 ≤ sx ∧ sx ≤ 67 ∧ 1 ≤ sy ∧ sy ≤ 67 then some (Nat.land v 0x007F007F) else none
    else if 20 ≤ i then some 0 else some v
  else if kind = 3 then some (Nat.land v 0x80FF80FF)
  else some v

/-- Write words into a table from index `i`: the table, and how many are refused. -/
def writeTable (t : Assoc Word) (f : Nat → Nat → Option Nat) (i : Nat) (l : List Word) : Assoc Word × Nat :=
  match l with
  | [] => (t, 0)
  | w :: r =>
    match f i w.toNat with
    | some v => writeTable (assocSet t 0 i (BitVec.ofNat 32 v)) f (i + 1) r
    | none => let x := writeTable t f (i + 1) r; (x.1, x.2 + 1)

/-- A table of a port's bank, and the bank with that table replaced. -/
def PortTables.get (b : PortTables) (kind : Nat) : Assoc Word :=
  match kind with | 0 => b.hot | 1 => b.mesh | 2 => b.calrec | _ => b.rmap
def PortTables.put (b : PortTables) (kind : Nat) (t : Assoc Word) : PortTables :=
  match kind with | 0 => { b with hot := t } | 1 => { b with mesh := t } | 2 => { b with calrec := t } | _ => { b with rmap := t }
def FusTables.get (b : FusTables) (kind : Nat) : Assoc Word :=
  match kind with | 0 => b.zone | 1 => b.cov | _ => b.mext
def FusTables.put (b : FusTables) (kind : Nat) (t : Assoc Word) : FusTables :=
  match kind with | 0 => { b with zone := t } | 1 => { b with cov := t } | _ => { b with mext := t }

/-- Does BLOCK name Fusion? -/
def tableFusion (d : Descriptor) : Bool := descWord d 1 % 256 == 5

/-- Are the operands of a TABLE_WRITE in range? -/
def tableOk (d : Descriptor) : Bool :=
  let unit := bitsOf (descWord d 1) 11 8
  let kind := bitsOf (descWord d 1) 15 12
  let fits := decide (descWord d 3 % 2 ^ 32 + descWord d 3 / 2 ^ 32 ≤ tableWords (tableFusion d) kind)
  descWord d 2 % 4 == 0 && fits &&
  ((descWord d 1 % 256 == 2 && decide (kind < 4)) || (tableFusion d && unit == 0 && decide (kind < 3)))

/-- Is a swap of a block armed, or its copy-back in progress? (R111) -/
def TableSwap.busy (x : TableSwap) : Bool := x.armed || x.copying != 0

/-- `TABLE_WRITE` (R108, R425, R427): words into a shadow bank. -/
def execTableWrite (hp : Fin 2) (d : Descriptor) (words : Option (List Word)) (s : State) : Res :=
  .next (s.hostCmd hp d [] none ⟨7, [0xFFFF, allBits, allBits], some (if tableFusion d then 2 else 0), false⟩ (tableOk d) fun t =>
    let p : Fin 16 := ⟨bitsOf (descWord d 1) 11 8 % 16, Nat.mod_lt _ (by decide)⟩
    let kind := bitsOf (descWord d 1) 15 12
    let first := descWord d 3 % 2 ^ 32
    if (if tableFusion d then t.fusSwap else t.inkSwap).busy then t.complete hp stBusy 0 0
    else match words with
      | none => t.complete hp stHostErr 0 0
      | some l =>
        let ws := l.take (descWord d 3 / 2 ^ 32)
        if tableFusion d then
          let r := writeTable (t.fus.shadow.get kind) (fun _ v => some v) first ws
          ({ t with fus := { t.fus with shadow := t.fus.shadow.put kind r.1 } }).complete hp stOk 0 0
        else
          let r := writeTable ((t.port p).shadow.get kind) (storedWord kind) first ws
          (t.modPort p fun x => { x with shadow := x.shadow.put kind r.1 }).complete hp stOk r.2 0)

/-! ## SNAPSHOT, RETRIEVE, ATTEST, QUERY (R394, R428, R533, R553) -/

/-- `SNAPSHOT` (R428): fetched, it waits for the state it copies. -/
def execSnapshot (hp : Fin 2) (d : Descriptor) (s : State) : Res :=
  .next (s.hostCmd hp d [] none ⟨8, [0xFF, allBits, 0xFFFFFFFF], none, false⟩
    (decide (descWord d 1 < 3) && descWord d 2 % 64 == 0 && decide (snapSize (descWord d 1) ≤ descWord d 3)) fun t => t)

/-- Are the coordinates of the centre of a search finite numbers? (DEDUCED, log entry 39) -/
def centreOk (d : Descriptor) : Bool :=
  (fval (BitVec.ofNat 32 (descWord d 3))).isFinite && (fval (BitVec.ofNat 32 (descWord d 3 / 2 ^ 32))).isFinite

/-- `RETRIEVE` (R394, R549): accepted, or refused in its completion. -/
def execRetrieve (hp : Fin 2) (d : Descriptor) (query : Option (List Byte)) (s : State) : Res :=
  let c1 := descWord d 1
  let k := bitsOf c1 24 16
  .next (s.hostCmd hp d [] none ⟨9, [0x00FFFFFF1FFFFFFF, allBits, allBits], none, false⟩
    (decide (1 ≤ k ∧ k ≤ 256) && decide (1 ≤ bitsOf c1 55 48) && centreOk d) fun t =>
      if !t.disc.ready.getLsbD 5 then t.complete hp stState 0 0
      else if t.scm.erasing then t.complete hp stBusy 0 0
      else if !t.scmOn || t.retrievalClutches.isEmpty || decide (64 ≤ t.openRetrievals.length) then t.complete hp stState 0 0
      else match query with
        | none => t.complete hp stHostErr 0 0
        | some q =>
          let r : Retrieval := {
            rid := BitVec.ofNat 16 c1, k := k, cx := BitVec.ofNat 32 (descWord d 3), cy := BitVec.ofNat 32 (descWord d 3 / 2 ^ 32)
            radius := bitsOf c1 28 25, gmask := BitVec.ofNat 16 (bitsOf c1 47 32), rmax := bitsOf c1 55 48, query := q.take 96
            k0 := none, snap := none, ridges := 0, shares := [], doom := none, ended := none }
          let u := t.setRets (t.scm.retrievals ++ [r])
          ({ u with scm := { u.scm with gated := false } }).complete hp stOk 0 0)

/-- `ATTEST` (R532, R533, R535): with a nonce read, it waits until `MBUSY` is 0. -/
def execAttest (hp : Fin 2) (d : Descriptor) (nonce : Option (List Byte)) (s : State) : Res :=
  .next (s.hostCmd hp d (nonce.getD []) none ⟨10, [allBits, allBits, 0xFFFFFFFF], none, false⟩ (decide (1720 ≤ descWord d 3)) fun t =>
    if decide (t.sec.dbg = 2) || t.sec.trngFail then t.complete hp stState 0 0
    else if nonce.isNone then t.complete hp stHostErr 0 0
    else t.serveMeasured)

/-- A position's test result as QUERY codes it. -/
def testCode (x : PosTest) : Nat :=
  match x with
  | .healthy => 0
  | .routerLive => 1
  | .routerDead => 2

/-- The entry of a position in QUERY's answer (R553). -/
def State.positionEntry (s : State) (p : Fin 256) : Nat :=
  let code := testCode s.disc.tests[p.val]
  code * 2 ^ 14 + bitNo (!(s.clutch (clutchAt p)).inService) 13 +
    (if code = 0 then ((s.disc.lcell[p.val]).map fun c => c.val).getD 0 else 0)

/-- QUERY's answer to selector 0 (R553). -/
def State.identityBytes (s : State) : List Byte :=
  ((List.range 4).flatMap fun i => natLe 4 (s.idWord i)) ++ natLe 4 s.readyWord ++ natLe 4 s.disc.readySp.toNat ++
  natLe 8 Config.serial.toNat ++ (List.finRange 256).flatMap fun p => natLe 2 (s.positionEntry p)

/-- Bytes of QUERY's answer, by selector; the spec does not lay out the link state (log entry 20). -/
def querySize (sel : Nat) : Nat := if sel = 0 then 544 else if sel = 1 then 240 else 0

/-- The link state of both ports as QUERY writes it: open in length and content (log entry 20). -/
def State.linkBytes (s : State) (room : Nat) : List Byte :=
  (List.range (min room ((Config.freeBits s.free).toNat % 64))).map fun i => BitVec.ofNat 8 (Config.freeBits (s.free + 1 + i)).toNat

/-- `QUERY` (R425, R532, R547, R553). -/
def execCmdQuery (hp : Fin 2) (d : Descriptor) (s : State) : Res :=
  let sel := descWord d 1
  .next (s.hostCmd hp d [] none ⟨12, [0xFF, allBits, 0xFFFFFFFF], none, sel == 0⟩ (decide (sel < 3) && decide (querySize sel ≤ descWord d 3)) fun t =>
    if sel = 0 then (t.putData hp (descWord d 2) t.identityBytes).complete hp stOk 544 0
    else if sel = 1 then t.serveMeasured
    else
      let l := t.linkBytes (bitsOf (descWord d 3) 31 0)
      ((t.putData hp (descWord d 2) l).complete hp stOk l.length 0).ticks 65)

end Sys2Proof.Machine
end

