-- ==== Sys2Proof/Machine/HostWrite.lean ====
section
/-! DEFINITION. Host register writes (16): accesses refused, guards, the field classes with their disable conditions and legal ranges, and what each register's write sets in motion. -/

namespace Sys2Proof.Machine

/-! ## Guards, disable conditions, legal ranges (R437, R438, R451 to R453) -/

/-- The guard semaphore of a register, if it has one (R437, R443). -/
def guardOf (off : Nat) : Option (Fin 64) :=
  let block := off / 0x10000
  if off = 0x200 ∨ off = 0x204 then some 0
  else if 2 ≤ block ∧ block < 5 then some 0
  else if block = 5 then
    if [0x50004, 0x50008, 0x5000C, 0x50010, 0x50020, 0x50024, 0x50030].contains off then some 2 else some 0
  else if block = 6 then some 0
  else if off = 0x70000 ∨ off = 0x70020 then some 0
  else if block = 9 ∨ block = 10 then some 1
  else if block = 11 then some 2
  else if block = 13 ∨ 32 ≤ block then some 0
  else none

/-- The counter of ignored CFG writes of a register's block. -/
def wignKey (hp : Fin 2) (off : Nat) : Nat :=
  match off / 0x10000 with
  | 0 => 0x84
  | 1 => hifR hp 0x5C
  | 2 => 0x20148
  | 3 => 0x20148
  | 4 => 0x4050C
  | 5 => 0x50118
  | 6 => 0x60064
  | 7 => 0x70060
  | 9 => 0x90090
  | 10 => 0xA0218
  | 11 => 0xB0094
  | 13 => 0xD0180
  | _ => celR (cellAt off) 0x218

/-- The ring a ring register belongs to. -/
def ringOf (off : Nat) : Nat := (off - 0x11000) / 16

/-- The sensor port and motion port of a register. -/
def portAt (off : Nat) : Fin 16 := ⟨(off - 0x21000) / 0x1000 % 16, Nat.mod_lt _ (by decide)⟩
def motAt (off : Nat) : Fin 4 := ⟨(off - 0x40000) / 0x20 % 4, Nat.mod_lt _ (by decide)⟩

/-- Does a register's block count as disabled for its CFG fields? (R66, R95, R197, R353, R403, R442, R453, R517) Every register of a sensor port's window, `INK_PFILT` and `INK_PFLOW` among them, follows the port's EN (DESIGN CHOICE, log entry 74). -/
def State.cfgOpen (s : State) (hp : Fin 2) (off : Nat) : Bool :=
  let idle := !s.step.running
  if off < 0x10000 then !s.bit 0x204 0 && idle
  else if off < 0x11000 then !s.bit (hifR hp 0) 0
  else if off < 0x20000 then !s.bit (hifR hp (0x1008 + 16 * ringOf off)) 31
  else if 0x21000 ≤ off ∧ off < 0x31000 then !s.portOn (portAt off)
  else if 0x40000 ≤ off ∧ off < 0x40080 then !s.bit (motP (motAt off) 0) 0
  else if 0x70000 ≤ off ∧ off < 0x80000 then !s.scmOn
  else if off = 0xB0020 then !s.bit 0xB0000 0
  else if 0x200000 ≤ off then
    match (s.cell (cellAt off)).mode with
    | .running => false
    | .stopping => false
    | _ => true
  else idle

/-- Does a value lie in a range? -/
def within (lo hi n : Nat) : Bool := decide (lo ≤ n) && decide (n ≤ hi)

/-- Would the region sets leave every clutch in one region at most, were region `r` given `v`? (R322) -/
def State.regionsApart (s : State) (r : Nat) (v : Nat) : Bool :=
  (List.range 4).all fun i => decide (i = r) || Nat.land (s.fld (0xD0110 + 4 * i) 15 0) (bitsOf v 15 0) == 0

/-- The bits `hi` to `lo` of a word. -/
def bitsMask (hi lo : Nat) : Nat := (2 ^ (hi + 1 - lo) - 1) * 2 ^ lo

/-- Ranges of CFG fields: the bits of the fields a range speaks of, and whether a value keeps to it. -/
abbrev Ranges := List (Nat × Bool)

/-- A range of one field. -/
def range (hi lo : Nat) (ok : Bool) : Nat × Bool := (bitsMask hi lo, ok)

/-- Ranges of the DEV, HIF and INK registers. -/
def rangesFront (off v : Nat) : Ranges :=
  if off = 0x200 then [range 5 0 (within 2 32 (bitsOf v 5 0))]
  else if off = 0x214 then [range 31 0 (within 40000 1600000 v)]
  else if 0x10020 ≤ off ∧ off < 0x10034 then [range 7 0 (decide (2 ≤ v % 256))]
  else if 0x11000 ≤ off ∧ off < 0x12000 ∧ off % 16 = 8 then
    let kind := bitsOf v 25 24
    let log := bitsOf v 4 0
    if off = 0x11008 then [range 25 24 (kind == 0), range 4 0 (within 4 12 log)]
    else if off = 0x11018 then [range 25 24 (kind == 1), range 4 0 (within 16 24 log)]
    else [range 25 24 (decide (2 ≤ kind)), range 4 0 (within 16 30 log)]
  else if off = 0x20F00 then [range 31 0 (decide (64000 ≤ v))]
  else if off = 0x20F04 then [range 15 0 (decide (125 ≤ v % 65536))]
  else if 0x21000 ≤ off ∧ off < 0x31000 then
    if off % 0x1000 = 0x004 then
      let mode := bitsOf v 1 0
      [range 1 0 (decide (mode < 2)), range 3 2 (bitsOf v 3 2 != 3),
        (bitsMask 15 8 + bitsMask 1 0, within 2 (if mode = 0 then 90 else 120) (bitsOf v 15 8))]
    else if off % 0x1000 = 0x204 then
      [range 21 16 (decide (1 ≤ bitsOf v 21 16)), (bitsMask 21 16 + bitsMask 13 8, decide (bitsOf v 21 16 < bitsOf v 13 8))]
    else []
  else []

/-- Ranges of the MOT, FUS, TRK and SCM registers. -/
def rangesMiddle (off v : Nat) : Ranges :=
  if 0x40000 ≤ off ∧ off < 0x40080 then
    [range 26 16 (decide (bitsOf v 26 16 ≤ 1024)), (bitsMask 26 16 + bitsMask 10 0, decide (bitsOf v 10 0 < bitsOf v 26 16))]
  else if 0x40100 ≤ off ∧ off < 0x40140 then [range 9 8 (bitsOf v 9 8 == 1 || bitsOf v 9 8 == 2)]
  else if off = 0x40204 then [range 15 0 (decide (125 ≤ v % 65536))]
  else if off = 0x50004 then [range 15 8 (decide (1 ≤ bitsOf v 15 8)), range 7 0 (decide (1 ≤ bitsOf v 7 0))]
  else if off = 0x50008 then [range 9 8 (decide (1 ≤ bitsOf v 9 8)), range 7 0 (within 1 127 (bitsOf v 7 0))]
  else if off = 0x5000C then [range 31 0 (within 400000 16000000 v)]
  else if off = 0x50010 then [range 15 0 (decide (1 ≤ v % 65536))]
  else if off = 0x60000 ∨ off = 0x60004 then [range 15 0 (within 1 65534 (bitsOf v 15 0))]
  else if off = 0x60008 then
    let m := bitsOf v 13 8
    let n := bitsOf v 5 0
    [range 31 24 (decide (1 ≤ bitsOf v 31 24)), range 23 16 (decide (1 ≤ bitsOf v 23 16)), range 13 8 (decide (m ≤ 32)),
      range 5 0 (decide (2 ≤ n)), (bitsMask 13 8 + bitsMask 5 0, decide (n ≤ m))]
  else if off = 0x60010 then [range 31 24 (decide (1 ≤ bitsOf v 31 24)), range 19 0 (decide (512 ≤ bitsOf v 19 0))]
  else if off = 0x70004 then
    [range 27 24 (within 8 14 (bitsOf v 27 24)), range 20 16 (within 1 16 (bitsOf v 20 16)), range 15 12 (within 3 10 (bitsOf v 15 12)),
      range 11 8 (within 3 10 (bitsOf v 11 8)), range 7 0 (decide (1 ≤ bitsOf v 7 0))]
  else if off = 0x70008 then [range 23 16 (decide (1 ≤ bitsOf v 23 16)), range 15 0 (decide (1 ≤ bitsOf v 15 0))]
  else if off = 0x70010 then [range 12 0 (decide (bitsOf v 12 0 ≤ 4096))]
  else []

/-- Ranges of the PWR, LED, SAF and FAB registers. -/
def State.rangesBack (s : State) (off v : Nat) : Ranges :=
  if off = 0x9000C then [range 15 0 (decide (100 ≤ v % 65536))]
  else if off = 0x90010 then [range 23 0 (decide (16 ≤ bitsOf v 23 0))]
  else if off = 0x90014 then [range 15 8 (within 1 40 (bitsOf v 15 8)), range 7 0 (within 60 105 (bitsOf v 7 0))]
  else if off = 0xA0004 then
    [range 19 16 (decide (1 ≤ bitsOf v 19 16)), range 15 12 (decide (1 ≤ bitsOf v 15 12)), range 7 0 (decide (1 ≤ bitsOf v 7 0))]
  else if 0xA0040 ≤ off ∧ off < 0xA0080 then [range 7 0 (decide (1 ≤ v % 256))]
  else if off = 0xB0020 then [range 7 0 (within 106 125 (v % 256))]
  else if 0xB0400 ≤ off ∧ off < 0xB0440 then [range 8 0 (within 1 256 (bitsOf v 8 0))]
  else if off = 0xD0100 then [range 31 0 (within 800 3200000 v)]
  else if 0xD0110 ≤ off ∧ off < 0xD0120 then [range 15 0 (s.regionsApart ((off - 0xD0110) / 4) v)]
  else []

/-- Ranges of the CEL registers (R157, R197). -/
def State.rangesCel (s : State) (c : Fin 256) (o v : Nat) : Ranges :=
  if o = 0x10 then [range 18 3 (decide (8 * bitsOf v 18 3 < 64 * s.fld (celR c 0x24) 28 16))]
  else if o = 0x20 then [range 29 16 (within 32 15360 (bitsOf v 29 16))]
  else if o = 0x24 then [range 28 16 (within 1 7680 (bitsOf v 28 16))]
  else if o = 0x34 then [range 29 16 (decide (bitsOf v 29 16 ≤ 1024)), range 12 0 (decide (bitsOf v 12 0 ≤ 512))]
  else if 0x40 ≤ o ∧ o < 0x60 then
    [range 31 0 (decide (bitsOf v 29 16 + bitsOf v 13 0 ≤ if bitAt v 31 then s.fld (celR c 0x34) 29 16 else s.fld (celR c 0x20) 29 16))]
  else if 0x60 ≤ o ∧ o < 0x80 then [range 19 0 (decide (1 ≤ bitsOf v 19 0))]
  else if 0x1000 ≤ o ∧ o < 0x1400 then
    [range 12 0 (decide (bitsOf v 12 0 ≤ 4096)), range 28 0 (decide (bitsOf v 28 16 + bitsOf v 12 0 ≤ 4096))]
  else if 0x1400 ≤ o ∧ o < 0x1800 then
    let high := bitsOf v 13 0
    let low := bitsOf v 29 16
    [range 29 0 (if high = 0 then low == 0 else decide (low < high)),
      range 13 0 (decide (high ≤ s.qCap c (queueNo ((o - 0x1400) / 4))))]
  else []

/-- The ranges of a register's fields. -/
def State.ranges (s : State) (off v : Nat) : Ranges :=
  if off < 0x40000 then rangesFront off v
  else if off < 0x80000 then rangesMiddle off v
  else if off < 0x200000 then s.rangesBack off v
  else s.rangesCel (cellAt off) (off % 0x2000) v

/-- Do the fields that change from `old` to `v` lie in their ranges? (R452) A range over several fields of a register, such as that of RATE for a MODE, is a range of each of them (DESIGN CHOICE, log entry 73). -/
def State.legal (s : State) (off old v : Nat) : Bool :=
  (s.ranges off v).all fun r => r.2 || Nat.land old r.1 == Nat.land v r.1

/-! ## Refused accesses (R444, R448) -/

/-- An access refused: counted and recorded (`DEV_ACC_ERR`, `DEV_ACC_LAST`). -/
def State.accErr (s : State) (hp : Fin 2) (write : Bool) (off : Nat) (be : BitVec 4) : State :=
  let t := s.bump 0x80
  { t with disc := { t.disc with
      accLast := BitVec.ofNat 32 (hp.val * 2 ^ 31 + bitOf write * 2 ^ 30 + be.toNat * 2 ^ 22 + off / 4 % 2 ^ 20 * 4) } }

/-- A change of a CFG field, or a value of a control field, that is ignored and counted. -/
def State.wign (s : State) (hp : Fin 2) (off : Nat) : State := s.bump (wignKey hp off)

/-! ## Table swaps (R109 to R111, R344) -/

/-- Exchange the banks of the intake tables of the masked ports; copy-back and the recompute of M3 begin (R109, R111, R531). -/
def State.swapInk (s : State) (mask : BitVec 16) : State :=
  let s1 := s.each ((List.finRange 16).filter fun p => mask.getLsbD p.val) fun t p =>
    t.modPort p fun x => { x with active := x.shadow, shadow := x.active }
  { s1 with inkSwap := { s1.inkSwap with armed := false, copying := mask }, sec := { s1.sec with busyInk := true } }

/-- Exchange the Fusion banks of the masked kinds (R344, R531). -/
def State.swapFus (s : State) (mask : BitVec 16) : State :=
  let a := s.fus.active
  let b := s.fus.shadow
  { s with
    fus := { s.fus with active := copyFus mask b a, shadow := copyFus mask a b }
    fusSwap := { s.fusSwap with armed := false, copying := mask }, sec := { s.sec with busyFus := true } }

/-- The swap an arming write of a block makes or arms: ARM at 0 does nothing; one armed or copying ignores it, counted; with no step open the banks swap at once (R109 to R111). -/
def State.armSwap (s : State) (hp : Fin 2) (fusion : Bool) (v : Word) : State :=
  let x := if fusion then s.fusSwap else s.inkSwap
  let off := if fusion then 0x50024 else 0x20104
  if !v.getLsbD 31 then s
  else if x.busy then s.wign hp off
  else
    let mask := BitVec.ofNat 16 (if fusion then v.toNat % 8 else v.toNat)
    let y : TableSwap := ⟨true, (s.reg (off - 4)).toNat, mask, false, 0⟩
    let s1 := if fusion then { s with fusSwap := y } else { s with inkSwap := y }
    if s.step.running then s1 else if fusion then s1.swapFus mask else s1.swapInk mask

/-! ## What the special registers do -/

/-- A write of `DEV_STEP_ENB` (R42, R43). -/
def State.writeRun (s : State) (v : Word) : State :=
  if v.getLsbD 0 then s.setReg 0x204 1
  else
    let s1 := s.setReg 0x204 0
    if s.step.running then { s1 with step := { s1.step with stopping := true } } else s1.releaseHeld

/-- A write of `INK_PENB` (R93, R94). -/
def State.writePenb (s : State) (p : Fin 16) (v : Word) : State := if v.getLsbD 0 then s.portUp p else s.portOff p

/-- A write of `MOT_PENBm`: EN at 0 flushes the FIFO (R353). -/
def State.writeMotEnb (s : State) (m : Fin 4) (v : Word) : State :=
  if v.getLsbD 0 then s.setReg (motP m 0) 1 else (s.setReg (motP m 0) 0).setFrames m []

/-- A write of `CEL_SEQ_ENB` (R191, R192). -/
def State.writeSeq (s : State) (c : Fin 256) (v : Word) : State := if v.getLsbD 0 then s.runCell c else s.haltCell c

/-- A write of `FUS_SNS_CLR` (R348). -/
def State.clearSensors (s : State) (v : Word) : State :=
  s.each ((List.finRange 16).filter fun n => v.getLsbD n.val) fun t n =>
    let x := t.fus.sensors[n.val]
    { t with fus := { t.fus with sensors := t.fus.sensors.set n.val { x with suspect := false, drun := 0 } n.isLt } }

/-- Does the region fit: 48 GiB at most, and what `SCM_AVAIL` allows? (R381) -/
def State.regionFits (s : State) : Bool := decide (s.regionSize' ≤ 48 * 2 ^ 30) && decide (s.regionSize' ≤ s.scm.avail * 2 ^ 26)

/-- A write of `SCM_ENB` (R381, R401). -/
def State.writeScmEnb (s : State) (v : Word) : State :=
  if v.getLsbD 0 then
    if s.scmOn then s
    else if s.regionFits then
      let s1 := s.setReg 0x70000 1
      { s1 with scm := { s1.scm with geoErr := false } }
    else { s with scm := { s.scm with geoErr := true } }
  else if s.scmOn then (s.setReg 0x70000 0).doomAll .disabled
  else s

/-- A write of `SCM_CTL` (R400). -/
def State.writeErase (s : State) (v : Word) : State := if v.getLsbD 0 then s.eraseRegion else s

/-- A write of `SAF_ENB` (R506, R507): ARM at 0 drives the fault levels, and so does ARM at 1 until a ridge and the sentinel runs that follow. -/
def State.writeArm (s : State) (v : Word) : State :=
  if v.getLsbD 0 then (s.setReg 0xB0000 1).rearm.driveFault else (s.setReg 0xB0000 0).driveFault

/-- Causes a write of `SAF_CLR` names that are latched. -/
def State.clrNamed (s : State) (v : Word) : BitVec 32 := v &&& 0x1FF &&& s.saf.latched

/-- A write of `SAF_CLR` (R508): a latched cause that is not present clears; one that is present stays, and the write is counted. -/
def State.clearFaults (s : State) (hp : Fin 2) (v : Word) : State :=
  let named := s.clrNamed v
  let gone := named &&& ~~~s.liveNow
  let s1 := if named &&& s.liveNow = 0 then s else s.wign hp 0xB0010
  if gone = 0 then s1
  else ({ s1 with saf := { s1.saf with latched := s1.saf.latched &&& ~~~gone, first := 0 } }).rearm

/-- A write of `SEC_DBG_CTL` (R525, R536). -/
def State.newChallenge (s : State) (v : Word) : State :=
  if v.getLsbD 0 && !s.sec.trngFail then
    ({ s with sec := { s.sec with challenge := some (Config.trng s.free) } }).tick
  else s

/-- A doorbell (R412): the descriptors it shows are fetched (R422), and a notice ring it leaves behind P holds `ATTN_n` (R441). -/
def State.doorbell (s : State) (hp : Fin 2) (ring : Nat) (count : Word) : State :=
  let size := s.ringSize hp ring
  let off := if ring = 0 then (count - (s.host hp).fetched).toNat else (s.ringP hp ring - count).toNat
  if size < off then s.bump (hifR hp 0x54)
  else
    let t := s.setReg (hifR hp (0x100C + 16 * ring)) count
    if ring = 0 then t.fetchAhead hp else t.updAttn

/-- The effect of a write to a register whose write is an act of its own. -/
def State.act (s : State) (hp : Fin 2) (off : Nat) (v : Word) : Option State :=
  if off = 0x204 then some (s.writeRun v)
  else if 0x11000 ≤ off ∧ off < 0x12000 ∧ off % 16 = 12 then some (s.doorbell hp (ringOf off) v)
  else if off = 0x20104 then some (s.armSwap hp false v)
  else if 0x21000 ≤ off ∧ off < 0x31000 ∧ off % 0x1000 = 0 then some (s.writePenb (portAt off) v)
  else if 0x40000 ≤ off ∧ off < 0x40080 ∧ off % 0x20 = 0 then some (s.writeMotEnb (motAt off) v)
  else if off = 0x50024 then some (s.armSwap hp true v)
  else if off = 0x50030 then some (s.clearSensors v)
  else if off = 0x70000 then some (s.writeScmEnb v)
  else if off = 0x70020 then some (s.writeErase v)
  else if off = 0xA0000 then
    some (if budgetOk (v.toNat % 65536) then s.setReg off (BitVec.ofNat 32 (v.toNat % 65536)) else s.wign hp off)
  else if off = 0xB0000 then some (s.writeArm v)
  else if off = 0xB0010 then some (s.clearFaults hp v)
  else if off = 0xC0010 then some (s.newChallenge v)
  else if 0x200000 ≤ off ∧ off % 0x2000 = 0 then some (s.writeSeq (cellAt off) v)
  else none

/-! ## Stored registers -/

/-- What follows the change of a register of the CEL window: a queue whose BASE or HALF changes is flushed (R145), one whose HALF changes forgets the last word it delivered (R135), watermarks are judged anew, a changed time-surface region restarts the moult (R182). -/
def State.celWritten (s : State) (c : Fin 256) (o : Nat) (old : Nat) : State :=
  let now := (s.reg (celR c o)).toNat
  if 0x1000 ≤ o ∧ o < 0x1400 then
    let q := queueNo ((o - 0x1000) / 4)
    let x := s.queue c q
    if bitsOf now 28 0 = bitsOf old 28 0 then s
    else s.putQueue c q { flushQueue x with last := if bitsOf now 12 0 = bitsOf old 12 0 then x.last else 0 }
  else if 0x1400 ≤ o ∧ o < 0x1800 then
    let q := queueNo ((o - 0x1400) / 4)
    s.putQueue c q (s.queue c q)
  else if 0x40 ≤ o ∧ o < 0x60 then s.modCell c fun x => { x with moultFull := true }
  else s

/-- What follows the change of a stored register from `old`. -/
def State.written (s : State) (hp : Fin 2) (off : Nat) (old : Nat) : State :=
  if (s.reg (regKey hp off)).toNat = old then s
  else if 0x200000 ≤ off then s.celWritten (cellAt off) (off % 0x2000) old
  else if off = 0x70004 then s.emptyRegion
  else if off = 0x20F08 then s.settleExclude
  else if 0x21000 ≤ off ∧ off < 0x31000 then s.updFlow (portAt off)
  else if 0x40000 ≤ off ∧ off < 0x40080 then s.setFrames (motAt off) (s.mot (motAt off)).fifo
  else if 0x90040 ≤ off ∧ off < 0x90080 then s.requestsWritten
  else if 0x10000 ≤ off ∧ off < 0x20000 then (s.fetchAhead hp).updAttn
  else s.updAttn

/-- A write to a register of CFG, CTL and ENB fields (R451, R452): CFG as a whole or not at all, the other classes as they are. The block's enable is judged as it stands before the write. -/
def State.storeReg (s : State) (hp : Fin 2) (off : Nat) (r : RegRow) (v : Word) : State :=
  let key := regKey hp off
  let old := (s.reg key).toNat
  let changed := Nat.land old r.cfg != Nat.land v.toNat r.cfg
  let ok := s.cfgOpen hp off && s.legal off old v.toNat
  let cfg := if ok then Nat.land v.toNat r.cfg else Nat.land old r.cfg
  let s1 := if changed && !ok then s.wign hp off else s
  (s1.setReg key (BitVec.ofNat 32 (cfg + Nat.land v.toNat (r.ctl + r.enb)))).written hp off old

/-- A write that reaches a register: counters are loaded (R5), STS, LAT and MBX fields ignored (R456), semaphores and the mailbox as R434 and R460 say. -/
def State.regWrite (s : State) (hp : Fin 2) (off : Nat) (r : RegRow) (v : Word) : State :=
  match r.kind with
  | .lat _ => s
  | .cnt => s.loadCtr (regKey hp off) v
  | .sem => s.writeSem hp ⟨(off - 0x400) / 4 % 64, Nat.mod_lt _ (by decide)⟩ v
  | .mbx => s.selectMbx hp (BitVec.ofNat 16 v.toNat)
  | .plain =>
    if r.cfg + r.ctl + r.enb = 0 then s
    else match s.act hp off v with
      | some t => t
      | none => s.storeReg hp off r v

/-- Has a register a field of class CFG, CTL, ENB or CNT? (R437) -/
def guarded (r : RegRow) : Bool :=
  match r.kind with
  | .cnt => true
  | .plain => r.cfg + r.ctl + r.enb != 0
  | _ => false

/-- A first access by a host gives a clock back: to a clutch by its CEL windows, to the Track Manager and Scene Memory by their registers (R474). -/
def State.wakeWindow (s : State) (off : Nat) : State :=
  if 0x200000 ≤ off ∧ off < 0x400000 then s.ungate (clutchOf (cellAt off))
  else if 0x60000 ≤ off ∧ off < 0x70000 then { s with trk := { s.trk with gated := false } }
  else if 0x70000 ≤ off ∧ off < 0x80000 then { s with scm := { s.scm with gated := false } }
  else s

/-- One host write of a doubleword at a BAR0 offset as the device performs it (R438, R444, R448, R451 to R456, R474). -/
def State.performWrite (s : State) (hp : Fin 2) (off : Nat) (be : BitVec 4) (v : Word) : State :=
  if be = 0 then s
  else if be ≠ 15 then s.accErr hp true off be
  else match regRow? off with
    | none => s.accErr hp true off be
    | some r =>
      if s.inHosted off then s.accErr hp true off be
      else if guarded r && !s.holds hp (guardOf off) then s.bump (hifR hp 0x50)
      else (s.wakeWindow off).regWrite hp off r v

/-- Is an offset that of a register whose block's clock stands still? (R475) -/
def State.asleep (s : State) (off : Nat) : Bool := (regRow? off).isSome && retained off && !s.clocked

/-- A write joins those of its port that stall (R447, R475). -/
def State.stallWrite (s : State) (hp : Fin 2) (off : Nat) (be : BitVec 4) (v : Word) : State :=
  s.modHost hp fun x => { x with late := x.late ++ [(off, be, v)] }

/-- One host write of a doubleword at a BAR0 offset: in the order of its port's requests (R447); one to a block in retention asks for a wake and stalls until the block is ready (R475). -/
def State.hostWrite (s : State) (hp : Fin 2) (off : Nat) (be : BitVec 4) (v : Word) : State :=
  if !(s.host hp).up || s.sec.halted || decide (be = 0) then s
  else
    let t := if s.asleep off then s.wakeRequest 2 0 else s
    if !(s.host hp).late.isEmpty || t.asleep off then t.stallWrite hp off be v else t.performWrite hp off be v

/-- The stalled writes of a port, in order (R447, R475). -/
def State.lateWrites (s : State) (hp : Fin 2) : State :=
  (s.modHost hp fun x => { x with late := [] }).each (s.host hp).late fun t w => t.performWrite hp w.1 w.2.1 w.2.2

/-- A request of several doublewords: as many writes in ascending order, each by its own byte enables (R446). -/
def State.hostWrites (s : State) (hp : Fin 2) (off : Nat) (l : List (BitVec 4 × Word)) : State :=
  s.each l.zipIdx fun t w => t.hostWrite hp (off + 4 * w.2) w.1.1 w.1.2

/-! ## The commands -/

/-- `REGISTER_WRITE` (R444, R446, R451). -/
def execRegisterWrite (hp : Fin 2) (off : Nat) (be : BitVec 4) (v : Word) (s : State) (rest : List (BitVec 4 × Word) := []) : Res :=
  .next (s.hostWrites hp off ((be, v) :: rest))

/-- `PORT_ENABLE` (R93): a write of 1 to `INK_PENB`. -/
def execPortEnable (hp : Fin 2) (p : Fin 16) (s : State) : Res := .next (s.hostWrite hp (inkP p 0) 15 1)

/-- `PORT_DISABLE` (R94): a write of 0 to `INK_PENB`. -/
def execPortDisable (hp : Fin 2) (p : Fin 16) (s : State) : Res := .next (s.hostWrite hp (inkP p 0) 15 0)

/-- `INK_TSWAP_ARM` (R109 to R111): a write of ARM and a port mask. -/
def execInkTswapArm (hp : Fin 2) (mask : BitVec 16) (s : State) : Res :=
  .next (s.hostWrite hp 0x20104 15 (BitVec.ofNat 32 (2 ^ 31 + mask.toNat)))

/-- `STEP_RUN_SET` (R42). -/
def execStepRunSet (hp : Fin 2) (s : State) : Res := .next (s.hostWrite hp 0x204 15 1)

/-- `STEP_RUN_CLEAR` (R43). -/
def execStepRunClear (hp : Fin 2) (s : State) : Res := .next (s.hostWrite hp 0x204 15 0)

/-- `CEL_SEQ_START` (R191). -/
def execCelSeqStart (hp : Fin 2) (c : Fin 256) (s : State) : Res := .next (s.hostWrite hp (celR c 0) 15 1)

/-- `CEL_SEQ_STOP` (R192). -/
def execCelSeqStop (hp : Fin 2) (c : Fin 256) (s : State) : Res := .next (s.hostWrite hp (celR c 0) 15 0)

/-- `FUS_SNS_CLR_WRITE` (R348). -/
def execFusSnsClrWrite (hp : Fin 2) (mask : BitVec 16) (s : State) : Res := .next (s.hostWrite hp 0x50030 15 (BitVec.ofNat 32 mask.toNat))

/-- `FUS_TSWAP_ARM` (R344). -/
def execFusTswapArm (hp : Fin 2) (kinds : BitVec 3) (s : State) : Res :=
  .next (s.hostWrite hp 0x50024 15 (BitVec.ofNat 32 (2 ^ 31 + kinds.toNat)))

/-- `SCM_ENABLE` (R381). -/
def execScmEnable (hp : Fin 2) (s : State) : Res := .next (s.hostWrite hp 0x70000 15 1)

/-- `SCM_DISABLE` (R401). -/
def execScmDisable (hp : Fin 2) (s : State) : Res := .next (s.hostWrite hp 0x70000 15 0)

/-- `SCM_GEOM_WRITE` (R381). -/
def execScmGeomWrite (hp : Fin 2) (v : Word) (s : State) : Res := .next (s.hostWrite hp 0x70004 15 v)

/-- `SCM_ERASE` (R400). -/
def execScmErase (hp : Fin 2) (s : State) : Res := .next (s.hostWrite hp 0x70020 15 1)

/-- `COMMAND_DOORBELL` (R412, R422): a write of `HIF_RDB0`. -/
def execCommandDoorbell (hp : Fin 2) (count : Word) (s : State) : Res := .next (s.hostWrite hp 0x1100C 15 count)

/-- `CONSUMER_DOORBELL` (R412): a write of `HIF_RDBn`. -/
def execConsumerDoorbell (hp : Fin 2) (ring : Fin 256) (count : Word) (s : State) : Res :=
  .next (s.hostWrite hp (0x1100C + 16 * ring.val) 15 count)

/-- `MAILBOX_SELECT` (R460, R462). -/
def execMailboxSelect (hp : Fin 2) (sel : BitVec 16) (s : State) : Res := .next (s.hostWrite hp 0x100 15 (BitVec.ofNat 32 sel.toNat))

/-- `LEVEL_REQUEST_WRITE` (R470). -/
def execLevelRequestWrite (hp : Fin 2) (cl : Fin 16) (lvl : BitVec 2) (s : State) : Res :=
  .next (s.hostWrite hp (0x90040 + 4 * cl.val) 15 (BitVec.ofNat 32 lvl.toNat))

/-- `SAF_ARM` (R506, R507). -/
def execSafArm (hp : Fin 2) (arm : Bool) (s : State) : Res := .next (s.hostWrite hp 0xB0000 15 (if arm then 1 else 0))

/-- `SAF_CLEAR` (R508). -/
def execSafClear (hp : Fin 2) (mask : BitVec 9) (s : State) : Res := .next (s.hostWrite hp 0xB0010 15 (BitVec.ofNat 32 mask.toNat))

/-- `DEBUG_CHALLENGE` (R536). -/
def execDebugChallenge (hp : Fin 2) (s : State) : Res := .next (s.hostWrite hp 0xC0010 15 1)

/-- `SEM_RELEASE` (R434). -/
def execSemRelease (hp : Fin 2) (n : Fin 64) (s : State) : Res := .next (s.hostWrite hp (0x400 + 4 * n.val) 15 0x10000)

/-- `SEM_LEASE_SET` (R434). -/
def execSemLeaseSet (hp : Fin 2) (n : Fin 64) (lease : Byte) (s : State) : Res :=
  .next (s.hostWrite hp (0x400 + 4 * n.val) 15 (BitVec.ofNat 32 (lease.toNat * 256)))

/-- BAR0 offsets of the registers whose parity disagrees with their CFG fields, in the order of the scan (R458): one that holds its reset values, its parity with them, agrees. -/
def State.badOffsets (s : State) : List Nat :=
  let keys := distinct (s.regs.map (fun kv => kv.1) ++ s.par.map fun kv => kv.1)
  sortNat ((keys.filter s.parityBad).map fun k => k % portStride)

/-- One mismatch of a pass: a fault, and the offset recorded if there was none before (R459). -/
def State.scanMismatch (s : State) (off : Nat) : State :=
  let t := { s with disc := { s.disc with
    cfgMismatch := true, cfgAddr := if s.disc.cfgMismatch then s.disc.cfgAddr else BitVec.ofNat 20 (off / 4) } }
  t.deviceFault 0x24 4 0 0 (BitVec.ofNat 32 off) true

/-- `CFG_SCAN_PASS` (R457 to R459, R497): what has struck the registers' storage since the last pass, then a pass of the parity scan over every register; cause 0x24 stays until a pass finds no mismatch. -/
def execCfgScanPass (struck : List (Nat × Fin 33)) (s : State) : Res :=
  let t := (s.each struck fun u k => u.strike k.1 k.2).bump 0x88
  .next (match t.badOffsets with
    | [] => ({ t with disc := { t.disc with cfgMismatch := false } }).causeGone 4
    | l => t.each l State.scanMismatch)

/-- `WAKE_COMPLETE` (R65, R475, R477, R481, R483, R506): an exit is complete; what was queued comes next, and the accesses that stalled are performed. -/
def execWakeComplete (w : WakeInputs) (s : State) : Res :=
  .next (match s.pwr.waking with
    | none => s
    | some t =>
      let u := (s.wakeUp w t).afterExit
      if u.clocked then (u.lateWrites 0).lateWrites 1 else u)

end Sys2Proof.Machine
end

