-- ==== Sys2Proof/Machine/Neuron.lean ====
section
/-! DEFINITION. The neuron engine, the skip predictor and the ledger instructions, majors 0x13, 0x15 and 0x16 (R273 to R282). -/

namespace Sys2Proof.Machine

/-! ## Neuron engine (R273 to R277) -/

/-- A neuron map the engine does not take (R273). -/
def neuronBad (d : Desc) : Bool := d.bad || d.esize != 3 || decide (16384 < d.w * d.h * d.c)

/-- A filter `NINT` does not take: it is taken as `CONV` takes one (R260, R274). -/
def neuronFilterBad (gd gf : Desc) : Bool := gf.bad || decide (15 < gf.w) || decide (15 < gf.h) || gd.c != gf.n

/-- The two halves of a neuron record: V and I. -/
def recV (r : Nat) : Int := signedOf 16 r
def recI (r : Nat) : Int := signedOf 16 (r / 65536)
def recOf (v i : Int) : Nat := patternOf 16 i * 65536 + patternOf 16 v

/-- Positions of the records of a map: sites in ascending (y, x), channels within. -/
def recordsOf (d : Desc) : List (Nat × Nat × Nat) := (sitesOf d.w d.h).flatMap fun o => (List.range d.c).map fun ch => (o.1, o.2, ch)

/-- Add to I of a neuron, modulo 2^16. -/
def State.addInput (s : State) (c : Fin 256) (d : Desc) (x y ch : Nat) (v : Int) : State :=
  let r := s.elem c d x y ch 0
  s.setElem c d x y ch 0 (recOf (recV r) (recI r + v))

/-- `NINT` in CONV mode (R274). -/
def execNintConv (c : Fin 256) (f : Fields) (u : Upset) (s : State) : Res :=
  .next (s.issueToken c f ⟨.g, .g, .s, im 33 25, true⟩ false [sId f.b] 0x13 fun s => s.underUpset c u fun s =>
    let gd := s.descAt c f.d
    let gf := s.descAt c f.a
    let w := s.sreg c f.b
    match (if neuronBad gd || neuronFilterBad gd gf then [4] else []) ++ (if gf.esize = 1 then [] else [0x12]) ++ (if gf.c ≤ siteC w then [0x11] else []) with
    | code :: t => s.engineDone c f 0x13 [] (.none s (lowestCode (code :: t)))
    | [] =>
      let hits := tapHits gd gf (siteX w) (siteY w)
      let s1 := s.each hits fun t h => t.each (List.range gd.c) fun t co =>
        t.addInput c gd h.ox h.oy co (signedOf 8 (s.elem c gf h.kx h.ky (siteC w) co) * (2 ^ immOf f 28 25 : Nat))
      let beyond := s.deltaBeyond c gd gf [(siteC w, 0)] hits
      let n := hits.length * gd.c
      (s1.charge c 6 n).engineDone c f 0x13 [8, 9] { s := s1.charge c 6 n, codes := if beyond then [2] else [], count := n })

/-- `NINT` in LIST mode (R275): header i lies at site i of ga's array, SITE bytes apart; a target beyond the map receives
nothing. DEDUCED, log entry 44. -/
def execNintList (c : Fin 256) (f : Fields) (u : Upset) (s : State) : Res :=
  .next (s.issueToken c f ⟨.g, .g, .s, im 33 25, true⟩ false [sId f.b] 0x13 fun s => s.underUpset c u fun s =>
    let gd := s.descAt c f.d
    let ga := s.descAt c f.a
    if neuronBad gd || ga.bad then s.engineDone c f 0x13 [] (.none s 4)
    else
      let at' := ga.base + ga.site * bitsOf (s.sreg c f.b).toNat 17 0
      let h := s.readNat c ga.mem at' 8
      let m : Mem := if bitAt h 20 then .cwm else .thatch
      let count := bitsOf h 45 28
      let base := bitsOf h 63 50
      let sh := bitsOf h 49 46
      let syn := (List.range count).map fun i => s.readNat c m (bitsOf h 19 0 + 2 * i) 2
      let hits := syn.filter fun y => decide (base + bitsOf y 15 4 < gd.w * gd.h * gd.c)
      let s1 := s.each hits fun t y =>
        let n := base + bitsOf y 15 4
        t.addInput c gd (n / gd.c % gd.w) (n / gd.c / gd.w) (n % gd.c) (signedOf 4 y * (2 ^ sh : Nat))
      let beyond := decide (s.memLimit c ga.mem < at' + 8) || decide (0 < count ∧ s.memLimit c m < bitsOf h 19 0 + 2 * count) ||
        hits.any fun y =>
          let n := base + bitsOf y 15 4
          s.elemBeyond c gd (n / gd.c % gd.w : Nat) (n / gd.c / gd.w : Nat) (n % gd.c) 0
      (s1.charge c 6 hits.length).engineDone c f 0x13 [8, 9] {
        s := s1.charge c 6 hits.length, codes := if beyond then [2] else [], count := hits.length })

/-- Parameter set of `NFIRE`: THETA and RESET (R283). -/
def State.theta (s : State) (c : Fin 256) (n : Nat) : Int := signedOf 16 (s.fld (celR c (0x600 + 4 * n)) 15 0)
def State.resetTo (s : State) (c : Fin 256) (n : Nat) : Int := signedOf 16 (s.fld (celR c (0x600 + 4 * n)) 31 16)

/-- Does a neuron with this record fire? -/
def State.fires (s : State) (c : Fin 256) (pset r : Nat) : Bool := decide (s.theta c pset ≤ (satTo 16 (recV r + recI r)).1)

/-- The spike items of a map (R276): one per site and 64-channel chunk with a neuron that fired. -/
def State.spikeItems (s : State) (c : Fin 256) (d : Desc) (pset layer : Nat) (stamp : DWord) : List (List DWord) :=
  (sitesOf d.w d.h).flatMap fun o => (List.range (spanRegs d.c)).filterMap fun k =>
    let mask := ((List.range (min 64 (d.c - 64 * k))).filter fun i => s.fires c pset (s.elem c d o.1 o.2 (64 * k + i) 0)).foldl
      (fun a i => a + 2 ^ i) 0
    if mask = 0 then none
    else some [BitVec.ofNat 64 (3 * 2 ^ 60 + layer * 2 ^ 48 + o.1 * 2 ^ 36 + o.2 * 2 ^ 24 + k * 2 ^ 16), BitVec.ofNat 64 mask, stamp]

/-- `NFIRE` (R276). -/
def execNfire (c : Fin 256) (f : Fields) (u : Upset) (s : State) : Res :=
  .next (s.issueToken c f ⟨.none, .g, .s, im 33 10, true⟩ (bitAt f.b.toNat 0) [sId f.b, sId (f.b + 1)] 0x13 fun s => s.underUpset c u fun s =>
    let d := s.descAt c f.a
    let pset := immOf f 13 10
    if neuronBad d then s.engineDone c f 0x13 [] (.none s 4)
    else
      let recs := recordsOf d
      let s1 := s.each recs fun t p =>
        let r := s.elem c d p.1 p.2.1 p.2.2 0
        t.setElem c d p.1 p.2.1 p.2.2 0 (recOf (if s.fires c pset r then s.resetTo c pset else (satTo 16 (recV r + recI r)).1) 0)
      let n := (recs.filter fun p => s.fires c pset (s.elem c d p.1 p.2.1 p.2.2 0)).length
      let beyond := recs.any fun p => s.elemBeyond c d p.1 p.2.1 p.2.2 0
      let s2 := (if n = 0 then s1 else s1.bump (celR c 0x694) n).charge c 6 recs.length
      s2.engineDone c f 0x13 [8] {
        s := s2, codes := if beyond then [2] else [], count := n, queue := some (queueNo (immOf f 29 22))
        items := s.spikeItems c d pset (immOf f 21 14) (((s.cell c).pair f.b).setWidth 62 |>.setWidth 64) })

/-- `NLEAK` (R277). -/
def execNleak (c : Fin 256) (f : Fields) (u : Upset) (s : State) : Res :=
  .next (s.issueToken c f ⟨.none, .g, .s, im 33 30, true⟩ false [sId f.b] 0x13 fun s => s.underUpset c u fun s =>
    let d := s.descAt c f.a
    if neuronBad d then s.engineDone c f 0x13 [] (.none s 4)
    else
      let k : Int := bitsOf (s.sreg c f.b).toNat 15 0
      let recs := recordsOf d
      let s1 := s.each recs fun t p =>
        let r := s.elem c d p.1 p.2.1 p.2.2 0
        t.setElem c d p.1 p.2.1 p.2.2 0 (recOf ((recV r * k + 32768) / 65536) (recI r))
      let beyond := recs.any fun p => s.elemBeyond c d p.1 p.2.1 p.2.2 0
      let s2 := s1.charge c 6 recs.length
      s2.engineDone c f 0x13 [8] { s := s2, codes := if beyond then [2] else [], count := recs.length })

/-! ## Skip predictor (R278 to R280, R299 to R303, R306) -/

/-- T(L) of R299. -/
def skipThreshold (l : Nat) : Nat := [0, 1, 2, 3, 4, 6, 8, 12].getD l 12

/-- The decision of `PSKIP` for a site's sums: exact where the bound reaches the threshold or a sum does not fit int8 (R278, R279, R306). -/
def skipExact (compat : Bool) (level gov g : Nat) (l : List Int) : Bool :=
  let b := if compat then 256 * l.foldl (fun a v => max a v.natAbs) 0 else g * l.foldl (fun a v => a + v.natAbs) 0
  let lv := if compat then level else min 7 (level + gov)
  decide (256 * skipThreshold lv ≤ b) || l.any fun v => (satTo 8 v).2

/-- `PSKIP` (R278, R279). -/
def execPskip (c : Fin 256) (f : Fields) (u : Upset) (s : State) : Res :=
  let site : BitVec 5 := BitVec.ofNat 5 (immOf f 29 25)
  let dp := immOf f 24 22
  let d := s.descAt c f.a
  let m := spanRegs d.c
  let fits := decide (256 < d.c) || (decide (f.b.toNat + m ≤ 16) && decide (f.d.toNat + m ≤ 16))
  .next (s.issueToken c f ⟨.v, .g, .v, im 33 18 + im 15 0, fits⟩ false
    ([sId site, pId dp] ++ spanIds f.b (min m 4) ++ spanIds f.d (min m 4)) 0x15 fun s => s.underUpset c u fun s =>
    let d := s.descAt c f.a
    let w := s.sreg c site
    let bad := d.bad || d.esize != 1 || decide (256 < d.c) || f.b.toNat % m != 0 || f.d.toNat % m != 0
    match (if bad then [4] else []) ++ (if d.inside (siteX w) (siteY w) then [] else [0x11]) with
    | code :: t => s.engineDone c f 0x15 [] (.none s (lowestCode (code :: t)))
    | [] =>
      let sums := (List.range d.c).map fun ch => signedOf 8 (s.elem c d (siteX w) (siteY w) ch 0) + (s.cell c).deltaIn f.b ch
      let ex := skipExact (bitAt f.imm.toNat 18) (immOf f 21 19) (s.clutch (clutchOf c)).gov (immOf f 15 0) sums
      let out := sums.map fun v => if ex then (satTo 8 v).1 else 0
      let s1 := s.each (sums.zip out).zipIdx fun t r => t.setElem c d (siteX w) (siteY w) r.2 0 (patternOf 8 (r.1.1 - r.1.2))
      let beyond := (List.range d.c).any fun ch => s.elemBeyond c d (siteX w) (siteY w) ch 0
      let s2 := (s1.bump (celR c (if ex then 0x68C else 0x690))).charge c 7 1
      s2.engineDone c f 0x15 [8, 9] {
        s := s2, codes := if beyond then [2] else [], count := bitOf ex, pregs := [(dp, ex)]
        vregs := (List.range m).map fun i => (f.d.toNat + i, vpack 8 (((out.drop (64 * i)).take 64).map fun v => patternOf 8 v)) })

/-- `PFLUSH` (R280). -/
def execPflush (c : Fin 256) (f : Fields) (u : Upset) (s : State) : Res :=
  .next (s.issueToken c f ⟨.none, .g, .none, im 33 14, true⟩ false [] 0x15 fun s => s.underUpset c u fun s =>
    let d := s.descAt c f.a
    if d.bad || d.esize != 1 then s.engineDone c f 0x15 [] (.none s 4)
    else
      let sites := sitesOf d.w d.h
      let items := sites.flatMap fun o => deltaItems (immOf f 21 14) o.1 o.2 ((List.range d.c).map fun ch => signedOf 8 (s.elem c d o.1 o.2 ch 0))
      let s1 := s.each (recordsOf d) fun t p => t.setElem c d p.1 p.2.1 p.2.2 0 0
      let beyond := (recordsOf d).any fun p => s.elemBeyond c d p.1 p.2.1 p.2.2 0
      let s2 := s1.charge c 7 sites.length
      s2.engineDone c f 0x15 [8, 9] {
        s := s2, codes := if beyond then [2] else [], count := items.length, queue := some (queueNo (immOf f 29 22)), items := items })

/-! ## Ledger (R281, R282) -/

/-- `ECHK`. -/
def execEchk (c : Fin 256) (f : Fields) (s : State) : Res :=
  .next (s.issue c f ⟨.s, .none, .none, 0, true⟩ false [sId f.d] fun s =>
    .go (s.modCell c fun x => x.setS f.d (BitVec.ofNat 32 (s.quantaLeft c))))

/-- `EADMIT`. -/
def execEadmit (c : Fin 256) (f : Fields) (s : State) : Res :=
  let p : BitVec 3 := BitVec.ofNat 3 (immOf f 2 0)
  .next (s.issue c f ⟨.s, .s, .none, im 2 0, true⟩ false [sId f.d, sId f.a, pId p.toNat] fun s =>
    let want := (s.sreg c f.a).toNat
    if want ≤ s.quantaLeft c then
      let s1 := s.modCell c fun x => { x with reserved := x.reserved + want }
      .go (s1.modCell c fun x => (x.setS f.d (BitVec.ofNat 32 (s1.quantaLeft c))).setP p true)
    else
      .go (((s.bump 0xA0208).addTotal 0x130 1).modCell c fun x => (x.setS f.d (BitVec.ofNat 32 (s.quantaLeft c))).setP p false))

end Sys2Proof.Machine
end

