-- ==== Sys2Proof/Machine/Steps.lean ====
section
/-! DEFINITION. The steps and the ridge (02): the first step opens, the ridge becomes due and closes, `HBEAT`, the ridge watchdog. What each chapter lets happen at a ridge close is called from here. -/

namespace Sys2Proof

/-- The device's own spending D of a step: its leakage and what else the Steward charges (R485, R491). -/
def RidgeInputs.own (d : RidgeInputs) : Nat := d.spend + d.leakage

end Sys2Proof

namespace Sys2Proof.Machine

/-! ## The cells of the job (R49) -/

/-- A cell takes part in the steps while the image places it; a running one without a cell step takes step k (R49, R419). -/
def joinCell (job : List (Fin 256)) (k : Nat) (c : Fin 256) (x : Cell) : Cell :=
  { x with
    participates := job.contains c
    step := if x.mode == .running && x.step.isNone then some k else x.step }

/-- Step k opens for the cells. -/
def State.joinCells (s : State) (k : Nat) : State :=
  let job := s.imageCells
  { s with cells := Vector.ofFn fun c : Fin 256 => joinCell job k c (s.cell c) }

/-- The words admitted to an output queue before any step opened carry the first step (R336, R419). -/
def stampWords (k : Nat) (q : Queue) : Queue :=
  { q with words := q.words.map fun (w : QWord) => { w with step := some (w.step.getD k) } }

/-- Queues 248 to 250 of a cell. -/
def stampOutputs (k : Nat) (x : Cell) : Cell :=
  { x with queues := Vector.ofFn fun q : Fin 256 =>
      let y := x.queues[q.val]
      if q.val = 248 ∨ q.val = 249 ∨ q.val = 250 then stampWords k y else y }

/-! ## Allowances and the governor (R486, R489) -/

/-- Sum of the weights of the clutches in service. -/
def State.weightSum (s : State) : Nat :=
  (((List.finRange 16).filter fun c => (s.clutch c).inService).map fun c => s.fld (0xA0040 + 4 * c.val) 7 0).sum

/-- Quanta of the budget in one step: MW times P (R486). -/
def State.budget (s : State) : Nat := s.fld 0xA0000 15 0 * s.period

/-- The allowance the ledger fixes for each cell of a clutch, `d` being the device's own spending (R486). -/
def State.allowanceOf (s : State) (d : Nat) (c : Fin 16) : Nat :=
  if s.fld 0xA0000 15 0 = 0 then 4294967295
  else (s.budget - d) * s.fld (0xA0040 + 4 * c.val) 7 0 / s.weightSum / (s.ownCells c).length

/-- The allowances of the first two steps after a start; a cell that is still in step `old` or before keeps what it had (R217, R486). -/
def State.firstAllowances (s : State) (old : Nat) : State :=
  let d := s.led.dLast.getD (s.budget / 2)
  s.each ((List.finRange 16).filter fun c => (s.clutch c).inService) fun t c =>
    t.modClutch c fun x => { x with
      allowPast := assocPut x.allowPast old x.allow, allow := s.allowanceOf d c, allowNext := s.allowanceOf d c }

/-- The allowances move on by one step from step k, that of step k + 2 being fixed (R486). -/
def State.nextAllowances (s : State) (k d : Nat) : State :=
  s.each ((List.finRange 16).filter fun c => (s.clutch c).inService) fun t c =>
    t.modClutch c fun x => { x with
      allowPast := assocPut x.allowPast k x.allow, allow := x.allowNext, allowNext := s.allowanceOf d c }

/-- The governor's counts and level after a step in which a clutch spent `sp` of an allowance `a` (R489): the clutch, and whether GOV went up or down. -/
def governed (cfg : Nat) (sp a : Nat) (x : Clutch) : Clutch × Bool × Bool :=
  let up := if a < sp then x.up + 1 else 0
  let dn := if a < sp then 0 else if 256 * sp < bitsOf cfg 7 0 * a then x.dn + 1 else 0
  let rise := decide (bitsOf cfg 15 12 ≤ up)
  let fall := decide (bitsOf cfg 19 16 ≤ dn)
  let up' := rise && decide (x.gov < bitsOf cfg 26 24)
  let g := if up' then x.gov + 1 else x.gov
  let dn' := fall && decide (0 < g)
  ({ x with gov := if dn' then g - 1 else g, up := if rise then 0 else up, dn := if fall then 0 else dn }, up', dn')

/-- The governor of one clutch in service at the close of ridge k (R489). -/
def State.governClutch (s : State) (k : Nat) (c : Fin 16) : State :=
  let x := s.clutch c
  let sp := assocGet x.spent 0 k
  let a := x.allow * (s.ownCells c).length
  let y := { x with lastS := sp, spent := assocErase x.spent k }
  if s.bit 0xA0004 31 && decide (s.fld 0xA0000 15 0 ≠ 0) then
    let g := governed (s.reg 0xA0004).toNat sp a y
    let s1 := s.setClutch c g.1
    let s2 := if g.2.1 then s1.bump 0xA0210 else s1
    if g.2.2 then s2.bump 0xA0214 else s2
  else s.setClutch c { y with gov := 0 }

/-- The ledger at the close of ridge k: the device's own spending, of which the leakage is a part, and the governor (R485, R489, R491). -/
def State.closeLedger (s : State) (k : Nat) (d : RidgeInputs) : State :=
  let s1 := (((s.bump 0xA0200 d.own).addTotal 0x100 d.own).addTotal 0x102 d.own).addTotal 0x103 d.leakage
  s1.each ((List.finRange 16).filter fun c => (s.clutch c).inService) fun t c => t.governClutch k c

/-! ## The first step (R42, R184) -/

/-- Does the clear pass of R184 run when the first step k opens? -/
def State.clearPass (s : State) (k : Nat) : Bool :=
  match s.step.sinceLoad with
  | some e => !(decide (e ≤ k * s.period) && decide (k * s.period ≤ e + 4000))
  | none => true

/-- VALID cleared in every entry of a running cell's moult area, which goes on until a command of the cell finds it over (R165, R184; log entry 62). -/
def State.clearSurfaces (s : State) (c : Fin 256) : State :=
  if (s.cell c).mode == .running then ((s.visitLines c (s.moultArea c) 0 true).2).modCell c fun x => { x with clearing := true } else s

/-- A SWAP_SLOT whose swap has been made completes at the first step of the new image (R431). -/
def State.finishSwap (s : State) (k : Nat) : State :=
  if s.slots.swapped then
    let s1 := s.completeAll 4 stOk (stepIdx k).toNat 0
    { s1 with slots := { s1.slots with swap := none, swapped := false } }
  else s

/-- Step k opens as the first of a run of steps; `ups` are the upsets that a clear pass meets (R163). -/
def State.openFirst (s : State) (k : Nat) (ups : CellUpsets) : State :=
  let s1 := { s with step := { s.step with running := true, stopping := false, k := k, due := false, expired := 0 } }
  let s2 := s1.joinCells k
  let s3 := { s2.openScene k with cells := s2.cells.map (stampOutputs k) }
  let s4 := if s.clearPass k then (s3.meetAll ups).each (List.finRange 256) State.clearSurfaces else s3
  (((s4.enterRecovery.firstAllowances s.step.k).finishSwap k).goOnCounting 0x220).releaseHeld

/-- `FIRST_STEP_OPEN` (R42): RUN is 1, no step is open, and there is a device horizon. -/
def execFirstStepOpen (s : State) (ups : CellUpsets := []) : Res :=
  .next (match s.horizon with
    | some h =>
      if s.bit 0x204 0 && !s.step.running && !s.step.intakeStopped && s.clocked && !s.sec.halted then s.openFirst (h / s.period) ups else s
    | none => s)

/-! ## The due ridge (R45, R63, R109, R110, R344) -/

/-- Is an intake item an event of step k? Its kind is 0 and its stamp lies in the step (R116). -/
def State.eventOf (s : State) (k : Nat) (w0 w1 : DWord) : Bool :=
  decide (bitsOf w0.toNat 63 60 = 0) && decide (bitsOf w1.toNat 61 0 / s.period = k)

/-- Has the Intake pushed into cell queues every event of step k that it has decoded? (R45) -/
def State.intakePushed (s : State) (k : Nat) : Bool :=
  (List.finRange 16).all (fun p =>
    let x := s.port p
    !(x.held.any fun e => decide (e.stamp / s.period = k)) &&
    !(x.ready.any fun (r : Ready) => match r with | .event e => decide (e.stamp / s.period = k) | .trigger _ _ => false) &&
    !(x.lanes.any fun l => l.any fun o => s.eventOf k o.w0 o.w1)) &&
  !(s.mesh.any fun m => match m.src with
    | .port _ => s.eventOf k (m.words.getD 0 0) (m.words.getD 1 0)
    | _ => false)

/-- Is the step named by an armed swap the open one, or an earlier one? (R110) -/
def TableSwap.atOpen (x : TableSwap) (k : Nat) : Bool := x.armed && decide ((stepIdx k - BitVec.ofNat 32 x.step).toNat < 2 ^ 31)

/-- LATE_ARM: the swap happens at another ridge than it names (R110). -/
def TableSwap.judged (x : TableSwap) (k : Nat) : TableSwap := { x with lateArm := decide (stepIdx k ≠ BitVec.ofNat 32 x.step) }

/-- Armed table swaps take place in the cycle in which the ridge becomes due (R109, R110, R344). -/
def State.dueSwaps (s : State) (k : Nat) : State :=
  let s1 := if s.inkSwap.atOpen k then ({ s with inkSwap := s.inkSwap.judged k }).swapInk s.inkSwap.mask else s
  if s1.fusSwap.atOpen k then ({ s1 with fusSwap := s1.fusSwap.judged k }).swapFus s1.fusSwap.mask else s1

/-- The depth of every queue of a cell is marked (R217). -/
def markCell' (x : Cell) : Cell := { x with queues := x.queues.map fun (q : Queue) => { q with mark := some q.words.length } }

/-- A clutch with a cell in step k has its clock again (R474). -/
def State.wakeClutches (s : State) (k : Nat) : State :=
  s.each ((List.finRange 16).filter fun cl => (List.finRange 16).any fun i => (s.cell (cellOf cl i)).step == some k) State.ungate

/-- Is some spiking region in use? -/
def State.anyRegion (s : State) : Bool := (List.range 4).any fun r => decide (s.regionSize r ≠ 0)

/-- The waits of a due ridge begin to count: for its cells, and, where spiking regions are in use, for the delivery rule (R66). -/
def State.countDue (s : State) : State :=
  let s1 := s.goOnCounting 0x224
  if s1.anyRegion then s1.countWait 0x228 else s1

/-- The ridge of the open step becomes due. -/
def State.becomeDue (s : State) : State :=
  let k := s.step.k
  let s1 := { s with
    step := { s.step with due := true }, cells := s.cells.map markCell', fus := { s.fus with dueBank := some s.fus.active } }
  let s2 := ((s1.dueSwaps k).wakeClutches k).countDue
  if s2.pwr.entry.isSome && !s2.pwr.committed then s2.stopIntake else s2.releaseHeld

/-- `RIDGE_DUE` (R45, R46). -/
def execRidgeDue (s : State) : Res :=
  .next (match s.horizon with
    | some h =>
      if s.step.running && !s.step.due && !s.step.intakeStopped && s.clocked && !s.fatal &&
          decide (s.endOf s.step.k ≤ h) && s.intakePushed s.step.k then s.becomeDue
      else s
    | none => s)

/-! ## Latching (R59, R61, R465) -/

/-- The error counters of a cell that `DEV_LAST_CNZn` gathers (R465). -/
def cnzOffsets : List Nat := [0x1C00, 0x1C04, 0x1C08, 0x1C0C, 0x1C14, 0x1C18, 0x200, 0x214, 0x20C, 0x218, 0x31C, 0x680, 0x684, 0x704]

/-- Is a `LAST_` copy of a cell's error counters nonzero? Bits of hosted cells are 0 (R465). -/
def State.cellErrs (s : State) (c : Fin 256) : Bool :=
  !s.isHosted c && cnzOffsets.any fun o => assocGet s.lat 0 (celR c o) != 0

/-- Word n of `DEV_LAST_CNZn`. -/
def State.cnzWord (s : State) (n : Fin 8) : Word :=
  BitVec.ofNat 32 (((List.range 32).map fun i =>
    if s.cellErrs ⟨(32 * n.val + i) % 256, Nat.mod_lt _ (by decide)⟩ then 2 ^ i else 0).sum)

/-- Every counter copies into its `LAST_` register and restarts at zero, the cycles of its waits with it (R59, R61, R465). -/
def State.latch (s : State) (k : Nat) : State :=
  let s1 := { s with lat := s.cnt, cnt := [], latWaits := s.waits, waits := [] }
  { s1 with step := { s1.step with lastStep := stepIdx k, cnz := Vector.ofFn s1.cnzWord } }

/-- What still waits counts on in the new step (R59). -/
def State.countOn (s : State) : State := s.each (s.latWaits.map fun kv => kv.1) State.goOnCounting

/-- The flags of a queue that say what happened in the step fall (R147). -/
def freshQueue (q : Queue) : Queue :=
  { q with mark := none, ovr := false, unr := false, poison := false, flpart := false, ign := false }

/-! ## The close (R49, R52, R61) -/

/-- Reductions of a step up to k that still miss a cell are delivered with MISSING (R235). -/
def State.missReductions (s : State) (k : Nat) : State :=
  s.each (List.finRange 16) fun t cl => t.each (List.finRange 16) fun u (tag : Fin 16) =>
    match (u.clutch cl).reductions[tag.val] with
    | some r => if r.step ≤ k then u.deliverReduction cl tag r true else u
    | none => u

/-- A RETURNING port is ACTIVE from the close on, and the Track Manager enters recovery (R34, R372). -/
def State.portReturns (s : State) (p : Fin 16) : State :=
  if (s.port p).mode == .returning then (s.modPort p fun x => { x with mode := .active }).enterRecovery else s

/-- One rebuild step of a remapped cell is over (R345). -/
def rebuildStep (n : Nat) : Option Nat := if n ≤ 1 then none else some (n - 1)

/-- The sensor ports at a close (R34, R38, R345). -/
def State.closePorts (s : State) : State :=
  let s1 := s.each (List.finRange 16) State.portReturns
  ({ s1 with cells := s1.cells.map fun (x : Cell) => { x with rebuild := x.rebuild.bind rebuildStep } }).horizonMoved

/-- The Track Manager is owed the association of a step, which ended at its output time (R52); one not begun in time is counted, and behind while another waits for it (R358, R360, R474). -/
def State.oweAssociation (s : State) (k : Nat) : State :=
  let l := s.trk.waiting ++ [(k, s.endOf k)]
  let s1 := { s with trk := { s.trk with waiting := l, behind := decide (2 ≤ l.length), gated := false } }
  if s.trk.waiting.isEmpty then s1 else s1.bump 0x6005C

/-- Fusion's step: what ECC finds in its memory and in the reserved area, then the evaluation (R344, R504, R552). -/
def State.closeFusion' (s : State) (k : Nat) (d : RidgeInputs) : State :=
  ((s.fusionRead d.fusion).reservedRead d.reserved).closeFusion k d.zoneMismatch d.poisoned

/-- What leaves with step k (R52): staged records, Fusion's, Scene Memory's, the snapshots of the grid and the tokens. -/
def State.releaseRecords (s : State) (k : Nat) (d : RidgeInputs) : State :=
  ((s.writeStaged.closeFusion' k d).closeScene k d.lostTokens).takeSnapshots (fun w => w == 1 || w == 2) k

/-- E1 is reached when the ridge at which the Intake stopped closes, or, steps having stopped, at once (R63, R478). -/
def State.reachE1 (s : State) : State :=
  if s.pwr.entry.isSome && !s.pwr.committed && decide (s.pwr.point = 0) && (s.step.intakeStopped || !s.step.running) then
    let s1 := if s.step.intakeStopped then s else s.stopIntake
    { s1 with pwr := { s1.pwr with point := 1 } }
  else s

/-- A pending swap takes place at the stopping ridge, the commit point of its command, and the steps restart (R163, R424, R431). -/
def State.swapAtRidge (s : State) (d : RidgeInputs) : State :=
  let s1 := match s.slots.swap with
    | some (h, _) => s.commit h
    | none => s
  let s2 := ((s1.swapSlots d.upsets).openLoaded d.reserved).startAll
  { s2 with slots := { s2.slots with swapped := true } }

/-- The steps stop at this ridge, and the zone pins stay low (R43, R351, R431): a STOP command completes, a pending swap takes place and the steps restart. -/
def State.stopSteps (s : State) (k : Nat) (halt swap : Bool) (d : RidgeInputs) : State :=
  let s1 := { s.dropZones with step := { s.step with running := false, stopping := false, halting := false, due := false } }
  let s2 := if halt then s1.haltAll else s1
  let s3 := s2.completeAll 3 stOk (stepIdx k).toNat 0
  (if swap then s3.swapAtRidge d else s3).releaseHeld

/-- Step k + 1 is open after the close of ridge k. -/
def State.openNext (s : State) (k : Nat) : State :=
  let s1 := (s.joinCells (k + 1)).goOnCounting 0x220
  if s1.step.intakeStopped then s1 else s1.releaseHeld

/-- The step unit and the counters at the close of ridge k, `last` being the ridge at which steps stop and the zone pins are low (R351). A delivery rule that was unmet is met (R51, R508). -/
def State.closeUnit (s : State) (k : Nat) (last : Bool) (d : RidgeInputs) : State :=
  let s0 := (((s.closeLedger k d).nextAllowances k d.own).latch k).causeGone 3
  let s1 := if last then s0.dropZones else s0
  let s2 := { s1 with
    step := { s1.step with
      running := !last, k := k + 1, due := false, expired := 0, ridges := s1.step.ridges + 1, hbPend := s1.step.hbPend + 1
      closed := some (k, s.endOf k), sinceLoad := some (s.endOf k) }
    cells := s1.cells.map (fun (x : Cell) => { x with queues := x.queues.map freshQueue })
    pqOvr := 0, led := { s1.led with dLast := some d.own } }
  s2.countOn

/-- Ridge k closes. -/
def State.closeRidge (s : State) (d : RidgeInputs) : State :=
  let k := s.step.k
  let last := s.lastRidge
  let halt := s.step.halting
  let swap := s.swapHere
  let s1 := ((s.closeUnit k last d).releasePins).releaseRecords k d
  let s2 := ((s1.missReductions k).closePorts.tickSems.oweAssociation k).applyRequests.startSentinels
  (if last then s2.stopSteps k halt swap d else s2.openNext k).reachE1

/-- `RIDGE_CLOSE` (R49): due, every participating cell at its `RIDGE`, the delivery rule met. -/
def execRidgeClose (d : RidgeInputs) (s : State) : Res :=
  .next (if s.step.running && s.step.due && s.clocked && !s.fatal && s.cellsLeft.isEmpty && !s.delivHeld then s.closeRidge d else s)

/-! ## The heartbeat and the watchdog (R50, R51, R62) -/

/-- `HBEAT_TOGGLE` (R62): one toggle for each close, in order; none in the halt of R523. -/
def execHbeatToggle (s : State) : Res :=
  .next (if s.step.hbPend = 0 || s.sec.halted then s
    else { s with step := { s.step with hbeat := !s.step.hbeat, hbPend := s.step.hbPend - 1 } })

/-- A participating cell that the watchdog finds not at its `RIDGE` has failed (R50). -/
def State.watchdogFails (s : State) (c : Fin 256) : State :=
  (s.bump 0x22C).failCell c 3 0x11 (stepIdx ((s.cell c).step.getD s.step.k))

/-- The back-pressure regions whose spike items still hold the ridge (R51). -/
def State.stuckRegions (s : State) : List (Fin 4) :=
  (List.finRange 4).filter fun r => !s.dropRegime r.val && !(s.inFlight r s.step.k).isEmpty

/-- `RIDGE_WATCHDOG_EXPIRY` (R50, R51); the count holds while the Intake is stopped for power entry (R64). -/
def execRidgeWatchdogExpiry (s : State) : Res :=
  .next (if s.step.running && s.step.due && s.clocked && !s.fatal && !s.step.intakeStopped then
      match s.cellsLeft with
      | [] => s.each s.stuckRegions fun t r => t.deviceFault 0x23 3 0 0 (BitVec.ofNat 32 r.val) true
      | l => s.each l State.watchdogFails
    else s)

end Sys2Proof.Machine
end

