-- ==== Sys2Proof/Machine/VectorEng.lean ====
section
/-! DEFINITION. The vector engine, major 0x12 (R269 to R272). -/

namespace Sys2Proof.Machine

/-- Formats of vector register operations (R245, R269). -/
def isVec (f : Nat) : Bool := [0, 2, 3, 6, 7].contains f

/-- Lanes of a format in a register. -/
def laneCount (f : Nat) : Nat := 512 / fmtBits f

/-- The end of a vector register operation: lanes of `w` bits into vd, saturated or not. -/
def State.vecDone (s : State) (c : Fin 256) (f : Fields) (v : VReg) (sat : Bool) : Issue :=
  s.engineDone c f 0x12 [3] { s := s, codes := if sat then [0x15] else [], count := 0, vregs := [(f.d.toNat, v)] }

/-- A lane result: its pattern and whether it saturated. -/
abbrev Lane := Nat × Bool

/-- An integer result saturates to the lane (R269). -/
def intLane (w : Nat) (v : Int) : Lane :=
  let r := satTo w v
  (patternOf w r.1, r.2)

/-- A floating-point result rounded to the lane; overflow gives infinity as IEEE 754 has it (PRESUMED, log entry 28). -/
def floatLane (m : Fmt) (v : FVal) : Lane := (fRound m v, false)

/-- One vector register operation: formats other than R269's, or a floating-point format where only integers are taken, end with BADFMT. -/
def State.vecOp (s : State) (c : Fin 256) (f : Fields) (u : Upset) (two shift intOnly : Bool) (op : Nat → Nat → Nat → Nat → Nat → Lane) : State :=
  s.issueToken c f ⟨.v, .v, if two then .v else .none, im 33 26 + (if shift then im 25 21 else 0), true⟩ false
    ([vId f.d.toNat, vId f.a.toNat] ++ (if two then [vId f.b.toNat] else [])) 0x12 fun s => s.underUpset c u fun s =>
    let fmt := immOf f 29 26
    if !isVec fmt || (intOnly && isFloat fmt) then s.engineDone c f 0x12 [] (.none s 0x12)
    else
      let w := fmtBits fmt
      let x := s.cell c
      let l := (List.range (laneCount fmt)).map fun i =>
        op fmt (Config.freeOrder (s.free + i)) (immOf f 25 21) (vlane w (x.v (r4 f.a)) i) (vlane w (x.v (r4 f.b)) i)
      (s.ticks 64).vecDone c f (vpack w (l.map fun r => r.1)) (l.any fun r => r.2)

/-- Sum or difference of lanes. -/
def laneSum (neg : Bool) (fmt a b : Nat) : Lane :=
  match fmtFloat fmt with
  | some m => floatLane m ((fDecode m a).add (if neg then (fDecode m b).neg else fDecode m b))
  | none =>
    let w := fmtBits fmt
    intLane w (if neg then signedOf w a - signedOf w b else signedOf w a + signedOf w b)

/-- Product of lanes: integers shifted and rounded half up. -/
def laneMul (fmt shift a b : Nat) : Lane :=
  match fmtFloat fmt with
  | some m => floatLane m ((fDecode m a).mul (fDecode m b))
  | none => let w := fmtBits fmt; intLane w (shiftRound shift (signedOf w a * signedOf w b))

/-- The greater (or lesser) of two lanes. NaN and zeros of unlike sign leave the choice open (log entry 2). -/
def lanePick (least : Bool) (fmt k a b : Nat) : Nat :=
  let x := patVal fmt a
  let y := patVal fmt b
  if x.lt y then (if least then a else b) else if y.lt x then (if least then b else a)
  else if a = b then a else if k % 2 = 0 then a else b

/-- `VADD`. -/
def execVadd (c : Fin 256) (f : Fields) (u : Upset) (s : State) : Res :=
  .next (s.vecOp c f u true false false fun fmt _ _ a b => laneSum false fmt a b)
/-- `VSUB`. -/
def execVsub (c : Fin 256) (f : Fields) (u : Upset) (s : State) : Res :=
  .next (s.vecOp c f u true false false fun fmt _ _ a b => laneSum true fmt a b)
/-- `VMUL`: with a nonzero shift it is the integer form, which ends with BADFMT in a floating-point format (R269, DEDUCED, log entry 23). -/
def execVmul (c : Fin 256) (f : Fields) (u : Upset) (s : State) : Res :=
  .next (s.vecOp c f u true true (decide (immOf f 25 21 ≠ 0)) fun fmt _ sh a b => laneMul fmt sh a b)
/-- `VMAX`. -/
def execVmax (c : Fin 256) (f : Fields) (u : Upset) (s : State) : Res :=
  .next (s.vecOp c f u true false false fun fmt k _ a b => (lanePick false fmt k a b, false))
/-- `VMIN`. -/
def execVmin (c : Fin 256) (f : Fields) (u : Upset) (s : State) : Res :=
  .next (s.vecOp c f u true false false fun fmt k _ a b => (lanePick true fmt k a b, false))
/-- `VABS`. -/
def execVabs (c : Fin 256) (f : Fields) (u : Upset) (s : State) : Res :=
  .next (s.vecOp c f u false false false fun fmt _ _ a _ =>
    if isFloat fmt then (a % 2 ^ (fmtBits fmt - 1), false) else intLane (fmtBits fmt) (signedOf (fmtBits fmt) a).natAbs)
/-- `VSHL`. -/
def execVshl (c : Fin 256) (f : Fields) (u : Upset) (s : State) : Res :=
  .next (s.vecOp c f u false true true fun fmt _ sh a _ => intLane (fmtBits fmt) (signedOf (fmtBits fmt) a * (2 ^ sh : Nat)))
/-- `VSRA`. -/
def execVsra (c : Fin 256) (f : Fields) (u : Upset) (s : State) : Res :=
  .next (s.vecOp c f u false true true fun fmt _ sh a _ => intLane (fmtBits fmt) (signedOf (fmtBits fmt) a / ((2 ^ sh : Nat) : Int)))

/-- `VCVT`: lane i of one format becomes lane i of the other; lanes without a source are open (log entry 8). -/
def execVcvt (c : Fin 256) (f : Fields) (u : Upset) (s : State) : Res :=
  .next (s.issueToken c f ⟨.v, .v, .none, im 33 22, true⟩ false [vId f.d.toNat, vId f.a.toNat] 0x12 fun s => s.underUpset c u fun s =>
    let a := immOf f 29 26
    let b := immOf f 25 22
    if !((isVec a || a == 12) && (isVec b || b == 12)) then s.engineDone c f 0x12 [] (.none s 0x12)
    else
      let x := (s.cell c).v (r4 f.a)
      let l := (List.range (laneCount b)).map fun i =>
        if i < laneCount a then valueOut b 0 0 (Config.freeOrder (s.free + i)) (patVal a (vlane (fmtBits a) x i))
        else (vlane (fmtBits b) (Config.freeBits s.free) i, false)
      let sats := (l.filter fun r => r.2).length
      ((s.countSat c sats).ticks 64).vecDone c f (vpack (fmtBits b) (l.map fun r => r.1)) (decide (0 < sats)))

/-- Fold values in order, each partial result rounded to a format. -/
def roundFold (m : Fmt) (l : List FVal) : FVal :=
  match l with
  | [] => .fin false 0 0
  | x :: t => t.foldl (fun a y => fDecode m (fRound m (a.add y))) x

/-- The greatest or least pattern of a list. -/
def pickFold (least : Bool) (fmt k : Nat) (l : List Nat) : Nat :=
  match l with
  | [] => 0
  | x :: t => (t.foldl (fun a y => (lanePick least fmt a.2 a.1 y, a.2 / 2)) (x, k)).1

/-- `VRED`: operation 0b11 ends with BADFMT (R243). -/
def execVred (c : Fin 256) (f : Fields) (u : Upset) (s : State) : Res :=
  .next (s.issueToken c f ⟨.v, .v, .none, im 33 26 + im 21 20, true⟩ false [vId f.d.toNat, vId f.a.toNat] 0x12 fun s => s.underUpset c u fun s =>
    let fmt := immOf f 29 26
    let op := immOf f 21 20
    if !isVec fmt || op == 3 then s.engineDone c f 0x12 [] (.none s 0x12)
    else
      let w := fmtBits fmt
      let l := (List.range (laneCount fmt)).map fun i => vlane w ((s.cell c).v (r4 f.a)) i
      let r : Lane :=
        if op = 0 then
          match fmtFloat fmt with
          | some m => floatLane m (roundFold m (l.map fun v => fDecode m v))
          | none => intLane w (l.foldl (fun a v => a + signedOf w v) 0)
        else (pickFold (op == 2) fmt (Config.freeOrder s.free) l, false)
      s.tick.vecDone c f (BitVec.ofNat 512 r.1) r.2)

/-! ## Map operations (R270 to R272) -/

/-- `VDW` (R270, R293, R294): a grouped convolution. -/
def execVdw (c : Fin 256) (f : Fields) (u : Upset) (s : State) : Res :=
  .next (s.issueToken c f ⟨.g, .g, .g, im 33 15, true⟩ false [] 0x12 fun s => s.underUpset c u fun s =>
    let ga := s.descAt c f.a
    let gb := s.descAt c f.b
    let gd := s.descAt c f.d
    let fmt := immOf f 29 26
    let g := immOf f 25 22 + 1
    let act := immOf f 16 15
    let bad := ga.bad || gb.bad || gd.bad || ga.c % g != 0 || gb.c != g || gb.n != ga.c || gd.c != ga.c || decide (7 < gb.w) || decide (7 < gb.h) ||
      decide ((gd.w : Int) ≠ ga.outW gb) || decide ((gd.h : Int) ≠ ga.outH gb)
    let fmtOk := [0, 2, 6].contains fmt && fmtFits fmt ga && fmtFits fmt gb && fmtFits fmt gd && act != 3 && !(act == 2 && isFloat fmt)
    match (if emptyOut ga gb then [1] else []) ++ (if bad then [4] else []) ++ (if fmtOk then [] else [0x12]) with
    | code :: t => s.engineDone c f 0x12 [] (.none s (lowestCode (code :: t)))
    | [] =>
      let dots : List Dot := (sitesOf gd.w gd.h).flatMap fun o => (List.range gd.c).map fun co =>
        { out := (Int.ofNat o.1, Int.ofNat o.2, co, 0), terms := windowTerms ga gb o.1 o.2 (g * (co / g)) g co }
      let l := dots.zipIdx.map fun t => (s.accumulate c fmt fmt ga gb 32 (isFloat fmt) 0 t.2 t.1, t.2)
      let r := s.writeOutputs c gd fmt (immOf f 21 17) act s.free l
      let beyond := dots.any fun t => t.terms.any (fun p => s.beyondAt c ga p.1 || s.beyondAt c gb p.2) || s.beyondAt c gd t.out
      let sats := l.foldl (fun a x => a + x.1.sats) 0
      let s1 := (r.1.countSat c r.2).ticks l.length
      s1.engineDone c f 0x12 [8, 9, 3] {
        s := s1
        codes := (if beyond then [2] else []) ++ (if 0 < r.2 + sats then [0x15] else [])
        count := 0 })

/-- The place of the largest of the values: the lowest on ties, NaN below every number (R271). -/
def argMax (l : List FVal) : Nat :=
  (l.zipIdx.foldl (fun (a : Option (FVal × Nat)) v =>
    match a with
    | none => if v.1.isNan then none else some v
    | some b => if b.1.lt v.1 then some v else some b) none).elim 0 fun r => r.2

/-- `VARGMAX` (R271). -/
def execVargmax (c : Fin 256) (f : Fields) (u : Upset) (s : State) : Res :=
  .next (s.issueToken c f ⟨.g, .g, .none, im 33 26, true⟩ false [] 0x12 fun s => s.underUpset c u fun s =>
    let ga := s.descAt c f.a
    let gd := s.descAt c f.d
    let fmt := immOf f 29 26
    let bad := ga.bad || gd.bad || gd.w != ga.w || gd.h != ga.h || gd.c != 1
    let fmtOk := [0, 2, 6].contains fmt && fmtFits fmt ga && gd.esize == 3
    match (if bad then [4] else []) ++ (if fmtOk then [] else [0x12]) with
    | code :: t => s.engineDone c f 0x12 [] (.none s (lowestCode (code :: t)))
    | [] =>
      let sites := sitesOf ga.w ga.h
      let w := fmtBits fmt
      let s1 := s.each sites fun t o =>
        let l := (List.range ga.c).map fun ch => s.elem c ga o.1 o.2 ch 0
        let i := argMax (l.map fun v => patVal fmt v)
        let v := patternOf 16 (signedOf w (l.getD i 0))
        t.setElem c gd o.1 o.2 0 0 (v * 65536 + i)
      let beyond := sites.any fun o => s.elemBeyond c gd o.1 o.2 0 0 || (List.range ga.c).any fun ch => s.elemBeyond c ga o.1 o.2 ch 0
      s1.engineDone c f 0x12 [8, 9, 3] { s := s1, codes := if beyond then [2] else [], count := 0 })

/-- `VMRED` (R272). -/
def execVmred (c : Fin 256) (f : Fields) (u : Upset) (s : State) : Res :=
  .next (s.issueToken c f ⟨.g, .g, .none, im 33 24, true⟩ false [] 0x12 fun s => s.underUpset c u fun s =>
    let ga := s.descAt c f.a
    let gd := s.descAt c f.d
    let fmt := immOf f 29 26
    let op := immOf f 25 24
    let out := if op = 0 then (if isFloat fmt then 7 else 3) else fmt
    let bad := ga.bad || gd.bad || gd.c != ga.c
    let fmtOk := isVec fmt && fmtFits fmt ga && fmtFits out gd && op != 3
    match (if bad then [4] else []) ++ (if fmtOk then [] else [0x12]) with
    | code :: t => s.engineDone c f 0x12 [] (.none s (lowestCode (code :: t)))
    | [] =>
      let sites := sitesOf ga.w ga.h
      let w := fmtBits fmt
      let res := (List.range ga.c).map fun ch =>
        let l := sites.map fun o => s.elem c ga o.1 o.2 ch 0
        let k := Config.freeOrder (s.free + ch)
        if op = 0 then
          if isFloat fmt then (fRound fp32 (freeSum (l.length + 1) k (l.map fun v => patVal fmt v)), false)
          else
            let r := accSum 32 k 0 (l.map fun v => signedOf w v)
            (patternOf 32 r.1, decide (0 < r.2))
        else (pickFold (op == 2) fmt k l, false)
      let s1 := (s.each res.zipIdx fun t r => t.setElem c gd 0 0 r.2 0 r.1.1).ticks ga.c
      let beyond := (List.range ga.c).any fun ch => s.elemBeyond c gd 0 0 ch 0 || sites.any fun o => s.elemBeyond c ga o.1 o.2 ch 0
      s1.engineDone c f 0x12 [8, 9, 3] {
        s := s1
        codes := (if beyond then [2] else []) ++ (if res.any fun r => r.2 then [0x15] else [])
        count := 0 })

end Sys2Proof.Machine
end

