-- ==== Sys2Proof/Machine/Dispatch.lean ====
section
/-! DEFINITION. The one match over commands: each arm calls one meaning. -/

namespace Sys2Proof.Machine

/-- A command's effect on everything but the queue of waiting commands. -/
def exec (i : Instr) (s : State) : Host.Outcome State Fault Refusal :=
  match i with
  | .csi2LongPacket p vc vcx dt h crcOk payload => Sys2Proof.Machine.execCsi2LongPacket p vc vcx dt h crcOk payload s
  | .csi2ShortPacket p dt h => Sys2Proof.Machine.execCsi2ShortPacket p dt h s
  | .statusBlockPacket p vc vcx h crcOk payload => Sys2Proof.Machine.execStatusBlockPacket p vc vcx h crcOk payload s
  | .evWord p f => Sys2Proof.Machine.execEvWord p f s
  | .vecWord p f => Sys2Proof.Machine.execVecWord p f s
  | .maskWord p f => Sys2Proof.Machine.execMaskWord p f s
  | .tbLo p f => Sys2Proof.Machine.execTbLo p f s
  | .tbHi p f => Sys2Proof.Machine.execTbHi p f s
  | .statusWord p f => Sys2Proof.Machine.execStatusWord p f s
  | .triggerWord p f => Sys2Proof.Machine.execTriggerWord p f s
  | .padWord p f => Sys2Proof.Machine.execPadWord p f s
  | .reservedWord p f => Sys2Proof.Machine.execReservedWord p f s
  | .laneArbitration bad => Sys2Proof.Machine.execLaneArbitration bad s
  | .intakePush p bad => Sys2Proof.Machine.execIntakePush p bad s
  | .portSilenceExpiry p => Sys2Proof.Machine.execPortSilenceExpiry p s
  | .portEnable hp p => Sys2Proof.Machine.execPortEnable hp p s
  | .portDisable hp p => Sys2Proof.Machine.execPortDisable hp p s
  | .inkTswapArm hp mask => Sys2Proof.Machine.execInkTswapArm hp mask s
  | .tableCopybackDone => Sys2Proof.Machine.execTableCopybackDone s
  | .stepRunSet hp => Sys2Proof.Machine.execStepRunSet hp s
  | .stepRunClear hp => Sys2Proof.Machine.execStepRunClear hp s
  | .firstStepOpen ups => Sys2Proof.Machine.execFirstStepOpen s ups
  | .ridgeDue => Sys2Proof.Machine.execRidgeDue s
  | .ridgeClose d => Sys2Proof.Machine.execRidgeClose d s
  | .hbeatToggle => Sys2Proof.Machine.execHbeatToggle s
  | .ridgeWatchdogExpiry => Sys2Proof.Machine.execRidgeWatchdogExpiry s
  | .remapRoutesWritten c ups => Sys2Proof.Machine.execRemapRoutesWritten c s ups
  | .remapDeadlineExpiry c => Sys2Proof.Machine.execRemapDeadlineExpiry c s
  | .deliveryBudgetExpiry r => Sys2Proof.Machine.execDeliveryBudgetExpiry r s
  | .fabricItemAdmit src c q => Sys2Proof.Machine.execFabricItemAdmit src c q s
  | .statusRecordSend c => Sys2Proof.Machine.execStatusRecordSend c s
  | .dueRidgeObserved c => Sys2Proof.Machine.execDueRidgeObserved c s
  | .moultShare c u => Sys2Proof.Machine.execMoultShare c s u
  | .tokenFree c t => Sys2Proof.Machine.execTokenFree c t s
  | .waitqComplete c => Sys2Proof.Machine.execWaitqComplete c s
  | .waitqLimitExpiry c => Sys2Proof.Machine.execWaitqLimitExpiry c s
  | .ridgeComplete c => Sys2Proof.Machine.execRidgeComplete c s
  | .rduceResult cl tag => Sys2Proof.Machine.execRduceResult cl tag s
  | .hubWeightBroadcast cl cells src addr len ecc ups => Sys2Proof.Machine.execHubWeightBroadcast cl cells src addr len ecc s ups
  | .celSeqStart hp c => Sys2Proof.Machine.execCelSeqStart hp c s
  | .celSeqStop hp c => Sys2Proof.Machine.execCelSeqStop hp c s
  | .nop c f op => Sys2Proof.Machine.execNop c f s op
  | .br c f => Sys2Proof.Machine.execBr c f s
  | .jal c f => Sys2Proof.Machine.execJal c f s
  | .jr c f => Sys2Proof.Machine.execJr c f s
  | .loop c f => Sys2Proof.Machine.execLoop c f s
  | .rdsys c f => Sys2Proof.Machine.execRdsys c f s
  | .wait c f => Sys2Proof.Machine.execWait c f s
  | .waitq c f => Sys2Proof.Machine.execWaitq c f s
  | .ridge c f => Sys2Proof.Machine.execRidge c f s
  | .sAdd c imm f => Sys2Proof.Machine.execSAdd c imm f s
  | .sSub c imm f => Sys2Proof.Machine.execSSub c imm f s
  | .sAnd c imm f => Sys2Proof.Machine.execSAnd c imm f s
  | .sOr c imm f => Sys2Proof.Machine.execSOr c imm f s
  | .sXor c imm f => Sys2Proof.Machine.execSXor c imm f s
  | .shl c imm f => Sys2Proof.Machine.execShl c imm f s
  | .shr c imm f => Sys2Proof.Machine.execShr c imm f s
  | .sra c imm f => Sys2Proof.Machine.execSra c imm f s
  | .mul c imm f => Sys2Proof.Machine.execMul c imm f s
  | .mulhu c imm f => Sys2Proof.Machine.execMulhu c imm f s
  | .mulhs c imm f => Sys2Proof.Machine.execMulhs c imm f s
  | .sMin c imm f => Sys2Proof.Machine.execSMin c imm f s
  | .sMax c imm f => Sys2Proof.Machine.execSMax c imm f s
  | .minu c imm f => Sys2Proof.Machine.execMinu c imm f s
  | .maxu c imm f => Sys2Proof.Machine.execMaxu c imm f s
  | .sel c f => Sys2Proof.Machine.execSel c f s
  | .cmpEq c f => Sys2Proof.Machine.execCmpEq c f s
  | .cmpNe c f => Sys2Proof.Machine.execCmpNe c f s
  | .cmpLt c f => Sys2Proof.Machine.execCmpLt c f s
  | .cmpLe c f => Sys2Proof.Machine.execCmpLe c f s
  | .cmpLtu c f => Sys2Proof.Machine.execCmpLtu c f s
  | .cmpLeu c f => Sys2Proof.Machine.execCmpLeu c f s
  | .cmpiEq c f => Sys2Proof.Machine.execCmpiEq c f s
  | .cmpiNe c f => Sys2Proof.Machine.execCmpiNe c f s
  | .cmpiLt c f => Sys2Proof.Machine.execCmpiLt c f s
  | .cmpiLe c f => Sys2Proof.Machine.execCmpiLe c f s
  | .cmpiLtu c f => Sys2Proof.Machine.execCmpiLtu c f s
  | .cmpiLeu c f => Sys2Proof.Machine.execCmpiLeu c f s
  | .pand c f => Sys2Proof.Machine.execPand c f s
  | .por c f => Sys2Proof.Machine.execPor c f s
  | .pxor c f => Sys2Proof.Machine.execPxor c f s
  | .pnot c f => Sys2Proof.Machine.execPnot c f s
  | .ldxW c cwm f u => Sys2Proof.Machine.execLdxW c cwm f u s
  | .ldxH c cwm f u => Sys2Proof.Machine.execLdxH c cwm f u s
  | .ldxHs c cwm f u => Sys2Proof.Machine.execLdxHs c cwm f u s
  | .ldxB c cwm f u => Sys2Proof.Machine.execLdxB c cwm f u s
  | .ldxBs c cwm f u => Sys2Proof.Machine.execLdxBs c cwm f u s
  | .ldxV c cwm f u => Sys2Proof.Machine.execLdxV c cwm f u s
  | .stxW c cwm f u => Sys2Proof.Machine.execStxW c cwm f u s
  | .stxH c cwm f u => Sys2Proof.Machine.execStxH c cwm f u s
  | .stxB c cwm f u => Sys2Proof.Machine.execStxB c cwm f u s
  | .stxV c cwm f u => Sys2Proof.Machine.execStxV c cwm f u s
  | .ldg c f u => Sys2Proof.Machine.execLdg c f u s
  | .stg c f u => Sys2Proof.Machine.execStg c f u s
  | .gadd c f => Sys2Proof.Machine.execGadd c f s
  | .gset c f => Sys2Proof.Machine.execGset c f s
  | .vins c f => Sys2Proof.Machine.execVins c f s
  | .vext c f => Sys2Proof.Machine.execVext c f s
  | .vmov c f => Sys2Proof.Machine.execVmov c f s
  | .vsplat c f => Sys2Proof.Machine.execVsplat c f s
  | .vzero c f => Sys2Proof.Machine.execVzero c f s
  | .pop c f u => Sys2Proof.Machine.execPop c f u s
  | .popv c f u => Sys2Proof.Machine.execPopv c f u s
  | .peek c f u => Sys2Proof.Machine.execPeek c f u s
  | .push c f => Sys2Proof.Machine.execPush c f s
  | .pushv c f => Sys2Proof.Machine.execPushv c f s
  | .qflush c f => Sys2Proof.Machine.execQflush c f s
  | .qstat c f => Sys2Proof.Machine.execQstat c f s
  | .send c f => Sys2Proof.Machine.execSend c f s
  | .bcast c f => Sys2Proof.Machine.execBcast c f s
  | .rduce c f => Sys2Proof.Machine.execRduce c f s
  | .tsupd c f u => Sys2Proof.Machine.execTsupd c f u s
  | .tsrd c f u => Sys2Proof.Machine.execTsrd c f u s
  | .arc c f u => Sys2Proof.Machine.execArc c f u s
  | .flowfit c f u => Sys2Proof.Machine.execFlowfit c f u s
  | .mm c f u => Sys2Proof.Machine.execMm c f u s
  | .conv c f u => Sys2Proof.Machine.execConv c f u s
  | .dconv c f u => Sys2Proof.Machine.execDconv c f u s
  | .fconvFirst c f u => Sys2Proof.Machine.execFconvFirst c f u s
  | .fconvLast c f u => Sys2Proof.Machine.execFconvLast c f u s
  | .vadd c f u => Sys2Proof.Machine.execVadd c f u s
  | .vsub c f u => Sys2Proof.Machine.execVsub c f u s
  | .vmul c f u => Sys2Proof.Machine.execVmul c f u s
  | .vmax c f u => Sys2Proof.Machine.execVmax c f u s
  | .vmin c f u => Sys2Proof.Machine.execVmin c f u s
  | .vabs c f u => Sys2Proof.Machine.execVabs c f u s
  | .vshl c f u => Sys2Proof.Machine.execVshl c f u s
  | .vsra c f u => Sys2Proof.Machine.execVsra c f u s
  | .vcvt c f u => Sys2Proof.Machine.execVcvt c f u s
  | .vred c f u => Sys2Proof.Machine.execVred c f u s
  | .vdw c f u => Sys2Proof.Machine.execVdw c f u s
  | .vargmax c f u => Sys2Proof.Machine.execVargmax c f u s
  | .vmred c f u => Sys2Proof.Machine.execVmred c f u s
  | .nintConv c f u => Sys2Proof.Machine.execNintConv c f u s
  | .nintList c f u => Sys2Proof.Machine.execNintList c f u s
  | .nfire c f u => Sys2Proof.Machine.execNfire c f u s
  | .nleak c f u => Sys2Proof.Machine.execNleak c f u s
  | .pskip c f u => Sys2Proof.Machine.execPskip c f u s
  | .pflush c f u => Sys2Proof.Machine.execPflush c f u s
  | .echk c f => Sys2Proof.Machine.execEchk c f s
  | .eadmit c f => Sys2Proof.Machine.execEadmit c f s
  | .spiTransaction m bytes => Sys2Proof.Machine.execSpiTransaction m bytes s
  | .imuFrame m bad ecc => Sys2Proof.Machine.execImuFrame m s bad ecc
  | .twistFrame m bad ecc => Sys2Proof.Machine.execTwistFrame m s bad ecc
  | .padFrame m bad => Sys2Proof.Machine.execPadFrame m s bad
  | .outputBridgeForward c scene u => Sys2Proof.Machine.execOutputBridgeForward c scene s u
  | .featureItem ecc => Sys2Proof.Machine.execFeatureItem ecc s
  | .evidenceItem ecc => Sys2Proof.Machine.execEvidenceItem ecc s
  | .featureObservation ecc => Sys2Proof.Machine.execFeatureObservation s ecc
  | .objectObservation ecc => Sys2Proof.Machine.execObjectObservation s ecc
  | .attnDeassert => Sys2Proof.Machine.execAttnDeassert s
  | .zoneStaleExpiry => Sys2Proof.Machine.execZoneStaleExpiry s
  | .fusSnsClrWrite hp mask => Sys2Proof.Machine.execFusSnsClrWrite hp mask s
  | .fusTswapArm hp kinds => Sys2Proof.Machine.execFusTswapArm hp kinds s
  | .trackAssociation ecc => Sys2Proof.Machine.execTrackAssociation s ecc
  | .tokenItem => Sys2Proof.Machine.execTokenItem s
  | .retrievalShareStream cl rid lost => Sys2Proof.Machine.execRetrievalShareStream cl rid lost s
  | .partialItem => Sys2Proof.Machine.execPartialItem s
  | .retrievalMergeComplete rid lost => Sys2Proof.Machine.execRetrievalMergeComplete rid lost s
  | .retrievalTimeout rid => Sys2Proof.Machine.execRetrievalTimeout rid s
  | .scmEnable hp => Sys2Proof.Machine.execScmEnable hp s
  | .scmDisable hp => Sys2Proof.Machine.execScmDisable hp s
  | .scmGeomWrite hp v => Sys2Proof.Machine.execScmGeomWrite hp v s
  | .scmErase hp => Sys2Proof.Machine.execScmErase hp s
  | .eraseComplete => Sys2Proof.Machine.execEraseComplete s
  | .commandDoorbell hp count => Sys2Proof.Machine.execCommandDoorbell hp count s
  | .consumerDoorbell hp ring count => Sys2Proof.Machine.execConsumerDoorbell hp ring count s
  | .commandTimeout hp ahead => Sys2Proof.Machine.execCommandTimeout hp s ahead
  | .cmdNop hp d => Sys2Proof.Machine.execCmdNop hp d s
  | .loadImage hp d img ecc => Sys2Proof.Machine.execLoadImage hp d img s ecc
  | .cmdStart hp d => Sys2Proof.Machine.execCmdStart hp d s
  | .cmdStop hp d => Sys2Proof.Machine.execCmdStop hp d s
  | .swapSlot hp d ecc ups => Sys2Proof.Machine.execSwapSlot hp d s ecc ups
  | .setBudget hp d => Sys2Proof.Machine.execSetBudget hp d s
  | .setPl hp d => Sys2Proof.Machine.execSetPl hp d s
  | .tableWrite hp d words => Sys2Proof.Machine.execTableWrite hp d words s
  | .snapshot hp d => Sys2Proof.Machine.execSnapshot hp d s
  | .retrieve hp d query => Sys2Proof.Machine.execRetrieve hp d query s
  | .attest hp d nonce => Sys2Proof.Machine.execAttest hp d nonce s
  | .cmdPower hp d => Sys2Proof.Machine.execCmdPower hp d s
  | .cmdQuery hp d => Sys2Proof.Machine.execCmdQuery hp d s
  | .cellItem c u => Sys2Proof.Machine.execCellItem c s u
  | .semAcquire hp n be => Sys2Proof.Machine.execSemAcquire hp n be s
  | .semRelease hp n => Sys2Proof.Machine.execSemRelease hp n s
  | .semLeaseSet hp n lease => Sys2Proof.Machine.execSemLeaseSet hp n lease s
  | .leaseExpiry n => Sys2Proof.Machine.execLeaseExpiry n s
  | .linkLoss hp => Sys2Proof.Machine.execLinkLoss hp s
  | .linkUp hp gen => Sys2Proof.Machine.execLinkUp hp gen s
  | .mailboxSelect hp sel => Sys2Proof.Machine.execMailboxSelect hp sel s
  | .mailboxCapture hp => Sys2Proof.Machine.execMailboxCapture hp s
  | .registerWrite hp off be v rest => Sys2Proof.Machine.execRegisterWrite hp off be v s rest
  | .cfgScanPass struck => Sys2Proof.Machine.execCfgScanPass struck s
  | .levelRequestWrite hp cl lvl => Sys2Proof.Machine.execLevelRequestWrite hp cl lvl s
  | .levelSwitchDone cl => Sys2Proof.Machine.execLevelSwitchDone cl s
  | .thermalSample sensor tj => Sys2Proof.Machine.execThermalSample sensor tj s
  | .clutchClockGate cl => Sys2Proof.Machine.execClutchClockGate cl s
  | .powerE2Reached => Sys2Proof.Machine.execPowerE2Reached s
  | .e2LimitExpiry => Sys2Proof.Machine.execE2LimitExpiry s
  | .powerCommit => Sys2Proof.Machine.execPowerCommit s
  | .sleepStateReached => Sys2Proof.Machine.execSleepStateReached s
  | .wakePin n levels => Sys2Proof.Machine.execWakePin n levels s
  | .hostAccessWake hp off => Sys2Proof.Machine.execHostAccessWake hp off s
  | .wakeComplete w => Sys2Proof.Machine.execWakeComplete w s
  | .sentinelTimerExpiry => Sys2Proof.Machine.execSentinelTimerExpiry s
  | .sentinelRunComplete c r => Sys2Proof.Machine.execSentinelRunComplete c r s
  | .sentinelLoopbackTimeout c => Sys2Proof.Machine.execSentinelLoopbackTimeout c s
  | .hubSentinelTimeout cl => Sys2Proof.Machine.execHubSentinelTimeout cl s
  | .outputReadbackFault pin lasts => Sys2Proof.Machine.execOutputReadbackFault pin s lasts
  | .clockMonitorFault domain => Sys2Proof.Machine.execClockMonitorFault domain s
  | .supplyMonitorFault rail => Sys2Proof.Machine.execSupplyMonitorFault rail s
  | .stewardLockstepFault f => Sys2Proof.Machine.execStewardLockstepFault s f
  | .safArm hp arm => Sys2Proof.Machine.execSafArm hp arm s
  | .safClear hp mask => Sys2Proof.Machine.execSafClear hp mask s
  | .trngHealthFail => Sys2Proof.Machine.execTrngHealthFail s
  | .measurementRecompute fusion => Sys2Proof.Machine.execMeasurementRecompute fusion s
  | .debugChallenge hp => Sys2Proof.Machine.execDebugChallenge hp s
  | .jtagInstruction j b => Sys2Proof.Machine.execJtagInstruction j b s
  | .tamperDetect src b => Sys2Proof.Machine.execTamperDetect src b s
  | .powerOnReset b => Sys2Proof.Machine.execPowerOnReset b s
  | .systemReset b => Sys2Proof.Machine.execSystemReset b s
  | .functionReady fn ups => Sys2Proof.Machine.execFunctionReady fn s ups
  | .memoryTrainingDone r => Sys2Proof.Machine.execMemoryTrainingDone r s
  | .startOfTransmission p => Sys2Proof.Machine.execStartOfTransmission p s
  | .laneSyncLoss p => Sys2Proof.Machine.execLaneSyncLoss p s

end Sys2Proof.Machine
end

