-- ==== Sys2Proof/Safety.lean ====
section
/-! DEFINITION. The terms the statements use: sound states, what an instruction needs to issue, the parts of the state a command leaves alone. -/

namespace Sys2Proof.Machine

/-! ## Sound states -/

/-- Every register, parity bit, counter and memory of the state is in canonical form. -/
def State.storesWf (s : State) : Bool :=
  assocWf resetOf s.regs && assocWf (fun k => cfgParity k (resetOf k)) s.par && assocWf (fun _ => 0) s.cnt && assocWf (fun _ => 0) s.lat &&
  s.cells.toList.all fun x => Memory.wf x.thatch && Memory.wf x.cwm

/-- The control state is sound: a ridge is due only while a step is open; the fault pins are complementary and show whether the no-fault levels are driven; a zone pin is high only at the no-fault levels while steps run (R45, R351, R505 to R507). -/
def State.controlOk (s : State) : Bool :=
  (!s.step.due || s.step.running) && (s.pins.faultA == !s.pins.faultB) && (s.pins.faultA == s.saf.noFault) &&
  (s.pins.zone == 0 || (s.pins.faultA && s.step.running))

/-! ## The account of the energy ledger

Every instruction is charged, and part of the charge is a free value (log entry 9). A statement
about an instruction therefore speaks of the state without the account the ledger keeps. -/

/-- Counters that only the ledger's charges move (R491). -/
def ledgerKey (k : Nat) : Bool := k == 0xA0200 || k == 0xA0204 || k == 0xA020C || decide (0xA0240 ≤ k ∧ k < 0xA0280)

/-- A cell without its account: the fraction of a quantum, the quanta spent and those reserved (R487, R488). -/
def Cell.noLedger (x : Cell) : Cell := { x with frac := 0, spent := 0, reserved := 0 }

/-- A clutch without the quanta its cells have spent. -/
def Clutch.noSpent (x : Clutch) : Clutch := { x with spent := [] }

/-- The state without the ledger's account, without the count of free values, and without the free numbers of cycles that waits count (log entry 30). -/
def State.noLedger (s : State) : State :=
  { s with
    free := 0
    waits := []
    cnt := s.cnt.filter fun kv => !ledgerKey kv.1
    cells := s.cells.map Cell.noLedger
    clutches := s.clutches.map Clutch.noSpent
    led := { s.led with totals := [] } }

/-! ## An instruction issues (R199, R203, R205, R236) -/

/-- How an instruction word uses its fields: their kinds and immediate bits, whether it names an odd pair, and the registers the interlock looks at. -/
structure Shape where
  form : Form
  odd : Bool
  uses : List Nat
  deriving DecidableEq, Repr

/-- The cell runs and waits for nothing, its pc lies under the fetch limit, the word is a defined encoding, its predicate is 1 and known, and no register it uses is awaited. -/
def State.issues (s : State) (c : Fin 256) (f : Fields) (m : Shape) : Bool :=
  let x := s.cell c
  s.ready c && decide (8 * x.pc.toNat < 64 * s.fld (celR c 0x24) 28 16) && m.form.ok f &&
  !x.awaited.contains (pId f.pred.toNat) && x.p f.pred && !m.odd && !m.uses.any fun r => x.awaited.contains r

/-- The instruction is counted and changes its cell, which stalls no more. -/
def State.did (s : State) (c : Fin 256) (g : Cell → Cell) : State := (s.bump (celR c 0x310)).modCell c fun x => { g x with stalled := none }

/-- What a hardware upset that does not stop the operation leaves: corrected words are counted (R166). -/
def State.met (s : State) (c : Fin 256) (u : Upset) : State :=
  match u with
  | .corrected n => s.bump (celR c 0x200) n
  | _ => s

end Sys2Proof.Machine

namespace Sys2Proof

/-- Does the upset let the operation go on? (R167, R265) -/
def Upset.passes (u : Upset) : Bool :=
  match u with
  | .uncorrectable _ => false
  | .residue _ true => false
  | _ => true

end Sys2Proof

namespace Sys2Proof.Machine

/-! ## Engine operations (R206, R207) -/

/-- The operation that holds the token an instruction names. -/
def State.opAt (s : State) (c : Fin 256) (f : Fields) : Option PendingOp := ((s.cell c).tok[tokenOf f % 16]'(Nat.mod_lt _ (by decide))).op

/-- The instruction issues, its token is free, its engine's command queue has room (R206), and no sentinel run holds the engine (R499). -/
def State.starts (s : State) (c : Fin 256) (f : Fields) (m : Shape) (engine : Nat) : Bool :=
  s.issues c f m && !(s.cell c).busy (tokenOf f) && !(decide (engine ≠ 0) && ((s.cell c).engineFull engine || (s.cell c).sentinel))

/-- The instruction has handed operation `o` to its engine: `o` holds the token, the pc has moved on, and no register of the cell has been written yet; nothing outside the cell and the counters has changed. -/
structure Took (s t : State) (c : Fin 256) (f : Fields) (o : PendingOp) : Prop where
  token : t.opAt c f = some o
  flow : ((t.cell c).pc, (t.cell c).loops) = stepLoops (s.cell c).pc (s.cell c).loops
  sreg : (t.cell c).sreg = (s.cell c).sreg
  preg : (t.cell c).preg = (s.cell c).preg
  vreg : (t.cell c).vreg = (s.cell c).vreg
  greg : (t.cell c).greg = (s.cell c).greg
  mode : (t.cell c).mode = (s.cell c).mode
  step : (t.cell c).step = (s.cell c).step
  others : ∀ d, d ≠ c → t.cell d = s.cell d
  regs : t.regs = s.regs
  ports : t.ports = s.ports
  unit : t.step = s.step
  hosts : t.hosts = s.hosts
  pins : t.pins = s.pins

/-- The memories and the queues of a cell are as before. -/
def sameStores (s t : State) (c : Fin 256) : Prop :=
  (t.cell c).thatch = (s.cell c).thatch ∧ (t.cell c).cwm = (s.cell c).cwm ∧ (t.cell c).queues = (s.cell c).queues

/-- An integer saturated into `w` bits, as a pattern (R269). -/
def satLane (w : Nat) (v : Int) : Nat := patternOf w (clampInt (-(2 ^ (w - 1) : Nat)) ((2 ^ (w - 1) : Nat) - 1) v)

end Sys2Proof.Machine
end

