-- ==== Sys2Proof/Certificates/Slice0/Obligations.lean ====
section
/-! DEFINITION. The statements for the provers. -/

open Sys2Proof Sys2Proof.Machine

/-! ## The queue of commands -/

/-- A step runs the command at the front of the queue on the state with the queue's rest; an empty queue idles (the model's choice, log entry 7). -/
def Obligations.StepRunsFront : Prop :=
  (∀ (c : Instr) (l : List Instr) (s : State), step { s with pending := c :: l } = exec c { s with pending := l }) ∧
  ∀ s : State, s.pending = [] → step s = .next s

/-! ## Cells: scalar instructions (07) -/

/-- The fifteen scalar operations of `ADD` to `MAXU`, b being sb or the immediate. -/
def scalarRows (c : Fin 256) (imm : Bool) (f : Fields) : List (Instr × (Word → Word → Word)) :=
  [(.sAdd c imm f, fun a b => BitVec.ofNat 32 (a.toNat + b.toNat)),
   (.sSub c imm f, fun a b => BitVec.ofInt 32 ((a.toNat : Int) - b.toNat)),
   (.sAnd c imm f, fun a b => a &&& b),
   (.sOr c imm f, fun a b => a ||| b),
   (.sXor c imm f, fun a b => a ^^^ b),
   (.shl c imm f, fun a b => BitVec.ofNat 32 (a.toNat * 2 ^ (b.toNat % 32))),
   (.shr c imm f, fun a b => BitVec.ofNat 32 (a.toNat / 2 ^ (b.toNat % 32))),
   (.sra c imm f, fun a b => BitVec.ofInt 32 (a.toInt / (2 ^ (b.toNat % 32) : Nat))),
   (.mul c imm f, fun a b => BitVec.ofNat 32 (a.toNat * b.toNat)),
   (.mulhu c imm f, fun a b => BitVec.ofNat 32 (a.toNat * b.toNat / 2 ^ 32)),
   (.mulhs c imm f, fun a b => BitVec.ofInt 32 (a.toInt * b.toInt / (2 ^ 32 : Nat))),
   (.sMin c imm f, fun a b => if a.toInt ≤ b.toInt then a else b),
   (.sMax c imm f, fun a b => if a.toInt ≤ b.toInt then b else a),
   (.minu c imm f, fun a b => if a.toNat ≤ b.toNat then a else b),
   (.maxu c imm f, fun a b => if a.toNat ≤ b.toNat then b else a)]

/-- Fields of a scalar operation in its register and its immediate form. -/
def scalarShape (imm : Bool) (f : Fields) : Shape :=
  if imm then ⟨⟨.s, .s, .none, im 31 0, true⟩, false, [sId f.d, sId f.a]⟩
  else ⟨⟨.s, .s, .s, 0, true⟩, false, [sId f.d, sId f.a, sId f.b]⟩

/-- A scalar operation that issues writes its result to sd, nothing where d is s0, moves on, and changes nothing else. -/
def Obligations.ScalarResult : Prop :=
  ∀ (c : Fin 256) (imm : Bool) (f : Fields) (s : State), s.issues c f (scalarShape imm f) = true →
    ∀ r ∈ scalarRows c imm f, ∃ t, exec r.1 s = .next t ∧
      t.noLedger = (s.did c fun x =>
        (x.setS f.d (r.2 (x.s f.a) (if imm then BitVec.ofNat 32 f.imm.toNat else x.s f.b))).advance).noLedger

/-- The twelve compares with their conditions, the immediate ones first. -/
def compareRows (c : Fin 256) (f : Fields) : List (Instr × Bool × (Word → Word → Bool)) :=
  [(.cmpiEq c f, true, fun a b => a == b), (.cmpiNe c f, true, fun a b => a != b),
   (.cmpiLt c f, true, fun a b => decide (a.toInt < b.toInt)), (.cmpiLe c f, true, fun a b => decide (a.toInt ≤ b.toInt)),
   (.cmpiLtu c f, true, fun a b => decide (a.toNat < b.toNat)), (.cmpiLeu c f, true, fun a b => decide (a.toNat ≤ b.toNat)),
   (.cmpEq c f, false, fun a b => a == b), (.cmpNe c f, false, fun a b => a != b),
   (.cmpLt c f, false, fun a b => decide (a.toInt < b.toInt)), (.cmpLe c f, false, fun a b => decide (a.toInt ≤ b.toInt)),
   (.cmpLtu c f, false, fun a b => decide (a.toNat < b.toNat)), (.cmpLeu c f, false, fun a b => decide (a.toNat ≤ b.toNat))]

/-- Fields of a compare: with bit 19 of the immediate it also writes the complement. -/
def compareShape (imm : Bool) (f : Fields) : Shape :=
  ⟨if imm then ⟨.p, .s, .none, im 19 0, true⟩ else ⟨.p, .s, .s, im 19 16, true⟩, false,
    [pId f.d.toNat, sId f.a] ++ (if imm then [] else [sId f.b]) ++ (if bitAt f.imm.toNat 19 then [pId (immOf f 18 16)] else [])⟩

/-- A compare that issues writes p[d], and with bit 19 the complement to p[IMM 18:16]; writes to p0 are discarded; nothing else changes. -/
def compareRule : Prop :=
  ∀ (c : Fin 256) (f : Fields) (s : State), ∀ r ∈ compareRows c f, s.issues c f (compareShape r.2.1 f) = true →
    ∃ t, exec r.1 s = .next t ∧
      t.noLedger = (s.did c fun x =>
        let v := r.2.2 (x.s f.a) (if r.2.1 then BitVec.ofInt 32 (signedOf 16 (immOf f 15 0)) else x.s f.b)
        let y := x.setP (r3 f.d) v
        (if bitAt f.imm.toNat 19 then y.setP (BitVec.ofNat 3 (immOf f 18 16)) (!v) else y).advance).noLedger

/-- `PAND`, `POR` and `PXOR` with their functions. -/
def predicateRows (c : Fin 256) (f : Fields) : List (Instr × (Bool → Bool → Bool)) :=
  [(.pand c f, fun a b => a && b), (.por c f, fun a b => a || b), (.pxor c f, fun a b => a != b)]

/-- Predicate logic, `PNOT` and `SEL` write their one register and change nothing else. -/
def predicateRule : Prop :=
  ∀ (c : Fin 256) (f : Fields) (s : State),
    (s.issues c f ⟨⟨.p, .p, .p, 0, true⟩, false, [pId f.d.toNat, pId f.a.toNat, pId f.b.toNat]⟩ = true →
      ∀ r ∈ predicateRows c f, ∃ t, exec r.1 s = .next t ∧
        t.noLedger = (s.did c fun x => (x.setP (r3 f.d) (r.2 (x.p (r3 f.a)) (x.p (r3 f.b)))).advance).noLedger) ∧
    (s.issues c f ⟨⟨.p, .p, .none, 0, true⟩, false, [pId f.d.toNat, pId f.a.toNat]⟩ = true →
      ∃ t, exec (.pnot c f) s = .next t ∧
        t.noLedger = (s.did c fun x => (x.setP (r3 f.d) (!x.p (r3 f.a))).advance).noLedger) ∧
    (s.issues c f ⟨⟨.s, .s, .s, im 2 0, true⟩, false, [sId f.d, sId f.a, sId f.b, pId (immOf f 2 0)]⟩ = true →
      ∃ t, exec (.sel c f) s = .next t ∧
        t.noLedger = (s.did c fun x =>
          (x.setS f.d (if x.p (BitVec.ofNat 3 (immOf f 2 0)) then x.s f.a else x.s f.b)).advance).noLedger)

/-- The compares and the predicate instructions. -/
def Obligations.ConditionResult : Prop := compareRule ∧ predicateRule


/-- `NOP`, `BR`, `JAL` and `JR` move the pc as R199 says; a taken jump pops the loop entries whose bodies do not hold its target (R212). A word with a reserved MAJOR or MINOR is a program fault of code 1 (R205, R236). -/
def branchRule : Prop :=
  ∀ (c : Fin 256) (f : Fields) (s : State),
    (s.issues c f ⟨⟨.none, .none, .none, 0, true⟩, false, []⟩ = true →
      ∃ t, exec (.nop c f) s = .next t ∧ t.noLedger = (s.did c Cell.advance).noLedger) ∧
    (∀ op, reservedOp op = true → s.ready c = true → 8 * (s.cell c).pc.toNat < 64 * s.fld (celR c 0x24) 28 16 →
      exec (.nop c f op) s = .next (s.programFault c 1)) ∧
    (s.issues c f ⟨⟨.none, .none, .none, im 16 0, true⟩, false, []⟩ = true →
      ∃ t, exec (.br c f) s = .next t ∧
        t.noLedger = (s.did c fun x => x.jumpTo (BitVec.ofInt 16 ((x.pc.toNat : Int) + signedOf 17 (immOf f 16 0)))).noLedger) ∧
    (s.issues c f ⟨⟨.s, .none, .none, im 16 0, true⟩, false, [sId f.d]⟩ = true →
      ∃ t, exec (.jal c f) s = .next t ∧
        t.noLedger = (s.did c fun x => (x.setS f.d (BitVec.ofNat 32 (8 * (x.pc + 1).toNat))).jumpTo
          (BitVec.ofInt 16 ((x.pc.toNat : Int) + signedOf 17 (immOf f 16 0)))).noLedger) ∧
    (s.issues c f ⟨⟨.none, .s, .none, 0, true⟩, false, [sId f.a]⟩ = true →
      ∃ t, exec (.jr c f) s = .next t ∧
        t.noLedger = (s.did c fun x => x.jumpTo (BitVec.ofNat 16 ((x.s f.a).toNat / 8))).noLedger)

/-- `LOOP` (R212, R213): with room on the stack and a body inside the enclosing one, it pushes an entry of sa passes, or with sa at 0 goes on after the body; else it is a program fault of code 3. -/
def loopRule : Prop :=
  ∀ (c : Fin 256) (f : Fields) (s : State), s.issues c f ⟨⟨.none, .s, .none, im 11 0, true⟩, false, [sId f.a]⟩ = true →
    let x := s.cell c
    let first := x.pc.toNat + 1
    let last := first + immOf f 11 0
    let nests := x.loops.length < 4 ∧ ∀ e ∈ x.loops.head?, last ≤ e.stop
    (nests → x.s f.a ≠ 0 → ∃ t, exec (.loop c f) s = .next t ∧
      t.noLedger = (s.did c fun y => ({ y with loops := ⟨first, last, (x.s f.a).toNat⟩ :: y.loops }).advance).noLedger) ∧
    (nests → x.s f.a = 0 → ∃ t, exec (.loop c f) s = .next t ∧
      t.noLedger = (s.did c fun y =>
        ({ y with loops := (stepLoops (BitVec.ofNat 16 last) y.loops).2 }).jumpTo (stepLoops (BitVec.ofNat 16 last) y.loops).1).noLedger) ∧
    (¬nests → exec (.loop c f) s = .next (s.programFault c 3))

/-- `NOP`, the jumps and `LOOP`. -/
def Obligations.ControlFlowResult : Prop := branchRule ∧ loopRule


/-- `RDSYS` (R214): selectors 0 to 9 put into sd what the table names, selector 10 a free value; those from 11 are program faults. -/
def rdsysRule : Prop :=
  ∀ (c : Fin 256) (f : Fields) (s : State), s.issues c f ⟨⟨.s, .none, .none, im 5 0, true⟩, false, [sId f.d]⟩ = true →
    let x := s.cell c
    let value : Word := BitVec.ofNat 32 (match immOf f 5 0 with
      | 0 => c.val
      | 1 => x.step.getD 0
      | 2 => s.period
      | 3 => x.step.elim 0 fun k => (k + 1) * s.period
      | 4 => (x.step.elim 0 fun k => (k + 1) * s.period) % 2 ^ 62 / 2 ^ 32
      | 5 => [200000, 266667, 400000, 533333].getD (s.clutch (clutchOf c)).level.toNat 0
      | 6 => if x.shActive then 0x400 else 0
      | 7 => (shEntries x.thatch x.shActive).length
      | 8 => ((List.range 16).map fun t => if x.busy t then 2 ^ t else 0).sum
      | 9 => if x.dueSeen then 1 else 0
      | _ => (Config.freeCycles s.free).toNat)
    (immOf f 5 0 < 11 → ∃ t, exec (.rdsys c f) s = .next t ∧
      t.noLedger = (s.did c fun y => (y.setS f.d value).advance).noLedger) ∧
    (11 ≤ immOf f 5 0 → exec (.rdsys c f) s = .next (s.programFault c 1))

/-- `WAIT` (R215) stalls, counted, while a masked token is busy; else sd takes the first error status of the masked tokens, or the lowest one's. -/
def waitRule : Prop :=
  ∀ (c : Fin 256) (f : Fields) (s : State), s.issues c f ⟨⟨.s, .none, .none, im 15 0, true⟩, false, [sId f.d]⟩ = true →
    let x := s.cell c
    let masked := (List.finRange 16).filter fun t => bitAt (immOf f 15 0) t.val
    ((∃ t ∈ masked, (x.tok[t.val]).op.isSome) → ∃ t, exec (.wait c f) s = .next t ∧
      t.noLedger = ((s.bump (celR c 0x314)).modCell c fun y => { y with stalled := some 0x314 }).noLedger) ∧
    ((∀ t ∈ masked, (x.tok[t.val]).op = none) → ∃ t, exec (.wait c f) s = .next t ∧
      ∀ w : Word, (masked.map fun t => (x.tok[t.val]).status).find? (fun w => bitsOf w.toNat 23 16 != 0) = some w ∨
          ((∀ t ∈ masked, bitsOf (x.tok[t.val]).status.toNat 23 16 = 0) ∧ w = (masked.map fun t => (x.tok[t.val]).status).headD 0) →
        t.noLedger = (s.did c fun y => (y.setS f.d w).advance).noLedger)

/-- `RDSYS` and `WAIT`. -/
def Obligations.SystemReadResult : Prop := rdsysRule ∧ waitRule


/-! ## Cells: waiting (R217 to R224) -/

/-- Has queue q a word a `WAITQ` of the cell may see: any word before the due ridge is observed, a word before the fence after it? (R218, R221) -/
abbrev queueSeen (x : Cell) (q : Fin 256) : Prop :=
  0 < if x.dueSeen then (x.queues[q.val]).fence.getD (x.queues[q.val]).words.length else (x.queues[q.val]).words.length

/-- `v` is what a `WAITQ` with this mask finds: the lowest masked queue with a word it may see, or, none, 0x100 once the due ridge is observed (R221). -/
def waitFinds (x : Cell) (mask : BitVec 256) (v : Nat) : Prop :=
  (∃ q : Fin 256, mask.getLsbD q.val = true ∧ queueSeen x q ∧ v = q.val ∧ ∀ p : Fin 256, p < q → mask.getLsbD p.val = true → ¬queueSeen x p) ∨
  ((∀ q : Fin 256, mask.getLsbD q.val = true → ¬queueSeen x q) ∧ x.dueSeen = true ∧ v = 0x100)

/-- `WAITQ` completes at issue with what it finds, and otherwise blocks (R220, R221). -/
def waitqRule : Prop :=
  ∀ (c : Fin 256) (f : Fields) (s : State),
    s.issues c f ⟨⟨.s, .v, .s, 0, true⟩, false, [sId f.d, vId f.a.toNat, sId f.b]⟩ = true →
    let mask := ((s.cell c).v (r4 f.a)).setWidth 256
    (∀ v, waitFinds (s.cell c) mask v → ∃ t, exec (.waitq c f) s = .next t ∧
      t.noLedger = (s.did c fun x => (({ x with wait := .none }).setS f.d (BitVec.ofNat 32 v)).advance).noLedger) ∧
    ((∀ v, ¬waitFinds (s.cell c) mask v) → ∃ t, exec (.waitq c f) s = .next t ∧
      t.noLedger = (s.did c fun x => ({ x with wait := .waitq mask (x.s f.b).toNat f.d.toNat }).advance).noLedger)

/-- A blocked `WAITQ` completes when a condition comes to hold; at its limit it answers 0x200, counted, unless a condition holds (R221, R222); while the cell's clock stands still nothing happens (R473). -/
def waitqEnds : Prop :=
  ∀ (c : Fin 256) (s : State) (mask : BitVec 256) (limit d : Nat), (s.cell c).wait = .waitq mask limit d →
    (s.clocked = true → ∀ v, waitFinds (s.cell c) mask v → ∀ i ∈ [Instr.waitqComplete c, .waitqLimitExpiry c],
      (limit ≠ 0 ∨ i = .waitqComplete c) → ∃ t, exec i s = .next t ∧
        t.noLedger = (s.modCell c fun x => ({ x with wait := .none }).setS (BitVec.ofNat 5 d) (BitVec.ofNat 32 v)).noLedger) ∧
    (s.clocked = true → limit ≠ 0 → (∀ v, ¬waitFinds (s.cell c) mask v) → ∃ t, exec (.waitqLimitExpiry c) s = .next t ∧
      t.noLedger = ((s.bump (celR c 0x318)).modCell c fun x => ({ x with wait := .none }).setS (BitVec.ofNat 5 d) 0x200).noLedger) ∧
    (((∀ v, ¬waitFinds (s.cell c) mask v) ∨ s.clocked = false) → exec (.waitqComplete c) s = .next s) ∧
    ((limit = 0 ∨ s.clocked = false) → exec (.waitqLimitExpiry c) s = .next s)

/-- `WAITQ` at its issue and at its end. -/
def Obligations.WaitqResult : Prop := waitqRule ∧ waitqEnds


/-- The conditions of R224: the cell step's ridge is due and observed, no operation and no item of the cell is outstanding, and the moult has visited its share. -/
def atRidge (s : State) (c : Fin 256) : Prop :=
  (s.cell c).step.isSome = true ∧ (s.cell c).dueSeen = true ∧ (∀ t : Fin 16, ((s.cell c).tok[t.val]).op = none) ∧
  (∀ m ∈ s.mesh, m.src ≠ .cell c) ∧ ((s.cell c).moultDone = true ∨ s.moultShare c = [])

/-- The cell after its `RIDGE`: the next cell step, its fences gone, its reservation released, the step index in the named register (R219, R224, R487). -/
def ridged (x : Cell) (d : BitVec 5) : Cell :=
  let k := x.step.getD 0 + 1
  ({ x with
    wait := .none, step := some k, dueSeen := false, moultDone := false
    queues := x.queues.map (fun q : Queue => { q with fence := none }), spent := 0, reserved := 0 }).setS d (BitVec.ofNat 32 k)

/-- `RIDGE` completes where the conditions of R224 hold and waits otherwise; the waiting one completes when they come to hold. -/
def Obligations.RidgeResult : Prop :=
  ∀ (c : Fin 256) (f : Fields) (s : State),
    (s.issues c f ⟨⟨.s, .none, .none, 0, true⟩, false, [sId f.d]⟩ = true →
      (atRidge s c → ∃ t, exec (.ridge c f) s = .next t ∧ t.noLedger = (s.did c fun x => (ridged x f.d).advance).noLedger) ∧
      (¬atRidge s c → ∃ t, exec (.ridge c f) s = .next t ∧
        t.noLedger = (s.did c fun x => ({ x with wait := .ridge f.d.toNat }).advance).noLedger)) ∧
    (∀ d : BitVec 5, (s.cell c).wait = .ridge d.toNat →
      (atRidge s c → s.clocked = true → ∃ t, exec (.ridgeComplete c) s = .next t ∧ t.noLedger = (s.modCell c fun x => ridged x d).noLedger) ∧
      ((¬atRidge s c ∨ s.clocked = false) → exec (.ridgeComplete c) s = .next s))

/-! ## Cells: memory, descriptors, vector moves (R198, R201, R209, R225) -/

/-- Loads: the instruction, bytes, and how the value is extended. -/
def loadRows (c : Fin 256) (m : Bool) (f : Fields) (u : Upset) : List (Instr × Nat × (Nat → Word)) :=
  [(.ldxW c m f u, 4, fun v => BitVec.ofNat 32 v), (.ldxH c m f u, 2, fun v => BitVec.ofNat 32 v),
   (.ldxHs c m f u, 2, fun v => BitVec.ofInt 32 (if v < 32768 then (v : Int) else (v : Int) - 65536)),
   (.ldxB c m f u, 1, fun v => BitVec.ofNat 32 v),
   (.ldxBs c m f u, 1, fun v => BitVec.ofInt 32 (if v < 128 then (v : Int) else (v : Int) - 256))]

/-- A scalar load (R165, R201, R225): sd takes the little-endian bytes at sa + IMM aligned down to the access size, bytes at or above the limit being zero and the access then counted; nothing else changes. -/
def loadRule : Prop :=
  ∀ (c : Fin 256) (m : Bool) (f : Fields) (u : Upset) (s : State), u.passes = true →
    s.issues c f ⟨⟨.s, .s, .none, im 19 0, true⟩, false, [sId f.d, sId f.a]⟩ = true →
    ∀ r ∈ loadRows c m f u,
      let a := ((s.cell c).s f.a + BitVec.ofInt 32 (signedOf 20 (immOf f 19 0))).toNat / r.2.1 * r.2.1
      ∃ t, exec r.1 s = .next t ∧
        t.noLedger = (((s.met c u).checkMem c (memOf m) a r.2.1).did c fun x =>
          (x.setS f.d (r.2.2 (leNat (s.readMem c (memOf m) a r.2.1)))).advance).noLedger

/-- `LDx.V` reads a line of 64 bytes into vd and `LDG` one of 32 bytes into gd, from the memory its bit 20 names (R201, R209, R225). -/
def wideLoadRule : Prop :=
  ∀ (c : Fin 256) (m : Bool) (f : Fields) (u : Upset) (s : State), u.passes = true →
    let at' (n : Nat) : Nat := ((s.cell c).s f.a + BitVec.ofInt 32 (signedOf 20 (immOf f 19 0))).toNat / n * n
    let g := memOf (bitAt f.imm.toNat 20)
    (s.issues c f ⟨⟨.v, .s, .none, im 19 0, true⟩, false, [vId f.d.toNat, sId f.a]⟩ = true →
      ∃ t, exec (.ldxV c m f u) s = .next t ∧
        t.noLedger = (((s.met c u).checkMem c (memOf m) (at' 64) 64).did c fun x =>
          (x.setV (r4 f.d) (BitVec.ofNat 512 (leNat (s.readMem c (memOf m) (at' 64) 64)))).advance).noLedger) ∧
    (s.issues c f ⟨⟨.g, .s, .none, im 20 0, true⟩, false, [sId f.a]⟩ = true →
      ∃ t, exec (.ldg c f u) s = .next t ∧
        t.noLedger = (((s.met c u).checkMem c g (at' 32) 32).did c fun x =>
          (x.setG (r3 f.d) (BitVec.ofNat 256 (leNat (s.readMem c g (at' 32) 32)))).advance).noLedger)

/-- Loads of a scalar, a line and a descriptor. -/
def Obligations.LoadResult : Prop := loadRule ∧ wideLoadRule


/-- Stores: the instruction, its fields, the memory, and the bytes stored. -/
def storeRows (c : Fin 256) (m : Bool) (f : Fields) (u : Upset) (x : Cell) : List (Instr × Shape × Mem × List Byte) :=
  let word : Shape := ⟨⟨.none, .s, .s, im 19 0, true⟩, false, [sId f.a, sId f.b]⟩
  [(.stxW c m f u, word, memOf m, natLe 4 (x.s f.b).toNat),
   (.stxH c m f u, word, memOf m, natLe 2 (x.s f.b).toNat),
   (.stxB c m f u, word, memOf m, natLe 1 (x.s f.b).toNat),
   (.stxV c m f u, ⟨⟨.none, .s, .v, im 19 0, true⟩, false, [sId f.a, vId f.b.toNat]⟩, memOf m, natLe 64 (x.v (r4 f.b)).toNat),
   (.stg c f u, ⟨⟨.none, .s, .g, im 20 0, true⟩, false, [sId f.a]⟩, memOf (bitAt f.imm.toNat 20), natLe 32 (x.g (r3 f.b)).toNat)]

/-- A store (R165, R201, R209, R225) writes its bytes at sa + IMM aligned down to its size, those at or above the limit dropped and the access then counted: every other byte of both memories, every register and all else reads as before. -/
def Obligations.StoreResult : Prop :=
  ∀ (c : Fin 256) (m : Bool) (f : Fields) (u : Upset) (s : State), u.passes = true →
    ∀ r ∈ storeRows c m f u (s.cell c), s.issues c f r.2.1 = true →
      let n := r.2.2.2.length
      let a := ((s.cell c).s f.a + BitVec.ofInt 32 (signedOf 20 (immOf f 19 0))).toNat / n * n
      ∃ t, exec r.1 s = .next t ∧
        (∀ b, (b < a ∨ a + n ≤ b ∨ s.memLimit c r.2.2.1 ≤ b) → memRead ((t.cell c).mem r.2.2.1) b = memRead ((s.cell c).mem r.2.2.1) b) ∧
        (∀ j, j < n → a + j < s.memLimit c r.2.2.1 → memRead ((t.cell c).mem r.2.2.1) (a + j) = r.2.2.2.getD j 0) ∧
        (∀ w, w ≠ r.2.2.1 → (t.cell c).mem w = (s.cell c).mem w) ∧
        t.noLedger = (((s.met c u).checkMem c r.2.2.1 a n).did c fun x =>
          (x.setMem r.2.2.1 ((t.cell c).mem r.2.2.1)).advance).noLedger

/-- `GADD` adds sa to BASE modulo 2^20, `GSET` replaces the field its number names, numbers 8 to 15 being program faults (R209, R236). -/
def descriptorRule : Prop :=
  ∀ (c : Fin 256) (f : Fields) (s : State),
    (s.issues c f ⟨⟨.g, .s, .none, 0, true⟩, false, [sId f.a]⟩ = true →
      ∃ t, exec (.gadd c f) s = .next t ∧ ∃ g : GReg,
        g.extractLsb' 41 20 = ((s.cell c).g (r3 f.d)).extractLsb' 41 20 + ((s.cell c).s f.a).setWidth 20 ∧
        g.extractLsb' 0 41 = ((s.cell c).g (r3 f.d)).extractLsb' 0 41 ∧
        g.extractLsb' 61 195 = ((s.cell c).g (r3 f.d)).extractLsb' 61 195 ∧
        t.noLedger = (s.did c fun x => (x.setG (r3 f.d) g).advance).noLedger) ∧
    (s.issues c f ⟨⟨.g, .s, .none, im 3 0, true⟩, false, [sId f.a]⟩ = true →
      (8 ≤ immOf f 3 0 → exec (.gset c f) s = .next (s.programFault c 1)) ∧
      (∀ r ∈ [(0, 60, 41), (1, 127, 116), (2, 115, 104), (3, 103, 92), (4, 31, 16), (5, 15, 0), (6, 255, 240), (7, 239, 216)],
        immOf f 3 0 = r.1 → ∃ t, exec (.gset c f) s = .next t ∧ ∃ g : GReg,
          (∀ i, i < 256 → g.getLsbD i = if r.2.2 ≤ i ∧ i ≤ r.2.1 then ((s.cell c).s f.a).getLsbD (i - r.2.2) else ((s.cell c).g (r3 f.d)).getLsbD i) ∧
          t.noLedger = (s.did c fun x => (x.setG (r3 f.d) g).advance).noLedger))

/-- `VINS`, `VEXT`, `VMOV`, `VSPLAT` and `VZERO` write the lanes they name, lane i of a vector register being its bits 32i to 32i + 31, and nothing else. -/
def vectorMoveRule : Prop :=
  ∀ (c : Fin 256) (f : Fields) (s : State),
    let x := s.cell c
    (s.issues c f ⟨⟨.v, .s, .none, im 3 0, true⟩, false, [vId f.d.toNat, sId f.a]⟩ = true →
      ∃ t, exec (.vins c f) s = .next t ∧ ∃ v : VReg,
        (∀ i, i < 16 → v.extractLsb' (32 * i) 32 = if i = immOf f 3 0 then x.s f.a else (x.v (r4 f.d)).extractLsb' (32 * i) 32) ∧
        t.noLedger = (s.did c fun y => (y.setV (r4 f.d) v).advance).noLedger) ∧
    (s.issues c f ⟨⟨.s, .v, .none, im 3 0, true⟩, false, [sId f.d, vId f.a.toNat]⟩ = true →
      ∃ t, exec (.vext c f) s = .next t ∧
        t.noLedger = (s.did c fun y => (y.setS f.d ((x.v (r4 f.a)).extractLsb' (32 * immOf f 3 0) 32)).advance).noLedger) ∧
    (s.issues c f ⟨⟨.v, .v, .none, 0, true⟩, false, [vId f.d.toNat, vId f.a.toNat]⟩ = true →
      ∃ t, exec (.vmov c f) s = .next t ∧ t.noLedger = (s.did c fun y => (y.setV (r4 f.d) (x.v (r4 f.a))).advance).noLedger) ∧
    (s.issues c f ⟨⟨.v, .s, .none, 0, true⟩, false, [vId f.d.toNat, sId f.a]⟩ = true →
      ∃ t, exec (.vsplat c f) s = .next t ∧ ∃ v : VReg, (∀ i, i < 16 → v.extractLsb' (32 * i) 32 = x.s f.a) ∧
        t.noLedger = (s.did c fun y => (y.setV (r4 f.d) v).advance).noLedger) ∧
    (s.issues c f ⟨⟨.v, .none, .none, 0, true⟩, false, [vId f.d.toNat]⟩ = true →
      ∃ t, exec (.vzero c f) s = .next t ∧ t.noLedger = (s.did c fun y => (y.setV (r4 f.d) 0).advance).noLedger)

/-- The descriptor and vector moves. -/
def Obligations.RegisterMoveResult : Prop := descriptorRule ∧ vectorMoveRule


/-! ## Cells: queues (05, R227 to R230) -/

/-- The queue an instruction names: sa[7:0] plus IMM [7:0], modulo 256. -/
def namedQueue (x : Cell) (f : Fields) : Fin 256 := queueNo ((x.s f.a).toNat + immOf f 7 0)

/-- Fields of `POP` and of `PEEK`. -/
def popShape (f : Fields) (mask : Nat) : Shape :=
  ⟨⟨.s, .s, .none, mask, true⟩, bitAt f.d.toNat 0, [sId f.d, sId (f.d + 1), sId f.a, pId (immOf f 10 8), pId (immOf f 13 11)]⟩

/-- A queue as a read finds it: the words its upset names are poisoned where they stand, with open data (R130, R167, log entry 61). -/
def upsetQueue (s : State) (u : Upset) (x : Queue) : Queue :=
  match u with
  | .queueWords l => l.foldl (poisonAt s.free) x
  | _ => x

/-- No operation of the cell holds words for a queue. -/
abbrev noneHeld (x : Cell) : Prop := x.feeders = []

/-- `POP` takes the oldest word of its queue into sd and s(d+1) with its SOI and poison predicates; on an empty queue it delivers the last word again with both predicates 0, counts the underrun and flags it (R130, R135, R227). -/
def popRule : Prop :=
  ∀ (c : Fin 256) (f : Fields) (u : Upset) (s : State), u.passes = true → noneHeld (s.cell c) → s.issues c f (popShape f (im 13 0)) = true →
    let q := namedQueue (s.cell c) f
    let x := upsetQueue s u (s.queue c q)
    (∀ w rest, x.words = w :: rest → ∃ t, exec (.pop c f u) s = .next t ∧
      (t.queue c q).words = rest ∧ (t.queue c q).last = w.data ∧ (t.queue c q).rd = x.rd + 1 ∧
      (t.queue c q).poison = (x.poison || w.poison) ∧
      t.noLedger = (((if w.poison then (s.met c u).bump (celR c 0x1C08) else s.met c u)).did c fun y =>
        (setFlags f w.soi w.poison (setPair f.d w.data { y with queues := (t.cell c).queues })).advance).noLedger ∧
      ∀ p, p ≠ q → t.queue c p = s.queue c p) ∧
    (x.words = [] → ∃ t, exec (.pop c f u) s = .next t ∧
      t.noLedger = (((s.met c u).bump (celR c 0x1C04)).did c fun y =>
        (setFlags f false false (setPair f.d x.last { y with queues := y.queues.set q.val { x with unr := true } q.isLt })).advance).noLedger)

/-- `PEEK` reads the word at the place IMM [27:24] names into sd and s(d+1), s1 with d = 0, and removes nothing; beyond the depth it is a read while empty (R229). An uncorrectable word is marked poisoned where it stands (R167). -/
def peekRule : Prop :=
  ∀ (c : Fin 256) (f : Fields) (u : Upset) (s : State), u.passes = true →
    s.issues c f (popShape f (im 13 0 + im 27 24)) = true →
    let q := namedQueue (s.cell c) f
    let x := upsetQueue s u (s.queue c q)
    let both (w : DWord) (y : Cell) : Cell := (y.setS f.d (w.extractLsb' 0 32)).setS (f.d + 1) (w.extractLsb' 32 32)
    (∀ w, x.words[immOf f 27 24]? = some w → ∃ t, exec (.peek c f u) s = .next t ∧
      t.noLedger = ((s.met c u).did c fun y =>
        (setFlags f w.soi w.poison (both w.data { y with queues := y.queues.set q.val x q.isLt })).advance).noLedger) ∧
    (x.words.length ≤ immOf f 27 24 → ∃ t, exec (.peek c f u) s = .next t ∧
      t.noLedger = (((s.met c u).bump (celR c 0x1C04)).did c fun y =>
        (setFlags f false false (both x.last { y with queues := y.queues.set q.val { x with unr := true } q.isLt })).advance).noLedger)

/-- `POPV` makes IMM [20:18] + 1 reads in order into the elements of vd, later elements zero; a read beyond the last word delivers the last one again and counts an underrun; the predicates are the first word's SOI and whether any was poisoned (R135, R227, R228). -/
def popvRule : Prop :=
  ∀ (c : Fin 256) (f : Fields) (u : Upset) (s : State), u.passes = true → noneHeld (s.cell c) →
    s.issues c f ⟨⟨.v, .s, .none, im 13 0 + im 20 18, true⟩, false, [vId f.d.toNat, sId f.a, pId (immOf f 10 8), pId (immOf f 13 11)]⟩ = true →
    let q := namedQueue (s.cell c) f
    let n := immOf f 20 18 + 1
    let x := upsetQueue s u (s.queue c q)
    let ws := x.words.take n
    let last := (ws.map fun w => w.data).getLast?.getD x.last
    ∃ t, exec (.popv c f u) s = .next t ∧
      (t.queue c q).words = x.words.drop n ∧ (t.queue c q).rd = x.rd + ws.length ∧
      (∀ i, i < 8 → ((t.cell c).v (r4 f.d)).extractLsb' (64 * i) 64 = if i < n then (ws.map fun w => w.data).getD i last else 0) ∧
      (t.cell c).preg = (setFlags f ((ws.map fun w => w.soi).headD false) (ws.any fun w => w.poison) (s.cell c)).preg ∧
      t.ctr (celR c 0x1C04) = (s.bump (celR c 0x1C04) (n - ws.length)).ctr (celR c 0x1C04) ∧
      t.ctr (celR c 0x1C08) = (s.bump (celR c 0x1C08) (ws.filter fun w => w.poison).length).ctr (celR c 0x1C08) ∧
      (t.cell c).sreg = (s.cell c).sreg ∧ (∀ v, v ≠ r4 f.d → (t.cell c).v v = (s.cell c).v v) ∧
      (t.cell c).thatch = (s.cell c).thatch ∧ (t.cell c).cwm = (s.cell c).cwm ∧
      (∀ p, p ≠ q → t.queue c p = s.queue c p) ∧ (∀ d, d ≠ c → t.cell d = s.cell d) ∧ t.regs = s.regs ∧ t.mesh = s.mesh

/-- Words an engine holds for a full queue come before the sequencer's next write (R139, R244): a `POP` of that queue makes room for the first of them. -/
def heldRule : Prop :=
  ∀ (c : Fin 256) (f : Fields) (k : Fin 16) (s : State) (o : PendingOp) (h : QWord) (l : List QWord), (s.cell c).feeders = [k] →
    ((s.cell c).tok[k.val]).op = some o → o.queue = some (namedQueue (s.cell c) f) → o.words = h :: l →
    s.issues c f (popShape f (im 13 0)) = true →
    let q := namedQueue (s.cell c) f
    (s.queue c q).part = false → ∀ w rest, (s.queue c q).words = w :: rest → (s.queue c q).words.length = s.qCap c q →
    ∃ t, exec (.pop c f .none) s = .next t ∧ (t.queue c q).words = rest ++ [h] ∧ (f.d ≠ 0 → (t.cell c).s f.d = w.data.extractLsb' 0 32) ∧
      ((t.cell c).tok[k.val]).op = some { o with words := l } ∧ (∀ p, p ≠ q → t.queue c p = s.queue c p) ∧ t.regs = s.regs ∧ t.mesh = s.mesh

/-- `POP`, `PEEK` and `POPV`. -/
def Obligations.QueueReadResult : Prop := popRule ∧ peekRule ∧ popvRule ∧ heldRule


/-- `QSTAT` puts depth, pre-fence words, empty, full, back-pressure and the due ridge of its queue into sd (R133, R218); `QFLUSH` empties its queue, drops its fence, discards words up to the next item start, and counts the flush (R143 to R145). -/
def queueStatusRule : Prop :=
  ∀ (c : Fin 256) (f : Fields) (s : State),
    let q := namedQueue (s.cell c) f
    let x := s.queue c q
    (s.issues c f ⟨⟨.s, .s, .none, im 7 0, true⟩, false, [sId f.d, sId f.a]⟩ = true →
      ∃ t, exec (.qstat c f) s = .next t ∧ ∃ v : Word,
        v.extractLsb' 0 14 = BitVec.ofNat 14 x.words.length ∧
        v.extractLsb' 14 14 = BitVec.ofNat 14 (x.fence.getD x.words.length) ∧
        v.getLsbD 28 = x.words.isEmpty ∧ v.getLsbD 29 = s.qFull c q ∧ v.getLsbD 30 = x.bp ∧ v.getLsbD 31 = (s.cell c).dueSeen ∧
        t.noLedger = (s.did c fun y => (y.setS f.d v).advance).noLedger) ∧
    (noneHeld (s.cell c) → s.issues c f ⟨⟨.none, .s, .none, im 7 0, true⟩, false, [sId f.a]⟩ = true →
      ∃ t, exec (.qflush c f) s = .next t ∧
        (t.queue c q).words = [] ∧ (t.queue c q).part = true ∧ (t.queue c q).rd = x.rd + x.words.length ∧
        t.noLedger = ((s.bump (celR c 0x1C10)).did c fun y => ({ y with queues := (t.cell c).queues }).advance).noLedger ∧
        ∀ p, p ≠ q → t.queue c p = s.queue c p)

/-- `PUSH` writes sb, s(b+1) with its SOI bit, `PUSHV` the first elements of vb as one item, to a locally fed queue with room; words for a full queue are ignored and counted (R134); a queue the cell may not write ignores the write and counts it once (R137, R138, R230). -/
def pushRule : Prop :=
  ∀ (c : Fin 256) (f : Fields) (s : State),
    let x := s.cell c
    let q := namedQueue x f
    let word : QWord := ⟨x.s (f.b + 1) ++ x.s f.b, bitAt f.imm.toNat 8, false, x.step⟩
    let item := (List.range (immOf f 20 18 + 1)).map fun i => (⟨(x.v (r4 f.b)).extractLsb' (64 * i) 64, i == 0, false, x.step⟩ : QWord)
    ∀ r ∈ [(Instr.push c f, Shape.mk ⟨.none, .s, .s, im 8 0, true⟩ (bitAt f.b.toNat 0) [sId f.a, sId f.b, sId (f.b + 1)], [word]),
           (Instr.pushv c f, Shape.mk ⟨.none, .s, .v, im 7 0 + im 20 18, true⟩ false [sId f.a, vId f.b.toNat], item)],
      s.issues c f r.2.1 = true →
      (s.qLocal c q = true → (s.queue c q).words.length + r.2.2.length ≤ s.qCap c q →
        ((s.queue c q).part = false ∨ (r.2.2.head?.elim false fun w => w.soi) = true) →
        ∃ t, exec r.1 s = .next t ∧ (t.queue c q).words = (s.queue c q).words ++ r.2.2 ∧ (t.queue c q).rd = (s.queue c q).rd ∧
          (∀ p, p ≠ q → t.queue c p = s.queue c p) ∧
          t.noLedger = (s.did c fun y => ({ y with queues := (t.cell c).queues }).advance).noLedger) ∧
      (s.qLocal c q = true → 0 < s.qCap c q → s.qCap c q ≤ (s.queue c q).words.length → ∃ t, exec r.1 s = .next t ∧
        t.noLedger = ((s.bump (celR c 0x1C00) r.2.2.length).did c fun y =>
          ({ y with queues := y.queues.set q.val { s.queue c q with ovr := true } q.isLt }).advance).noLedger) ∧
      ((s.qLocal c q = false ∨ s.qCap c q = 0) → ∃ t, exec r.1 s = .next t ∧
        t.noLedger = ((s.bump (celR c 0x1C0C)).did c fun y =>
          ({ y with queues := y.queues.set q.val { s.queue c q with ign := true } q.isLt }).advance).noLedger)

/-- `QSTAT`, `QFLUSH`, `PUSH` and `PUSHV`. -/
def Obligations.QueueWriteResult : Prop := queueStatusRule ∧ pushRule


/-! ## Cells: the fabric (R140, R231 to R235) -/

/-- Fields of `SEND` and of `BCAST`, which name v(b+1) too where the item is longer than 8 words. -/
def sendShape (f : Fields) (mask n : Nat) : Shape :=
  ⟨⟨.none, .s, .v, mask, !(decide (8 < n) && f.b == 15)⟩, decide (8 < n) && bitAt f.b.toNat 0,
    [sId f.a, vId f.b.toNat] ++ (if 8 < n then [vId (f.b.toNat + 1)] else [])⟩

/-- `SEND` and `BCAST` with their fields, words, queue and destinations. -/
def sendRows (c : Fin 256) (f : Fields) (x : Cell) : List (Instr × Shape × Nat × Fin 256 × List (Fin 256)) :=
  [(.send c f, sendShape f (im 3 0 + im 33 30) (immOf f 3 0 + 1), immOf f 3 0 + 1, queueNo (bitsOf (x.s f.a).toNat 15 0),
      [queueNo (bitsOf (x.s f.a).toNat 15 0 / 256)]),
   (.bcast c f, sendShape f (im 11 0 + im 33 30) (immOf f 11 8 + 1), immOf f 11 8 + 1, queueNo (immOf f 7 0),
      ((List.finRange 16).filter fun i => bitAt (x.s f.a).toNat i.val).map fun i => cellOf (clutchOf c) i)]

/-- An item sent takes its token until every copy has ended: one copy for each destination that has a route, forwarded where its cell is hosted, joins the mesh behind what is there; a destination without a route is counted; with four items in the outbound buffer the instruction stalls (R231, R233). A spike item whose region's budget has expired is dropped and counted (R319). -/
def sendRule : Prop :=
  ∀ (c : Fin 256) (f : Fields) (s : State), ∀ r ∈ sendRows c f (s.cell c), s.starts c f r.2.1 0 = true →
    let ws := (List.range r.2.2.1).map fun i => if i < 8 then velem ((s.cell c).v (r4 f.b)) i else velem ((s.cell c).v (r4 (f.b + 1))) (i - 8)
    let routed := r.2.2.2.2.filter fun d => s.hasRoute d
    let copies := routed.flatMap fun d => s.targets false d r.2.2.2.1 ws
    (4 ≤ s.outbound c → ∃ t, exec r.1 s = .next t ∧
      t.noLedger = ((s.bump (celR c 0x320)).modCell c fun y => { y with stalled := some 0x320 }).noLedger) ∧
    (s.outbound c < 4 →
      (∀ g : Fin 4, s.spikeOf c ws = some (g, s.step.k) → s.step.running = true → s.step.expired.getLsbD g.val = false) →
      ∃ t o, exec r.1 s = .next t ∧ Took s t c f o ∧ sameStores s t c ∧
      o.sends = true ∧ o.copies = copies.length ∧ o.noroute = decide (routed.length < r.2.2.2.2.length) ∧ o.status.toNat % 65536 = ws.length ∧
      t.mesh = s.mesh ++ meshItems (.cell c) r.2.2.2.1 (s.spikeOf c ws) (some ⟨tokenOf f % 16, Nat.mod_lt _ (by decide)⟩) false copies) ∧
    (s.outbound c < 4 → ∀ g : Fin 4, s.spikeOf c ws = some (g, s.step.k) → s.step.running = true → s.step.expired.getLsbD g.val = true →
      ∃ t o, exec r.1 s = .next t ∧ Took s t c f o ∧ sameStores s t c ∧ o.copies = 0 ∧ t.mesh = s.mesh ∧
        t.ctr (0xD0140 + 4 * g.val) = (s.bump (0xD0140 + 4 * g.val)).ctr (0xD0140 + 4 * g.val))

/-- `RDUCE` hands vb to the clutch's hub, where it joins the reduction of its tag, and takes its token (R234); a reduction all of whose masked cells have contributed leaves its tag free and one item for each contributor in the mesh (R235). -/
def reduceRule : Prop :=
  (∀ (c : Fin 256) (f : Fields) (s : State),
    s.starts c f ⟨⟨.none, .s, .v, im 13 0 + im 33 30, true⟩, false, [sId f.a, vId f.b.toNat]⟩ 0 = true →
    let x := s.cell c
    let cl := clutchOf c
    let tag : Fin 16 := ⟨immOf f 13 10 % 16, Nat.mod_lt _ (by decide)⟩
    ∃ t o, exec (.rduce c f) s = .next t ∧ Took s t c f o ∧ sameStores s t c ∧ t.mesh = s.mesh ∧ o.copies = 0 ∧
      (t.clutch cl).reductions[tag.val] = some (joinReduction (s.clutch cl).reductions[tag.val] (c.val % 16)
        (bitsOf (x.s f.a).toNat 15 0) (immOf f 9 8) (queueNo (immOf f 7 0)) (x.v (r4 f.b)) s.step.k) ∧
      (∀ g : Fin 16, g ≠ tag → (t.clutch cl).reductions[g.val] = (s.clutch cl).reductions[g.val]) ∧
      ∀ k, k ≠ cl → t.clutch k = s.clutch k) ∧
  ∀ (cl tag : Fin 16) (s : State) (r : Reduction), (s.clutch cl).reductions[tag.val] = some r → s.reductionFull cl r = true → s.clocked = true →
    ∃ t, exec (.rduceResult cl tag) s = .next t ∧ (t.clutch cl).reductions[tag.val] = none ∧
      (∀ i : Fin 16, r.received.getLsbD i.val = true → s.hasRoute (cellOf cl i) = true → s.isHosted (cellOf cl i) = false →
        ∃ m ∈ t.mesh, m.src = .hub cl ∧ m.cell = cellOf cl i ∧ m.queue = r.queue ∧ m.words = rduceWords r tag.val false) ∧
      t.cells = s.cells ∧ t.regs = s.regs ∧ t.cnt = s.cnt

/-- `SEND`, `BCAST` and `RDUCE` with its result. -/
def Obligations.FabricSendResult : Prop := sendRule ∧ reduceRule


/-- `TOKEN_FREE` (R207, R231, R244): once no copy is on its way, no older operation of its engine is outstanding and no word is held for a queue, an operation writes the registers it owes and frees its token with its status; an operation whose words have no room waits, counted; before that, and while the clock stands still, nothing happens. -/
def tokenFreeRule : Prop :=
  ∀ (c : Fin 256) (k : Fin 16) (s : State) (o : PendingOp), ((s.cell c).tok[k.val]).op = some o →
    let status := if o.sends then statusWord (if o.noroute then 5 else 0) (if o.admitted then o.status.toNat % 65536 else 0) else o.status
    (o.copies = 0 → (s.cell c).oldest o = true → s.clocked = true → noneHeld (s.cell c) → ∃ t, exec (.tokenFree c k) s = .next t ∧
      ((t.cell c).tok[k.val]).op = none ∧ ((t.cell c).tok[k.val]).status = status ∧
      (∀ j : Fin 16, j ≠ k → (t.cell c).tok[j.val] = (s.cell c).tok[j.val]) ∧
      (t.cell c).sreg = (writeOwed o (s.cell c)).sreg ∧ (t.cell c).vreg = (writeOwed o (s.cell c)).vreg ∧
      (t.cell c).preg = (writeOwed o (s.cell c)).preg ∧ sameStores s t c ∧
      t.noLedger = (s.setCell c (t.cell c)).noLedger) ∧
    (∀ q, o.queue = some q → o.copies = 0 → (s.cell c).oldest o = true → s.clocked = true → (s.cell c).feeders = [k] →
      s.qCap c q ≤ (s.queue c q).words.length → ∃ t, exec (.tokenFree c k) s = .next t ∧ t.noLedger = (s.bump (celR c 0x688)).noLedger) ∧
    ((0 < o.copies ∨ (s.cell c).oldest o = false ∨ s.clocked = false) → exec (.tokenFree c k) s = .next s)

/-- `FABRIC_ITEM_ADMIT` (R138, R140 to R142, R194, R474): the sender's next item for a queue that reaches the bridge lands whole in a fabric-fed queue that has room and no back-pressure, is refused and waits where it has not, is discarded and counted where the queue is local, disabled, too small, or queue 255; behind another refused item, or while the clock stands still, nothing happens. -/
def admitRule : Prop :=
  ∀ (src : Source) (c q : Fin 256) (s : State) (m : MeshItem), s.firstItem src c q s.mesh = some m →
    let n := m.words.length
    let x := s.queue c q
    let reaches := s.clocked = true ∧ s.linkHeld src c q = false
    (reaches → q ≠ 255 → s.qLocal c q = false → n ≤ s.qCap c q → 0 < s.qCap c q → x.bp = false → x.words.length + n ≤ s.qCap c q →
      ∃ t, exec (.fabricItemAdmit src c q) s = .next t ∧ t.mesh = takeItem src c q s.mesh ∧
        (t.queue c q).words = x.words ++ asItem (s.cell c).step m.words ∧
        (∀ p, p ≠ q → t.queue c p = s.queue c p) ∧ (∀ d, d ≠ c → src ≠ .cell d → t.cell d = s.cell d) ∧
        (∀ d k o, src = .cell d → m.tok = some k → ((s.cell d).tok[k.val]).op = some o →
          ((t.cell d).tok[k.val]).op = some { o with copies := o.copies - 1, admitted := true }) ∧
        (t.cell c).sreg = (s.cell c).sreg ∧ (t.cell c).thatch = (s.cell c).thatch ∧ t.regs = s.regs) ∧
    (reaches → q ≠ 255 → s.qLocal c q = false → n ≤ s.qCap c q → 0 < s.qCap c q → (x.bp = true ∨ s.qCap c q < x.words.length + n) →
      exec (.fabricItemAdmit src c q) s = .next { s.ungate (clutchOf c) with mesh := refuseItem src c q s.mesh }) ∧
    (reaches → (q = 255 ∨ s.qLocal c q = true ∨ s.qCap c q = 0) → ∃ t, exec (.fabricItemAdmit src c q) s = .next t ∧
      t.mesh = takeItem src c q s.mesh ∧ t.cnt = (s.bump (celR c 0x1C0C)).cnt ∧ t.queue c q = { x with ign := true }) ∧
    (reaches → q ≠ 255 → s.qLocal c q = false → 0 < s.qCap c q → s.qCap c q < n → ∃ t, exec (.fabricItemAdmit src c q) s = .next t ∧
      t.mesh = takeItem src c q s.mesh ∧ t.cnt = (s.bump (celR c 0x1C18)).cnt ∧ t.queue c q = x) ∧
    (¬reaches → exec (.fabricItemAdmit src c q) s = .next s)

/-- An item is admitted; a token frees. -/
def Obligations.FabricEndResult : Prop := tokenFreeRule ∧ admitRule


/-- The Steward sends the first kept status record that may be offered as two words to queue 255 where it has room and no back-pressure; refused, the record waits for a later ridge (R194 to R196). -/
def statusRecordRule : Prop :=
  ∀ (c : Fin 256) (s : State) (r : StatusRec) (rest : List StatusRec), s.takeStatus (s.cell c).kept = some (r, rest) → s.clocked = true →
    let x := s.queue c 255
    (x.bp = false → x.words.length + 2 ≤ s.qCap c 255 → ∃ t, exec (.statusRecordSend c) s = .next t ∧ (t.cell c).kept = rest ∧
      ((t.queue c 255).words.drop x.words.length).map (fun w => (w.data, w.soi)) =
        [(BitVec.ofNat 64 (r.kind.toNat * 2 ^ 56 + r.arg.toNat * 2 ^ 32 + r.step.toNat), true), (BitVec.ofNat 64 r.data.toNat, false)] ∧
      (∀ p, p ≠ 255 → t.queue c p = s.queue c p) ∧ (∀ d, d ≠ c → t.cell d = s.cell d) ∧
      (t.cell c).sreg = (s.cell c).sreg ∧ (t.cell c).mode = (s.cell c).mode ∧ t.noLedger.cnt = s.noLedger.cnt ∧ t.regs = s.regs ∧ t.mesh = s.mesh) ∧
    ((x.bp = true ∨ s.qCap c 255 < x.words.length + 2) → ∃ t, exec (.statusRecordSend c) s = .next t ∧
      t = s.setCell c { s.cell c with kept := (t.cell c).kept } ∧ (t.cell c).kept.map (fun y => (y.kind, y.data)) = (s.cell c).kept.map (fun y => (y.kind, y.data)) ∧
      ∃ y ∈ (t.cell c).kept, y = { r with refused := some s.step.ridges } ∧ t.offerable y = false)

/-- A running cell that observes its due ridge sets the fences of queues 0 to 254 behind the words that count (R217, R218), and its moult visits the share of its cell step once, lines beyond the cell's limit excepted (R165, R182). -/
def ridgeSeenRule : Prop :=
  ∀ (c : Fin 256) (s : State) (k : Nat), (s.cell c).step = some k → (s.cell c).mode = .running →
    ((k < s.step.k ∨ (s.step.running = true ∧ s.step.due = true ∧ k = s.step.k)) → (s.cell c).dueSeen = false →
      ∃ t, exec (.dueRidgeObserved c) s = .next t ∧ (t.cell c).dueSeen = true ∧
        (∀ q : Fin 256, q.val < 255 → (t.queue c q).fence =
          some (if s.qLocal c q = false ∧ s.step.running = true ∧ k = s.step.k then (s.queue c q).mark.getD (s.queue c q).words.length
            else (s.queue c q).words.length)) ∧
        t.queue c 255 = s.queue c 255 ∧ (∀ q : Fin 256, (t.queue c q).words = (s.queue c q).words) ∧
        (∀ d, d ≠ c → t.cell d = s.cell d) ∧ (t.cell c).sreg = (s.cell c).sreg ∧ (t.cell c).thatch = (s.cell c).thatch ∧
        t.cnt = s.cnt ∧ t.regs = s.regs ∧ t.mesh = s.mesh ∧ t.step = s.step) ∧
    (∀ u : Upset, u.passes = true → s.clocked = true → (s.cell c).moultDone = false → ∃ t, exec (.moultShare c u) s = .next t ∧ (t.cell c).moultDone = true ∧
      (t.cell c).thatch = (clearLines (s.cell c).thatch (s.memLimit c .thatch / 64) (s.moultShare c) (s.endOf k / 16 % 32768) false).1 ∧
      (t.cell c).cwm = (s.cell c).cwm ∧ (t.cell c).queues = (s.cell c).queues ∧ (t.cell c).sreg = (s.cell c).sreg ∧
      (∀ d, d ≠ c → t.cell d = s.cell d) ∧ t.regs = s.regs ∧ t.mesh = s.mesh ∧ t.step = s.step)

/-- Status records, the due ridge as a cell observes it, the moult. -/
def Obligations.StewardResult : Prop := statusRecordRule ∧ ridgeSeenRule


/-- The hub puts the bytes it reads from the Weight Store, up to the cell's limit, into the CWM of every named cell that has a route and is not hosted, and changes no other byte of any cell (R12, R165); an uncorrectable word in the read is fault 0x26 (R504). -/
def weightRule : Prop :=
  ∀ (cl : Fin 16) (cells : BitVec 16) (src addr len : Nat) (s : State),
    s.clocked = true → ∀ ups : CellUpsets, (∀ p ∈ ups, p.2.passes = true) →
    exec (.hubWeightBroadcast cl cells src addr len .uncorrectable ups) s = .next (s.deviceFault 0x26 6 1 6 1 false) ∧
    ∀ e : Ecc, e ≠ .uncorrectable → ∃ t, exec (.hubWeightBroadcast cl cells src addr len e ups) s = .next t ∧
      (∀ i : Fin 16, cells.getLsbD i.val = true → s.hasRoute (cellOf cl i) = true → s.isHosted (cellOf cl i) = false →
        (∀ j, j < len → addr + j < s.memLimit (cellOf cl i) .cwm → memRead (t.cell (cellOf cl i)).cwm (addr + j) = memRead s.weights (src + j)) ∧
        ∀ a, (a < addr ∨ addr + len ≤ a ∨ s.memLimit (cellOf cl i) .cwm ≤ a) → memRead (t.cell (cellOf cl i)).cwm a = memRead (s.cell (cellOf cl i)).cwm a) ∧
      (∀ d : Fin 256, (clutchOf d ≠ cl ∨ cells.getLsbD (d.val % 16) = false ∨ s.hasRoute d = false ∨ s.isHosted d = true) →
        (t.cell d).cwm = (s.cell d).cwm) ∧
      ∀ d : Fin 256, (t.cell d).thatch = (s.cell d).thatch ∧ (t.cell d).queues = (s.cell d).queues ∧ (t.cell d).sreg = (s.cell d).sreg

/-- When the delivery budget expires, it does so for every drop-and-count region: their unadmitted spike items of the open step leave the mesh, each counted once at its region (R317, R320). -/
def deliveryRule : Prop :=
  ∀ (r : Fin 4) (s : State), s.clocked = true → s.step.running = true → s.step.due = true → 3 ≤ s.regionSize r.val → s.step.intakeStopped = false →
    ∃ t, exec (.deliveryBudgetExpiry r) s = .next t ∧
      t.mesh = (s.mesh.filter fun m => !m.spike.any fun p => decide (3 ≤ s.regionSize p.1.val) && p.2 == s.step.k) ∧
      (∀ g : Fin 4, 3 ≤ s.regionSize g.val → t.step.expired.getLsbD g.val = true ∧
        t.ctr (0xD0140 + 4 * g.val) = BitVec.ofNat 32 (min 0xFFFFFFFF ((s.ctr (0xD0140 + 4 * g.val)).toNat +
          (spikeKeys (s.mesh.filter fun m => decide (m.spike = some (g, s.step.k)))).length))) ∧
      t.regs = s.regs ∧ t.ports = s.ports ∧ t.step.k = s.step.k ∧ t.step.due = true ∧
      ∀ d : Fin 256, (t.cell d).sreg = (s.cell d).sreg ∧ (t.cell d).queues = (s.cell d).queues ∧ (t.cell d).thatch = (s.cell d).thatch

/-- The weight broadcast and the delivery budget. -/
def Obligations.HubResult : Prop := weightRule ∧ deliveryRule


/-- Remapping (R17, R22, R175, R510): once its routes are written a removed cell is a hosted logical cell with a route, one forwarding entry for each shingle its image gives it, and association is in recovery; not written in time, fault 0x22 is latched. -/
def Obligations.RemapResult : Prop :=
  ∀ (c : Fin 256) (s : State), (s.cell c).detectedRemap = true →
    (∀ ups : CellUpsets, (∀ p ∈ ups, p.2.passes = true) → ∃ t, exec (.remapRoutesWritten c ups) s = .next t ∧
      t.cell c = hostedCell (s.fld 0x50010 15 0) ∧ t.hasRoute c = true ∧ t.trk.rleft = s.fld 0x60010 31 24 ∧
      (∀ ci, s.cellImage c = some ci → s.siblings c ≠ [] →
        (t.disc.hosted.filter fun h => h.lcell == c).length = (s.disc.hosted.filter fun h => h.lcell == c).length + ci.shingles.length) ∧
      (∀ d, d ≠ c → t.hasRoute d = s.hasRoute d) ∧ (∀ d, clutchOf d ≠ clutchOf c → t.cell d = s.cell d) ∧ t.step = s.step) ∧
    ((s.cell c).overdue = false → ∃ t, exec (.remapDeadlineExpiry c) s = .next t ∧ (t.cell c).overdue = true ∧
      t.saf.latched.getLsbD 2 = true ∧ t.ctr 0xB0080 = (s.bump 0xB0080).ctr 0xB0080 ∧
      t.pins.faultA = (if s.saf.latched.getLsbD 2 then s.pins.faultA else false) ∧
      (∀ d, d ≠ c → t.cell d = s.cell d) ∧ t.mesh = s.mesh ∧ t.step = s.step)

/-! ## Cells: engines (08 to 11) -/

/-- An instruction that does not issue: with its predicate 0 it only moves the pc on; with a reserved encoding, an odd pair or a pc beyond the fetch limit it is a program fault (R203, R205, R236). -/
def Obligations.IssueGuards : Prop :=
  ∀ (c : Fin 256) (f : Fields) (m : Shape) (body : State → Issue) (s : State), s.ready c = true →
    let x := s.cell c
    let fetched := 8 * x.pc.toNat < 64 * s.fld (celR c 0x24) 28 16
    let known := x.awaited.contains (pId f.pred.toNat) = false
    (¬fetched → s.issue c f m.form m.odd m.uses body = s.programFault c 2) ∧
    (fetched → m.form.ok f = false → s.issue c f m.form m.odd m.uses body = s.programFault c 1) ∧
    (fetched → m.form.ok f = true → known → x.p f.pred = false →
      (s.issue c f m.form m.odd m.uses body).noLedger = (s.modCell c fun y => { y.advance with stalled := none }).noLedger) ∧
    (fetched → m.form.ok f = true → known → x.p f.pred = true → m.odd = true → s.issue c f m.form m.odd m.uses body = s.programFault c 4) ∧
    (fetched → m.form.ok f = true → known → x.p f.pred = true → m.odd = false → (m.uses.any fun r => x.awaited.contains r) = true →
      s.issue c f m.form m.odd m.uses body = s)

/-- A program fault disables its cell, records CODE and the pc in `CEL_PFAULT`, and takes its route (R193, R237, R509). -/
def programFaultRule : Prop :=
  ∀ (c : Fin 256) (code : Nat) (s : State), (s.cell c).removed = false → code < 16 →
    let t := s.programFault c code
    (t.cell c).mode = .faulted ∧ (t.cell c).removed = true ∧ t.hasRoute c = false ∧
    (t.cell c).pfault = BitVec.ofNat 32 (code * 2 ^ 28 + 8 * (s.cell c).pc.toNat) ∧
    (t.cell c).sreg = (s.cell c).sreg ∧ (t.cell c).thatch = (s.cell c).thatch ∧ (t.cell c).cwm = (s.cell c).cwm ∧
    (∀ q : Fin 256, (t.queue c q).words = []) ∧ (∀ m ∈ t.mesh, m.cell ≠ c) ∧ t.step = s.step ∧ t.ports = s.ports

/-- An uncorrectable word met by a load, a store, a descriptor move, a queue read or the moult fails the cell with cause 0x10 and its bank (R166, R167). -/
def uncorrectableRule : Prop :=
  ∀ (c : Fin 256) (m : Bool) (f : Fields) (b : Fin 12) (s : State),
    let u := Upset.uncorrectable b
    let fails := ((s.failCell c 2 0x10 (BitVec.ofNat 32 b.val)).payIssue c).goOn c Cell.advance
    (s.issues c f ⟨⟨.s, .s, .none, im 19 0, true⟩, false, [sId f.d, sId f.a]⟩ = true →
      ∀ r ∈ loadRows c m f u, exec r.1 s = .next fails) ∧
    (∀ r ∈ storeRows c m f u (s.cell c), s.issues c f r.2.1 = true → exec r.1 s = .next fails) ∧
    (s.issues c f (popShape f (im 13 0)) = true → exec (.pop c f u) s = .next fails) ∧
    (s.clocked = true → (s.cell c).mode = .running → (s.cell c).step.isSome = true → (s.cell c).moultDone = false →
      exec (.moultShare c u) s = .next (s.failCell c 2 0x10 (BitVec.ofNat 32 b.val))) ∧
    ((s.cell c).removed = false → (fails.cell c).mode = .faulted ∧ (fails.cell c).cause = 2 ∧ (fails.cell c).pc = (s.cell c).pc)

/-- The map and the codes of a stamp instruction's surface and site (R251). -/
def stampSite (s : State) (c : Fin 256) (n : BitVec 5) (w : Word) (bounds : Bool) : Desc × List Nat :=
  (descOf ((s.cell c).g (r3 n)), stampCodes (descOf ((s.cell c).g (r3 n))) w bounds)

/-- A `TSUPD` or `TSRD` met before the clear pass has ended stalls until it ends (R184). -/
def clearPassRule : Prop :=
  ∀ (c : Fin 256) (f : Fields) (u : Upset) (s : State), (s.cell c).clearing = true →
    ∀ r ∈ [(Instr.tsupd c f u, Shape.mk ⟨.g, .s, .s, im 33 30, true⟩ false [sId f.a, sId f.b]),
           (.tsrd c f u, ⟨⟨.v, .g, .s, im 33 19, true⟩, false, [vId f.d.toNat, sId f.b, sId (BitVec.ofNat 5 (immOf f 29 25))]⟩)],
      s.starts c f r.2 0x10 = true → ∃ t, exec r.1 s = .next t ∧ t.noLedger = (s.modCell c fun x => { x with clearing := false }).noLedger

/-- `TSUPD` (R252): it writes the entry of its site with VALID and the stamp's ST where the stamp is not too old and the entry is not valid with a younger or equal stamp; it writes nothing else, counts 1 for a write, and a bad surface or site ends it with its code. -/
def surfaceUpdateRule : Prop :=
  ∀ (c : Fin 256) (f : Fields) (u : Upset) (s : State), u.passes = true →
    s.starts c f ⟨⟨.g, .s, .s, im 33 30, true⟩, false, [sId f.a, sId f.b]⟩ 0x10 = true → (s.cell c).clearing = false →
    let w := (s.cell c).s f.a
    let d := descOf ((s.cell c).g (r3 f.d))
    let codes := stampCodes d w true
    let st := ((s.cell c).s f.b).toNat / 16 % 32768
    let a := d.elemAddr (siteX w) (siteY w) (siteC w) 0
    let old := s.readNat c .thatch a 2
    let past := s.memLimit c .thatch < a + 2
    ∃ t o, exec (.tsupd c f u) s = .next t ∧ Took s t c f o ∧ o.engine = 0x10 ∧ o.sregs = [] ∧ o.vregs = [] ∧
      (t.cell c).cwm = (s.cell c).cwm ∧ (t.cell c).queues = (s.cell c).queues ∧ t.mesh = s.mesh ∧
      (codes ≠ [] → o.status = statusWord (lowestCode codes) 0 ∧ (t.cell c).thatch = (s.cell c).thatch) ∧
      ∀ k, (s.cell c).step = some k → codes = [] →
        let eu := s.endOf k / 16 % 32768
        let writes := stAge eu st < 16384 ∧ ¬(current eu old = true ∧ stAge eu old ≤ stAge eu st)
        (writes → (t.cell c).thatch = memWriteBytes (s.cell c).thatch a ((natLe 2 (32768 + st)).take (s.memLimit c .thatch - a))) ∧
        (¬writes → (t.cell c).thatch = (s.cell c).thatch) ∧
        (o.status = statusWord (if past then 2 else 0) (if writes ∧ ¬past then 1 else 0)) ∧
        (16384 ≤ stAge eu st → t.ctr (celR c 0x20C) = ((s.met c u).bump (celR c 0x20C)).ctr (celR c 0x20C))

/-- `TSRD`, `ARC` and `FLOWFIT` read a time surface and owe one register each: the entries or their decay, the arc word and its predicate, the plane fit (R185, R253, R254, R256); they write no memory, and a bad surface or site ends them with its code. -/
def surfaceReadRule : Prop :=
  ∀ (c : Fin 256) (f : Fields) (u : Upset) (s : State) (k : Nat), u.passes = true → (s.cell c).step = some k →
    let x := s.cell c
    let d := descOf (x.g (r3 f.a))
    let w := x.s f.b
    let eu := s.endOf k / 16 % 32768
    let ref := BitVec.ofNat 5 (immOf f 29 25)
    let ra := refAge eu (x.s ref)
    let read (l : List (Int × Int)) := l.map fun o => s.entry c d w o.1 o.2
    (s.starts c f ⟨⟨.v, .g, .s, im 33 19, true⟩, false, [vId f.d.toNat, sId f.b, sId ref]⟩ 0x10 = true → x.clearing = false →
      ∃ t o, exec (.tsrd c f u) s = .next t ∧ Took s t c f o ∧ sameStores s t c ∧ t.mesh = s.mesh ∧ o.engine = 0x10 ∧
        (stampCodes d w true ≠ [] → o.status = statusWord (lowestCode (stampCodes d w true)) 0 ∧ o.vregs = [(f.d.toNat, 0)]) ∧
        (stampCodes d w true = [] →
          let l := read (shapeOffsets (immOf f 21 20))
          o.status = statusWord (if l.any fun e => e.2 then 2 else 0) l.length ∧
          o.vregs = [(f.d.toNat, vpack 16 (l.map fun e => if bitAt f.imm.toNat 19 then e.1 else s.decay c (immOf f 24 22) eu ra.1 e.1))])) ∧
    (s.starts c f ⟨⟨.s, .g, .s, im 33 9, true⟩, false, [sId f.d, sId f.b, pId (immOf f 29 27)]⟩ 0x10 = true →
      let bounds := decide (1 ≤ immOf f 12 9 ∧ immOf f 12 9 ≤ immOf f 16 13 ∧ 1 ≤ immOf f 21 17 ∧ immOf f 21 17 ≤ immOf f 26 22 ∧ immOf f 26 22 ≤ 19)
      ∃ t o, exec (.arc c f u) s = .next t ∧ Took s t c f o ∧ sameStores s t c ∧ t.mesh = s.mesh ∧ o.engine = 0x10 ∧
        (stampCodes d w bounds ≠ [] → o.status = statusWord (lowestCode (stampCodes d w bounds)) 0 ∧ o.sregs = [] ∧ o.pregs = []) ∧
        (stampCodes d w bounds = [] →
          let kin := ringPass (immOf f 12 9) (immOf f 16 13) ((read innerRing).map fun e => arcAge eu e.1)
          let kout := ringPass (immOf f 21 17) (immOf f 26 22) ((read outerRing).map fun e => arcAge eu e.1)
          o.status = statusWord (if (read innerRing ++ read outerRing).any fun e => e.2 then 2 else 0) 36 ∧
          o.sregs = [(f.d.toNat, BitVec.ofNat 32 (kout * 65536 + kin * 256 + (if 0 < kout then 4 else 0) + (if 0 < kin then 2 else 0) +
            (if 0 < kin ∧ 0 < kout then 1 else 0)))] ∧
          o.pregs = [(immOf f 29 27, decide (0 < kin ∧ 0 < kout))])) ∧
    (s.starts c f ⟨⟨.v, .g, .s, im 33 10, true⟩, false, [vId f.d.toNat, sId f.b, sId ref]⟩ 0x10 = true →
      let bounds := decide (3 ≤ immOf f 24 20 ∧ immOf f 24 20 ≤ 25 ∧ 1 ≤ immOf f 19 10)
      ∃ t o, exec (.flowfit c f u) s = .next t ∧ Took s t c f o ∧ sameStores s t c ∧ t.mesh = s.mesh ∧ o.engine = 0x10 ∧
        (stampCodes d w bounds ≠ [] → o.status = statusWord (lowestCode (stampCodes d w bounds)) 0 ∧ o.vregs = [(f.d.toNat, 0)]) ∧
        (stampCodes d w bounds = [] →
          let l := read (shapeOffsets 2)
          let pts := fitPoints eu ra.1 (immOf f 19 10) ((shapeOffsets 2).zip (l.map fun e => e.1))
          o.status.toNat % 65536 = pts.length ∧ o.vregs = [(f.d.toNat, vpack 16 (planeFit (immOf f 24 20) pts).2)] ∧
          (pts.length < immOf f 24 20 → (planeFit (immOf f 24 20) pts).2 = [0, 0, pts.length, 0])))

/-- The stamp engine: `TSUPD`, `TSRD`, `ARC` and `FLOWFIT`. -/
def Obligations.SurfaceResult : Prop := surfaceUpdateRule ∧ surfaceReadRule ∧ clearPassRule


/-- The outputs an array operation accumulates in the bank IMM [27:26] names. -/
def arrayOutputs (s : State) (c : Fin 256) (f : Fields) (ga gb : Desc) (dots : List Dot) : List (Accumulated × Nat) :=
  let bank := (s.cell c).acc[immOf f 27 26 % 4]'(Nat.mod_lt _ (by decide))
  let flt := isFloat (immOf f 25 22) || immOf f 25 22 == 8
  dots.zipIdx.map fun t => (s.accumulate c (immOf f 25 22) (immOf f 21 18) ga gb 48 flt
    (bankBits bank (immOf f 29 28 == 0 || immOf f 29 28 == 3) flt s.free t.2) t.2 t.1, t.2)

/-- `MM` and `CONV` (R258 to R260): once their descriptors and formats are sound each output is the accumulated sum of its products, the bank keeps it, and the operations that write (ACCM 0 and 2) convert it into the output map; unsound ones end with their code and write nothing. -/
def Obligations.ArrayResult : Prop :=
  ∀ (c : Fin 256) (f : Fields) (u : Upset) (s : State), u.passes = true →
    s.starts c f ⟨⟨.g, .g, .g, im 33 7, true⟩, false, []⟩ 0x11 = true →
    let ga := descOf ((s.cell c).g (r3 f.a))
    let gb := descOf ((s.cell c).g (r3 f.b))
    let gd := descOf ((s.cell c).g (r3 f.d))
    let mmBad := ga.bad || gb.bad || gd.bad || ga.c != gb.c || gd.w * gd.h != ga.w * ga.h || gd.c != gb.w * gb.h ||
      bankOver f (ga.w * ga.h * (gb.w * gb.h)) || mxBad (immOf f 25 22) ga || mxBad (immOf f 21 18) gb
    let convBad := ga.bad || gb.bad || gd.bad || ga.c != gb.c || decide (15 < gb.w) || decide (15 < gb.h) ||
      decide ((gd.w : Int) ≠ ga.outW gb) || decide ((gd.h : Int) ≠ ga.outH gb) || gd.c != gb.n || bankOver f (gd.w * gd.h * gb.n) ||
      mxBad (immOf f 25 22) ga || mxBad (immOf f 21 18) gb
    let formats := arrayFormats (immOf f 25 22) (immOf f 21 18) (immOf f 17 14) (immOf f 8 7) ga gb gd
    let mmDots := (matDots ga gb).map fun t => ({ t with out := (Int.ofNat (t.out.2.2.2 % gd.w), Int.ofNat (t.out.2.2.2 / gd.w), t.out.2.2.1, 0) } : Dot)
    ∀ r ∈ [(Instr.mm c f u, (if mmBad then [4] else []) ++ formats, mmDots),
           (Instr.conv c f u, (if emptyOut ga gb then [1] else []) ++ (if convBad then [4] else []) ++ formats, convDots ga gb)],
      ∃ t o, exec r.1 s = .next t ∧ Took s t c f o ∧ o.engine = 0x11 ∧ o.sregs = [] ∧ o.vregs = [] ∧ t.mesh = s.mesh ∧
        (t.cell c).queues = (s.cell c).queues ∧
        (r.2.1 ≠ [] → o.status = statusWord (lowestCode r.2.1) 0 ∧ sameStores s t c ∧ (t.cell c).acc = (s.cell c).acc) ∧
        (r.2.1 = [] →
          let l := arrayOutputs s c f ga gb r.2.2
          let writes := immOf f 29 28 = 0 ∨ immOf f 29 28 = 2
          let w := (s.writeOutputs c gd (immOf f 17 14) (immOf f 13 9) (immOf f 8 7) s.free l).1.cell c
          ((t.cell c).thatch, (t.cell c).cwm) = (if writes then (w.thatch, w.cwm) else ((s.cell c).thatch, (s.cell c).cwm)) ∧
          o.status.toNat % 65536 = (if writes then gd.h else 0) ∧
          (∀ b : Fin 4, b.val ≠ immOf f 27 26 → (t.cell c).acc[b.val] = (s.cell c).acc[b.val]) ∧
          (t.cell c).acc[immOf f 27 26 % 4]'(Nat.mod_lt _ (by decide)) =
            bankAfter ((s.cell c).acc[immOf f 27 26 % 4]'(Nat.mod_lt _ (by decide))) (immOf f 29 28 == 0 || immOf f 29 28 == 3)
              (isFloat (immOf f 25 22) || immOf f 25 22 == 8) s.free l)

/-- A second residue mismatch of an array pass fails the cell with cause 0x13 and the column; a first one ends the operation with code 0x10 at least (R265); the column of a channel that saturates in the pass is not checked (R266). -/
def residueRule : Prop :=
  ∀ (c : Fin 256) (f : Fields) (col : Nat) (s : State),
    s.starts c f ⟨⟨.g, .g, .g, im 33 7, true⟩, false, []⟩ 0x11 = true →
    let ga := descOf ((s.cell c).g (r3 f.a))
    let gb := descOf ((s.cell c).g (r3 f.b))
    let gd := descOf ((s.cell c).g (r3 f.d))
    ga.bad = false → gb.bad = false → gd.bad = false → ga.c = gb.c → gd.w * gd.h = ga.w * ga.h → gd.c = gb.w * gb.h →
    bankOver f (ga.w * ga.h * (gb.w * gb.h)) = false → mxBad (immOf f 25 22) ga = false → mxBad (immOf f 21 18) gb = false →
    arrayFormats (immOf f 25 22) (immOf f 21 18) (immOf f 17 14) (immOf f 8 7) ga gb gd = [] →
    let dots := (matDots ga gb).map fun t => ({ t with out := (Int.ofNat (t.out.2.2.2 % gd.w), Int.ofNat (t.out.2.2.2 / gd.w), t.out.2.2.1, 0) } : Dot)
    (s.columnSaturates c f ga gb dots col = false →
      (∃ t, exec (.mm c f (.residue col true)) s = .next t ∧
        ((s.cell c).removed = false → (t.cell c).mode = .faulted ∧ (t.cell c).cause = 5 ∧ (t.cell c).thatch = (s.cell c).thatch) ∧
        t.ctr (celR c 0x680) = (s.bump (celR c 0x680)).ctr (celR c 0x680)) ∧
      ∃ t o, exec (.mm c f (.residue col false)) s = .next t ∧ Took s t c f o ∧ bitsOf o.status.toNat 23 16 ∈ [2, 0x10] ∧
        t.ctr (celR c 0x680) = (s.bump (celR c 0x680)).ctr (celR c 0x680)) ∧
    (s.columnSaturates c f ga gb dots col = true → ∀ twice, ∃ t o, exec (.mm c f (.residue col twice)) s = .next t ∧ Took s t c f o ∧
      (t.cell c).mode = (s.cell c).mode ∧ t.ctr (celR c 0x680) = s.ctr (celR c 0x680))

/-- How a cell fails: a program fault, an uncorrectable word, a residue mismatch. -/
def Obligations.CellFailureResult : Prop := programFaultRule ∧ uncorrectableRule ∧ residueRule


/-- `DCONV` and `FCONV` in FIRST mode change the stored sums of the outputs their input site reaches and send one delta item for each chunk of an output whose activation changed (R261, R262, R267); `FCONV` in LAST mode writes a dense convolution (R268). Unsound operands end them with their code and write nothing. -/
def Obligations.DeltaResult : Prop :=
  ∀ (c : Fin 256) (f : Fields) (u : Upset) (s : State), u.passes = true →
    let x := s.cell c
    let gd := descOf (x.g (r3 f.d))
    let gf := descOf (x.g (r3 f.a))
    let gb := descOf (x.g (r3 f.b))
    let site := BitVec.ofNat 5 (immOf f 29 25)
    let m := spanRegs gf.c
    let deltaBad := (gd.bad || gf.bad || decide (256 < gf.c) || decide (15 < gf.w) || decide (15 < gf.h) || f.b.toNat % m != 0 || gd.c != gf.n : Bool)
    let firstBad := (gd.bad || gf.bad || decide (4 < gf.c) || decide (64 < gf.n) || decide (15 < gf.w) || decide (15 < gf.h) || gd.c != gf.n : Bool)
    let w := x.s site
    let v := x.s f.b
    let din := (List.range gf.c).map fun ci => (ci, x.deltaIn f.b ci)
    let run (shift act layer : Nat) (din : List (Nat × Int)) (hits : List TapHit) :=
      hits.foldl (s.deltaSite c gd gf shift act layer din) ⟨s, [], 0⟩
    (∀ r ∈ [(Instr.dconv c f u, Shape.mk ⟨.g, .g, .v, im 33 2, decide (4 < m) || decide (f.b.toNat + m ≤ 16)⟩ false (sId site :: spanIds f.b (min m 4)), 0x11,
              (if deltaBad then [4] else []) ++ deltaFormats gf gd (immOf f 3 2),
              run (immOf f 8 4) (immOf f 3 2) (immOf f 16 9) din (tapHits gd gf (siteX w) (siteY w)), queueNo (immOf f 24 17)),
            (Instr.fconvFirst c f u, Shape.mk ⟨.g, .g, .s, im 33 2, true⟩ false [sId f.b], 0x14,
              (if firstBad then [4] else []) ++ (if gf.c ≤ siteC v then [0x11] else []) ++ deltaFormats gf gd (immOf f 7 6),
              run (immOf f 12 8) (immOf f 7 6) (immOf f 20 13) [(siteC v, 1)] (tapHits gd gf (siteX v) (siteY v)), queueNo (immOf f 28 21))],
      s.starts c f r.2.1 r.2.2.1 = true → ∃ t o, exec r.1 s = .next t ∧ Took s t c f o ∧ o.engine = r.2.2.1 ∧ t.mesh = s.mesh ∧
        (r.2.2.2.1 ≠ [] → o.status = statusWord (lowestCode r.2.2.2.1) 0 ∧ sameStores s t c) ∧
        (r.2.2.2.1 = [] → (t.cell c).thatch = (r.2.2.2.2.1.s.cell c).thatch ∧ (t.cell c).cwm = (r.2.2.2.2.1.s.cell c).cwm ∧
          o.status.toNat % 65536 = r.2.2.2.2.1.items.length % 65536 ∧ o.queue = some r.2.2.2.2.2 ∧
          (noneHeld x → ∀ q, q ≠ r.2.2.2.2.2 → t.queue c q = s.queue c q))) ∧
    (s.starts c f ⟨⟨.g, .g, .g, im 33 2, true⟩, false, []⟩ 0x14 = true →
      let ga := gf
      let bad := (ga.bad || gb.bad || gd.bad || ga.c != gb.c || decide (15 < gb.w) || decide (15 < gb.h) || decide (8 < gb.n) || decide (256 < ga.c) ||
        decide ((gd.w : Int) ≠ ga.outW gb) || decide ((gd.h : Int) ≠ ga.outH gb) || gd.c != gb.n : Bool)
      let formats := (ga.esize == 1 && gb.esize == 1 && [0, 2, 3].contains (immOf f 5 2) && fmtFits (immOf f 5 2) gd && immOf f 7 6 != 3 : Bool)
      let codes := (if emptyOut ga gb then [1] else []) ++ (if bad then [4] else []) ++ (if formats then [] else [0x12])
      ∃ t o, exec (.fconvLast c f u) s = .next t ∧ Took s t c f o ∧ o.engine = 0x14 ∧ t.mesh = s.mesh ∧ (t.cell c).queues = x.queues ∧
        (codes ≠ [] → o.status = statusWord (lowestCode codes) 0 ∧ sameStores s t c) ∧
        (codes = [] →
          let l := (convDots ga gb).zipIdx.map fun t => (s.accumulate c 0 0 ga gb 48 false 0 t.2 t.1, t.2)
          let y := (s.writeOutputs c gd (immOf f 5 2) (immOf f 12 8) (immOf f 7 6) s.free l).1.cell c
          (t.cell c).thatch = y.thatch ∧ (t.cell c).cwm = y.cwm ∧ o.status.toNat % 65536 = gd.h))

/-- Two-operand lane operations: the instruction, whether it takes a shift, and its lane function of format, shift, free choice and lanes. -/
def laneRows (c : Fin 256) (f : Fields) (u : Upset) : List (Instr × Bool × (Nat → Nat → Nat → Nat → Nat → Lane)) :=
  [(.vadd c f u, false, fun fmt _ _ a b => laneSum false fmt a b), (.vsub c f u, false, fun fmt _ _ a b => laneSum true fmt a b),
   (.vmul c f u, true, fun fmt sh _ a b => laneMul fmt sh a b),
   (.vmax c f u, false, fun fmt _ k a b => (lanePick false fmt k a b, false)), (.vmin c f u, false, fun fmt _ k a b => (lanePick true fmt k a b, false))]

/-- `VADD`, `VSUB`, `VMUL`, `VMAX` and `VMIN` owe vd the results of all lanes, integers saturated to the lane and any saturation reported with code 0x15; a format they do not take ends them with BADFMT (R243, R269). -/
def laneRule : Prop :=
  ∀ (c : Fin 256) (f : Fields) (u : Upset) (s : State), u.passes = true → ∀ r ∈ laneRows c f u,
    s.starts c f ⟨⟨.v, .v, .v, im 33 26 + (if r.2.1 then im 25 21 else 0), true⟩, false, [vId f.d.toNat, vId f.a.toNat, vId f.b.toNat]⟩ 0x12 = true →
    let fmt := immOf f 29 26
    let w := fmtBits fmt
    let lane (i : Nat) : Lane := r.2.2 fmt (immOf f 25 21) (Config.freeOrder (s.free + i)) (vlane w ((s.cell c).v (r4 f.a)) i) (vlane w ((s.cell c).v (r4 f.b)) i)
    let takes := isVec fmt = true ∧ ¬(r.2.1 = true ∧ immOf f 25 21 ≠ 0 ∧ isFloat fmt = true)
    ∃ t o, exec r.1 s = .next t ∧ Took s t c f o ∧ sameStores s t c ∧ t.mesh = s.mesh ∧ o.engine = 0x12 ∧ o.sregs = [] ∧
      (¬takes → o.status = statusWord 0x12 0 ∧ o.vregs = []) ∧
      (takes → ∃ v : VReg, o.vregs = [(f.d.toNat, v)] ∧ (∀ i, i < 512 / w → vlane w v i = (lane i).1 % 2 ^ w) ∧
        (o.status = statusWord 0x15 0 ∨ o.status = statusWord 0 0) ∧
        (o.status = statusWord 0x15 0 ↔ ∃ i, i < 512 / w ∧ (lane i).2 = true))

/-- What the integer lane functions compute (R269): sums, differences and shifted products saturated to the lane width. -/
def laneMeaning : Prop :=
  ∀ (fmt sh a b : Nat), fmt ∈ [0, 2, 3] →
    let w := fmtBits fmt
    let x := signedOf w a
    let y := signedOf w b
    (laneSum false fmt a b).1 = satLane w (x + y) ∧ (laneSum true fmt a b).1 = satLane w (x - y) ∧
    (laneMul fmt sh a b).1 = satLane w (if sh = 0 then x * y else (x * y + (2 ^ (sh - 1) : Nat)) / (2 ^ sh : Nat)) ∧
    ((laneSum false fmt a b).2 = true ↔ x + y < -(2 ^ (w - 1) : Nat) ∨ ((2 ^ (w - 1) : Nat) : Int) ≤ x + y) ∧
    (∀ k, signedOf w (lanePick false fmt k a b) = max x y ∧ signedOf w (lanePick true fmt k a b) = min x y)

/-- The two-operand lane operations and what their integer lanes compute. -/
def Obligations.LaneResult : Prop := laneRule ∧ laneMeaning


/-- `VABS`, `VSHL` and `VSRA` owe vd one result a lane, saturated (R269); `VCVT` owes it each source lane converted; `VRED` one sum, maximum or minimum in lane 0, the rest zero. A format or operation they do not take ends them with BADFMT (R243). -/
def Obligations.LaneUnaryResult : Prop :=
  ∀ (c : Fin 256) (f : Fields) (u : Upset) (s : State), u.passes = true →
    let fmt := immOf f 29 26
    let w := fmtBits fmt
    let a (i : Nat) : Nat := vlane w ((s.cell c).v (r4 f.a)) i
    let uses := [vId f.d.toNat, vId f.a.toNat]
    (∀ r ∈ [(Instr.vabs c f u, im 33 26 + 0, false, fun i => signedOf w (a i) |>.natAbs |> Int.ofNat),
            (Instr.vshl c f u, im 33 26 + im 25 21, true, fun i => signedOf w (a i) * (2 ^ immOf f 25 21 : Nat)),
            (Instr.vsra c f u, im 33 26 + im 25 21, true, fun i => signedOf w (a i) / ((2 ^ immOf f 25 21 : Nat) : Int))],
      s.starts c f ⟨⟨.v, .v, .none, r.2.1, true⟩, false, uses⟩ 0x12 = true →
      ∃ t o, exec r.1 s = .next t ∧ Took s t c f o ∧ sameStores s t c ∧ t.mesh = s.mesh ∧ o.engine = 0x12 ∧
        ((isVec fmt = false ∨ (r.2.2.1 = true ∧ isFloat fmt = true)) → o.status = statusWord 0x12 0 ∧ o.vregs = []) ∧
        (isVec fmt = true → isFloat fmt = false → ∃ v : VReg, o.vregs = [(f.d.toNat, v)] ∧ ∀ i, i < 512 / w → vlane w v i = satLane w (r.2.2.2 i)) ∧
        (isVec fmt = true → isFloat fmt = true → r.2.2.1 = false → ∃ v : VReg, o.vregs = [(f.d.toNat, v)] ∧
          ∀ i, i < 512 / w → vlane w v i = a i % 2 ^ (w - 1))) ∧
    (s.starts c f ⟨⟨.v, .v, .none, im 33 22, true⟩, false, uses⟩ 0x12 = true →
      let dst := immOf f 25 22
      let takes := (isVec fmt || fmt == 12) && (isVec dst || dst == 12)
      ∃ t o, exec (.vcvt c f u) s = .next t ∧ Took s t c f o ∧ sameStores s t c ∧ t.mesh = s.mesh ∧ o.engine = 0x12 ∧
        (takes = false → o.status = statusWord 0x12 0 ∧ o.vregs = []) ∧
        (takes = true → ∃ v : VReg, o.vregs = [(f.d.toNat, v)] ∧ ∀ i, i < 512 / fmtBits dst → i < 512 / w →
          vlane (fmtBits dst) v i = (valueOut dst 0 0 (Config.freeOrder (s.free + i)) (patVal fmt (a i))).1 % 2 ^ fmtBits dst)) ∧
    (s.starts c f ⟨⟨.v, .v, .none, im 33 26 + im 21 20, true⟩, false, uses⟩ 0x12 = true →
      let op := immOf f 21 20
      ∃ t o, exec (.vred c f u) s = .next t ∧ Took s t c f o ∧ sameStores s t c ∧ t.mesh = s.mesh ∧ o.engine = 0x12 ∧
        ((isVec fmt = false ∨ op = 3) → o.status = statusWord 0x12 0 ∧ o.vregs = []) ∧
        (isVec fmt = true → op ≠ 3 → ∃ v : VReg, o.vregs = [(f.d.toNat, v)] ∧
          (op = 0 → isFloat fmt = false → v = BitVec.ofNat 512 (satLane w (((List.range (512 / w)).map fun i => signedOf w (a i)).sum))) ∧
          (op ≠ 0 → isFloat fmt = false → (∃ i, i < 512 / w ∧ v = BitVec.ofNat 512 (a i)) ∧
            ∀ i, i < 512 / w → if op = 1 then signedOf w (a i) ≤ signedOf w v.toNat else signedOf w v.toNat ≤ signedOf w (a i))))

/-- The map operations `VDW`, `VARGMAX` and `VMRED` (R270 to R272): sound ones write their output map and nothing else of the cell; unsound ones end with their code and write nothing. -/
def Obligations.MapOperationResult : Prop :=
  ∀ (c : Fin 256) (f : Fields) (u : Upset) (s : State), u.passes = true →
    let x := s.cell c
    let ga := descOf (x.g (r3 f.a))
    let gb := descOf (x.g (r3 f.b))
    let gd := descOf (x.g (r3 f.d))
    let fmt := immOf f 29 26
    let g := immOf f 25 22 + 1
    let op := immOf f 25 24
    (s.starts c f ⟨⟨.g, .g, .g, im 33 15, true⟩, false, []⟩ 0x12 = true →
      let bad := (ga.bad || gb.bad || gd.bad || ga.c % g != 0 || gb.c != g || gb.n != ga.c || gd.c != ga.c || decide (7 < gb.w) || decide (7 < gb.h) ||
        decide ((gd.w : Int) ≠ ga.outW gb) || decide ((gd.h : Int) ≠ ga.outH gb) : Bool)
      let formats := ([0, 2, 6].contains fmt && fmtFits fmt ga && fmtFits fmt gb && fmtFits fmt gd && immOf f 16 15 != 3 && !(immOf f 16 15 == 2 && isFloat fmt) : Bool)
      let codes := (if emptyOut ga gb then [1] else []) ++ (if bad then [4] else []) ++ (if formats then [] else [0x12])
      ∃ t o, exec (.vdw c f u) s = .next t ∧ Took s t c f o ∧ o.engine = 0x12 ∧ t.mesh = s.mesh ∧ (t.cell c).queues = x.queues ∧ (t.cell c).acc = x.acc ∧
        (codes ≠ [] → o.status = statusWord (lowestCode codes) 0 ∧ sameStores s t c) ∧
        (codes = [] →
          let dots := (sitesOf gd.w gd.h).flatMap fun p => (List.range gd.c).map fun co =>
            ({ out := (Int.ofNat p.1, Int.ofNat p.2, co, 0), terms := windowTerms ga gb p.1 p.2 (g * (co / g)) g co } : Dot)
          let l := dots.zipIdx.map fun t => (s.accumulate c fmt fmt ga gb 32 (isFloat fmt) 0 t.2 t.1, t.2)
          let y := (s.writeOutputs c gd fmt (immOf f 21 17) (immOf f 16 15) s.free l).1.cell c
          (t.cell c).thatch = y.thatch ∧ (t.cell c).cwm = y.cwm)) ∧
    (s.starts c f ⟨⟨.g, .g, .none, im 33 26, true⟩, false, []⟩ 0x12 = true →
      let bad := (ga.bad || gd.bad || gd.w != ga.w || gd.h != ga.h || gd.c != 1 : Bool)
      let formats := ([0, 2, 6].contains fmt && fmtFits fmt ga && gd.esize == 3 : Bool)
      let codes := (if bad then [4] else []) ++ (if formats then [] else [0x12])
      ∃ t o, exec (.vargmax c f u) s = .next t ∧ Took s t c f o ∧ o.engine = 0x12 ∧ t.mesh = s.mesh ∧ (t.cell c).queues = x.queues ∧ (t.cell c).acc = x.acc ∧
        (codes ≠ [] → o.status = statusWord (lowestCode codes) 0 ∧ sameStores s t c) ∧
        (codes = [] →
          let y := (s.each (sitesOf ga.w ga.h) fun t p =>
            let l := (List.range ga.c).map fun ch => s.elem c ga p.1 p.2 ch 0
            let i := argMax (l.map fun v => patVal fmt v)
            t.setElem c gd p.1 p.2 0 0 (patternOf 16 (signedOf (fmtBits fmt) (l.getD i 0)) * 65536 + i)).cell c
          (t.cell c).thatch = y.thatch ∧ (t.cell c).cwm = y.cwm)) ∧
    (s.starts c f ⟨⟨.g, .g, .none, im 33 24, true⟩, false, []⟩ 0x12 = true →
      let out := if op = 0 then (if isFloat fmt then 7 else 3) else fmt
      let codes := (if ga.bad || gd.bad || gd.c != ga.c then [4] else []) ++ (if isVec fmt && fmtFits fmt ga && fmtFits out gd && op != 3 then [] else [0x12])
      ∃ t o, exec (.vmred c f u) s = .next t ∧ Took s t c f o ∧ o.engine = 0x12 ∧ t.mesh = s.mesh ∧ (t.cell c).queues = x.queues ∧ (t.cell c).acc = x.acc ∧
        (codes ≠ [] → o.status = statusWord (lowestCode codes) 0 ∧ sameStores s t c) ∧
        (codes = [] → ∃ res : List Nat, res.length = ga.c ∧
          (op = 0 → isFloat fmt = false → ∀ ch, ch < ga.c →
            let l := (sitesOf ga.w ga.h).map fun p => signedOf (fmtBits fmt) (s.elem c ga p.1 p.2 ch 0)
            (l.map Int.natAbs).sum < 2 ^ 31 → signedOf 32 (res.getD ch 0) = l.sum) ∧
          let y := (s.each res.zipIdx fun t r => t.setElem c gd 0 0 r.2 0 r.1).cell c
          (t.cell c).thatch = y.thatch ∧ (t.cell c).cwm = y.cwm))

/-- The neuron engine (R273 to R277): `NINT` adds weights to the inputs its site or synapse list reaches, `NFIRE` fires or keeps each neuron, counts the fired ones and queues their spike items, `NLEAK` scales each potential; a map it does not take ends with code 4 and writes nothing. -/
def Obligations.NeuronResult : Prop :=
  ∀ (c : Fin 256) (f : Fields) (u : Upset) (s : State), u.passes = true →
    let x := s.cell c
    let gd := descOf (x.g (r3 f.d))
    let ga := descOf (x.g (r3 f.a))
    let w := x.s f.b
    (s.starts c f ⟨⟨.g, .g, .s, im 33 25, true⟩, false, [sId f.b]⟩ 0x13 = true →
      let codes := (if neuronBad gd || ga.bad || decide (15 < ga.w) || decide (15 < ga.h) || gd.c != ga.n then [4] else []) ++ (if ga.esize = 1 then [] else [0x12]) ++ (if ga.c ≤ siteC w then [0x11] else [])
      let hits := tapHits gd ga (siteX w) (siteY w)
      ∃ t o, exec (.nintConv c f u) s = .next t ∧ Took s t c f o ∧ o.engine = 0x13 ∧ t.mesh = s.mesh ∧ (t.cell c).queues = x.queues ∧
        (codes ≠ [] → o.status = statusWord (lowestCode codes) 0 ∧ sameStores s t c) ∧
        (codes = [] → o.status.toNat % 65536 = hits.length * gd.c % 65536 ∧
          let y := (s.each hits fun t h => t.each (List.range gd.c) fun t co =>
            t.addInput c gd h.ox h.oy co (signedOf 8 (s.elem c ga h.kx h.ky (siteC w) co) * (2 ^ immOf f 28 25 : Nat))).cell c
          (t.cell c).thatch = y.thatch ∧ (t.cell c).cwm = y.cwm)) ∧
    (s.starts c f ⟨⟨.g, .g, .s, im 33 25, true⟩, false, [sId f.b]⟩ 0x13 = true →
      let bad := neuronBad gd || ga.bad
      let head := s.readNat c ga.mem (ga.base + ga.site * (w.toNat % 2 ^ 18)) 8
      let m : Mem := if bitAt head 20 then .cwm else .thatch
      let syn := (List.range (bitsOf head 45 28)).map fun i => s.readNat c m (bitsOf head 19 0 + 2 * i) 2
      let hits := syn.filter fun y => decide (bitsOf head 63 50 + bitsOf y 15 4 < gd.w * gd.h * gd.c)
      ∃ t o, exec (.nintList c f u) s = .next t ∧ Took s t c f o ∧ o.engine = 0x13 ∧ t.mesh = s.mesh ∧ (t.cell c).queues = x.queues ∧
        (bad = true → o.status = statusWord 4 0 ∧ sameStores s t c) ∧
        (bad = false → o.status.toNat % 65536 = hits.length % 65536 ∧
          let y := (s.each hits fun t y =>
            let n := bitsOf head 63 50 + bitsOf y 15 4
            t.addInput c gd (n / gd.c % gd.w) (n / gd.c / gd.w) (n % gd.c) (signedOf 4 y * (2 ^ bitsOf head 49 46 : Nat))).cell c
          (t.cell c).thatch = y.thatch ∧ (t.cell c).cwm = y.cwm)) ∧
    (s.starts c f ⟨⟨.none, .g, .s, im 33 10, true⟩, bitAt f.b.toNat 0, [sId f.b, sId (f.b + 1)]⟩ 0x13 = true →
      let fires := (recordsOf ga).filter fun p => decide (s.theta c (immOf f 13 10) ≤
        clampInt (-32768) 32767 (recV (s.elem c ga p.1 p.2.1 p.2.2 0) + recI (s.elem c ga p.1 p.2.1 p.2.2 0)))
      ∃ t o, exec (.nfire c f u) s = .next t ∧ Took s t c f o ∧ o.engine = 0x13 ∧ t.mesh = s.mesh ∧
        (neuronBad ga = true → o.status = statusWord 4 0 ∧ sameStores s t c) ∧
        (neuronBad ga = false → o.status.toNat % 65536 = fires.length % 65536 ∧ o.queue = some (queueNo (immOf f 29 22)) ∧
          (noneHeld x → ∀ q, q ≠ queueNo (immOf f 29 22) → t.queue c q = s.queue c q) ∧
          let y := (s.each (recordsOf ga) fun t p =>
            let r := s.elem c ga p.1 p.2.1 p.2.2 0
            t.setElem c ga p.1 p.2.1 p.2.2 0 (recOf (if p ∈ fires then s.resetTo c (immOf f 13 10) else clampInt (-32768) 32767 (recV r + recI r)) 0)).cell c
          (t.cell c).thatch = y.thatch ∧ (t.cell c).cwm = y.cwm)) ∧
    (s.starts c f ⟨⟨.none, .g, .s, im 33 30, true⟩, false, [sId f.b]⟩ 0x13 = true →
      ∃ t o, exec (.nleak c f u) s = .next t ∧ Took s t c f o ∧ o.engine = 0x13 ∧ t.mesh = s.mesh ∧ (t.cell c).queues = x.queues ∧
        (neuronBad ga = true → o.status = statusWord 4 0 ∧ sameStores s t c) ∧
        (neuronBad ga = false → o.status.toNat % 65536 = (recordsOf ga).length % 65536 ∧
          let y := (s.each (recordsOf ga) fun t p =>
            let r := s.elem c ga p.1 p.2.1 p.2.2 0
            t.setElem c ga p.1 p.2.1 p.2.2 0 (recOf ((recV r * ((w.toNat % 65536 : Nat) : Int) + 32768) / 65536) (recI r))).cell c
          (t.cell c).thatch = y.thatch ∧ (t.cell c).cwm = y.cwm))

/-- The skip predictor (R278 to R280, R299): `PSKIP` answers the site's sums where they must be exact and zeros where they may be skipped, keeps what it has not sent, and writes its decision to the predicate; `PFLUSH` queues every pending delta of a map and clears it. -/
def Obligations.SkipResult : Prop :=
  ∀ (c : Fin 256) (f : Fields) (u : Upset) (s : State), u.passes = true →
    let x := s.cell c
    let d := descOf (x.g (r3 f.a))
    let site := BitVec.ofNat 5 (immOf f 29 25)
    let w := x.s site
    let m := spanRegs d.c
    let fits := decide (256 < d.c) || (decide (f.b.toNat + m ≤ 16) && decide (f.d.toNat + m ≤ 16))
    (s.starts c f ⟨⟨.v, .g, .v, im 33 18 + im 15 0, fits⟩, false, [sId site, pId (immOf f 24 22)] ++ spanIds f.b (min m 4) ++ spanIds f.d (min m 4)⟩ 0x15 = true →
      let bad := (d.bad || d.esize != 1 || decide (256 < d.c) || f.b.toNat % m != 0 || f.d.toNat % m != 0 : Bool)
      let codes := (if bad then [4] else []) ++ (if d.inside (siteX w) (siteY w) then [] else [0x11])
      let sums := (List.range d.c).map fun ch => signedOf 8 (s.elem c d (siteX w) (siteY w) ch 0) + x.deltaIn f.b ch
      let exact := skipExact (bitAt f.imm.toNat 18) (immOf f 21 19) (s.clutch (clutchOf c)).gov (immOf f 15 0) sums
      ∃ t o, exec (.pskip c f u) s = .next t ∧ Took s t c f o ∧ o.engine = 0x15 ∧ t.mesh = s.mesh ∧ (t.cell c).queues = x.queues ∧
        (codes ≠ [] → o.status = statusWord (lowestCode codes) 0 ∧ sameStores s t c ∧ o.pregs = []) ∧
        (codes = [] → o.pregs = [(immOf f 24 22, exact)] ∧ o.status.toNat % 65536 = (if exact then 1 else 0) ∧
          o.vregs.map (fun r => r.1) = (List.range m).map (fun i => f.d.toNat + i) ∧
          (exact = false → ∀ r ∈ o.vregs, r.2 = 0) ∧
          let out := sums.map fun v => if exact then clampInt (-128) 127 v else 0
          let y := (s.each (sums.zip out).zipIdx fun t r => t.setElem c d (siteX w) (siteY w) r.2 0 (patternOf 8 (r.1.1 - r.1.2))).cell c
          (t.cell c).thatch = y.thatch ∧ (t.cell c).cwm = y.cwm)) ∧
    (s.starts c f ⟨⟨.none, .g, .none, im 33 14, true⟩, false, []⟩ 0x15 = true →
      let bad := d.bad || d.esize != 1
      let items := (sitesOf d.w d.h).flatMap fun p => deltaItems (immOf f 21 14) p.1 p.2 ((List.range d.c).map fun ch => signedOf 8 (s.elem c d p.1 p.2 ch 0))
      ∃ t o, exec (.pflush c f u) s = .next t ∧ Took s t c f o ∧ o.engine = 0x15 ∧ t.mesh = s.mesh ∧
        (bad = true → o.status = statusWord 4 0 ∧ sameStores s t c) ∧
        (bad = false → o.status.toNat % 65536 = items.length % 65536 ∧ o.queue = some (queueNo (immOf f 29 22)) ∧
          (noneHeld x → ∀ q, q ≠ queueNo (immOf f 29 22) → t.queue c q = s.queue c q) ∧
          let y := (s.each (recordsOf d) fun t p => t.setElem c d p.1 p.2.1 p.2.2 0 0).cell c
          (t.cell c).thatch = y.thatch ∧ (t.cell c).cwm = y.cwm))

/-- `ECHK` reads the quanta left into sd; `EADMIT` reserves what sa asks where that much is left, reports it in its predicate, puts what is then left into sd, and counts a refusal (R281, R282, R488). -/
def Obligations.LedgerResult : Prop :=
  ∀ (c : Fin 256) (f : Fields) (s : State),
    let x := s.cell c
    let left := min 0xFFFFFFFF (s.allowOf c - x.spent - x.reserved)
    let p := BitVec.ofNat 3 (immOf f 2 0)
    let want := (x.s f.a).toNat
    (s.issues c f ⟨⟨.s, .none, .none, 0, true⟩, false, [sId f.d]⟩ = true →
      ∃ t, exec (.echk c f) s = .next t ∧ t.noLedger = (s.did c fun y => (y.setS f.d (BitVec.ofNat 32 left)).advance).noLedger) ∧
    (s.issues c f ⟨⟨.s, .s, .none, im 2 0, true⟩, false, [sId f.d, sId f.a, pId p.toNat]⟩ = true →
      (want ≤ left → ∃ t, exec (.eadmit c f) s = .next t ∧
        (t.cell c).reserved = x.reserved + want - ((t.cell c).spent - x.spent) ∧
        t.noLedger = (s.did c fun y => ((y.setS f.d (BitVec.ofNat 32 (min 0xFFFFFFFF (s.allowOf c - x.spent - (x.reserved + want))))).setP p true).advance).noLedger) ∧
      (left < want → ∃ t, exec (.eadmit c f) s = .next t ∧
        t.noLedger = ((s.bump 0xA0208).did c fun y => ((y.setS f.d (BitVec.ofNat 32 left)).setP p false).advance).noLedger))

/-! ## Sensor links and the decoder (03) -/

/-- A packet of an enabled, receiving port while the device is not entering a sleep state. -/
def hears (s : State) (p : Fin 16) : Prop := s.portOn p = true ∧ (s.port p).rx = true ∧ s.pwr.point = 0

/-- A command counts once in a counter. -/
def counted (s t : State) (key : Nat) : Prop := t.ctr key = BitVec.ofNat 32 (min 0xFFFFFFFF ((s.ctr key).toNat + 1))

/-- Packets of a receiving port with a sound header (R69 to R76, R90, R124): an event payload, cut at 16,384 bytes and to whole words, joins the FIFO as one item of little-endian words, or is counted where it does not fit; a status block goes into its registers with its length; a failed CRC, another data type or virtual channel, and a short packet of a type from 4 up are counted and change nothing else. -/
def packetRule : Prop :=
  ∀ (p : Fin 16) (vc : BitVec 2) (dt : BitVec 6) (payload : List Byte) (s : State), hears s p → s.bit (inkP p 0x008) vc.toNat = true →
    (let ws := wordsOf (payload.take 16384)
      let long := decide (16384 < payload.length)
      let odd := !long && decide (payload.length % 4 ≠ 0)
      ∃ t, exec (.csi2LongPacket p vc false 0x30 .ok true payload) s = .next t ∧
      (fifoDepth (s.port p).fifo + ws.length ≤ 32768 → (t.port p).fifo = (if ws = [] then (s.port p).fifo else (s.port p).fifo ++ [ws]) ∧
        t.ctr (inkP p 0x264) = s.ctr (inkP p 0x264) ∧ t.ctr (inkP p 0x300) = s.ctr (inkP p 0x300)) ∧
      (32768 < fifoDepth (s.port p).fifo + ws.length → (t.port p).fifo = (s.port p).fifo ∧ counted s t (inkP p 0x264) ∧
        t.ctr (inkP p 0x300) = (s.bump (inkP p 0x300) ws.length).ctr (inkP p 0x300)) ∧
      t.ctr (inkP p 0x050) = (s.bump (inkP p 0x050) (bitOf long)).ctr (inkP p 0x050) ∧
      t.ctr (inkP p 0x054) = (s.bump (inkP p 0x054) (bitOf odd)).ctr (inkP p 0x054) ∧
      t.regs = s.regs ∧ t.cells = s.cells ∧ ∀ n, n ≠ p → t.port n = s.port n) ∧
    (∃ t, exec (.csi2LongPacket p vc false 0x30 .ok false payload) s = .next t ∧ counted s t (inkP p 0x04C) ∧ (t.port p).fifo = (s.port p).fifo ∧ t.regs = s.regs) ∧
    (∀ i ∈ [Instr.csi2LongPacket p vc false 0x31 .ok true payload, .statusBlockPacket p vc false .ok true payload], ∃ t, exec i s = .next t ∧
      (∀ n, n < 16 → t.reg (inkP p (0x100 + 4 * n)) = blockWord payload n) ∧ t.reg (inkP p 0x0C4) = BitVec.ofNat 32 (min 65535 payload.length) ∧
      t.cnt = s.cnt ∧ t.ports = s.ports ∧ t.cells = s.cells) ∧
    (∀ i ∈ [Instr.csi2LongPacket p vc false 0x31 .ok false payload, .statusBlockPacket p vc false .ok false payload],
      exec i s = .next (s.bump (inkP p 0x04C))) ∧
    (dt ≠ 0x30 → dt ≠ 0x31 → ∀ crc, exec (.csi2LongPacket p vc false dt .ok crc payload) s = .next (s.bump (inkP p 0x058))) ∧
    (dt.toNat < 4 → exec (.csi2ShortPacket p dt .ok) s = .next s) ∧
    (4 ≤ dt.toNat → exec (.csi2ShortPacket p dt .ok) s = .next (s.bump (inkP p 0x058)))

/-- A burst begins reception and LOCK of an enabled port, loss of lane synchronisation ends LOCK (R95); an uncorrectable header is counted and ends reception up to the end of the burst, a corrected one is counted and its packet taken (R70, R71); a long packet of a virtual channel that is not enabled or whose VCX bits are not zero is counted (R69); a port that does not receive ignores every packet. -/
def burstRule : Prop :=
  ∀ (p : Fin 16) (s : State),
    (s.portOn p = true → ∃ t, exec (.startOfTransmission p) s = .next t ∧ t.port p = { s.port p with rx := true, lock := true } ∧
      (∀ n, n ≠ p → t.port n = s.port n) ∧ t.cnt = s.cnt ∧ t.regs = s.regs) ∧
    (s.portOn p = false → exec (.startOfTransmission p) s = .next s) ∧
    (∃ t, exec (.laneSyncLoss p) s = .next t ∧ t.port p = { s.port p with lock := false } ∧
      (∀ n, n ≠ p → t.port n = s.port n) ∧ t.cnt = s.cnt ∧ t.regs = s.regs) ∧
    ∀ vc vcx dt crc payload,
      let packets (h : HeaderCond) : List Instr := [.csi2LongPacket p vc vcx dt h crc payload, .csi2ShortPacket p dt h, .statusBlockPacket p vc vcx h crc payload]
      (hears s p → (∀ i ∈ packets .bad, ∃ t, exec i s = .next t ∧ counted s t (inkP p 0x048) ∧ (t.port p).rx = false ∧ (t.port p).fifo = (s.port p).fifo) ∧
        (∀ n, n < 3 → ∀ i ∈ (packets .corrected)[n]?, ∀ j ∈ (packets .ok)[n]?, exec i s = exec j (s.bump (inkP p 0x044))) ∧
        ((s.bit (inkP p 0x008) vc.toNat = false ∨ vcx = true) → ∀ i ∈ [Instr.csi2LongPacket p vc vcx dt .ok crc payload, .statusBlockPacket p vc vcx .ok crc payload],
          exec i s = .next (s.bump (inkP p 0x058)))) ∧
      (¬hears s p → ∀ h, ∀ i ∈ packets h, exec i s = .next s)

/-- Packets, bursts and lost lane synchronisation. -/
def Obligations.PacketResult : Prop := packetRule ∧ burstRule


/-- The decoder of port p may read, and a word w of this type stands at the head of its FIFO. -/
def atHead (s : State) (p : Fin 16) (w : Word) (types : Nat → Bool) : Prop :=
  s.decodes p = true ∧ (s.headItem p).head? = some w ∧ types (typeOf w) = true

/-- The words of a port's FIFO after n words of its head item have been read. -/
def readOff (s t : State) (p : Fin 16) (n : Nat) : Prop :=
  (t.port p).fifo = dropWords (s.port p).fifo n ∧ (t.port p).rd = (s.port p).rd + n

/-- Both filters of a port are off. -/
def unfiltered (s : State) (p : Fin 16) : Prop := s.bit (inkP p 0x200) 16 = false ∧ s.fld (inkP p 0x200) 9 0 = 0

/-- What the gate does with the event of a stamp: let it through, LATE or not, hold it, or drop it while steps are stopped (R43, R44, R54). -/
inductive GateCase where
  | through (late : Bool)
  | hold
  | drop
  deriving DecidableEq, Repr

/-- The gate's decision on a step index. -/
def gateOf (s : State) (k : Nat) : GateCase :=
  if s.step.running = true then
    if s.step.k + (if s.step.due && !s.step.intakeStopped then 1 else 0) < k then .hold else .through (decide (k < s.step.k))
  else if s.bit 0x204 0 = true then .hold else .drop

/-- `EV_WORD` and `VEC_WORD` of a port with a time base (R79, R84 to R88): the words are read, a stamp that is not earlier becomes the port's horizon, an earlier one is counted; a pixel outside the sensor is counted, an event that the gate lets through waits for the lanes, a late one marked and counted, one of a later step is held, one met while steps are stopped is dropped; a vector without its mask is counted. Without a time base the word is counted and dropped (R83). -/
def eventWordRule : Prop :=
  ∀ (p : Fin 16) (s : State) (w : Word),
    let stamp := s.stampOf p w
    let x := bitsOf w.toNat 21 11
    let y := bitsOf w.toNat 10 0
    let gate := gateOf s (stamp / s.period)
    let inside (n : Nat) : Prop := x + n ≤ s.fld (inkP p 0x00C) 10 0 ∧ y ≤ s.fld (inkP p 0x00C) 26 16
    (atHead s p w (fun t => decide (t < 2)) → (s.port p).notb = false → ∃ t, exec (.evWord p .none) s = .next t ∧ readOff s t p 1 ∧
      (∀ h, (s.port p).horizon = some h → stamp < h → (t.port p).horizon = some h ∧ counted s t (inkP p 0xF08)) ∧
      ((∀ h, (s.port p).horizon = some h → h ≤ stamp) → (t.port p).horizon = some stamp) ∧
      (¬inside 0 → counted s t (inkP p 0x068) ∧ (t.port p).ready = (s.port p).ready ∧ (t.port p).held = (s.port p).held) ∧
      (inside 0 → unfiltered s p → ∀ late, gate = .through late →
        (t.port p).ready = (s.port p).ready ++ [.event ⟨x, y, typeOf w == 1, stamp, late⟩] ∧ counted s t (inkP p 0x040) ∧
        t.ctr (inkP p 0xF04) = (s.bump (inkP p 0xF04) (bitOf late)).ctr (inkP p 0xF04)) ∧
      (inside 0 → gate = .hold → (t.port p).held = [⟨x, y, typeOf w == 1, stamp, false⟩] ∧ (t.port p).ready = (s.port p).ready) ∧
      (inside 0 → gate = .drop → (t.port p).held = [] ∧ (t.port p).ready = (s.port p).ready) ∧
      t.cells = s.cells ∧ t.mesh = s.mesh) ∧
    (atHead s p w (fun t => t == 2 || t == 3) → (s.port p).notb = false → ∀ m, (s.headItem p)[1]? = some m → typeOf m = 8 → ∃ t, exec (.vecWord p .none) s = .next t ∧
      readOff s t p 2 ∧
      (unfiltered s p → ∀ late, gate = .through late → (t.port p).ready = (s.port p).ready ++ ((List.range 28).filter fun i =>
        bitAt m.toNat i && decide (x + i ≤ s.fld (inkP p 0x00C) 10 0) && decide (y ≤ s.fld (inkP p 0x00C) 26 16)).map fun i => .event ⟨x + i, y, typeOf w == 3, stamp, late⟩) ∧
      (gate ≠ .through true → gate ≠ .through false → (t.port p).ready = (s.port p).ready) ∧
      t.cells = s.cells ∧ t.mesh = s.mesh) ∧
    (atHead s p w (fun t => t == 2 || t == 3) → (s.port p).notb = false → (∀ m, (s.headItem p)[1]? = some m → typeOf m ≠ 8) → ∃ t, exec (.vecWord p .none) s = .next t ∧
      readOff s t p 1 ∧ counted s t (inkP p 0x060) ∧ (t.port p).ready = (s.port p).ready) ∧
    ((s.port p).notb = true →
      (atHead s p w (fun t => decide (t < 2)) → ∃ t, exec (.evWord p .none) s = .next t ∧ readOff s t p 1 ∧ counted s t (inkP p 0x064) ∧ (t.port p).ready = (s.port p).ready) ∧
      (atHead s p w (fun t => t == 2 || t == 3) → ∃ t, exec (.vecWord p .none) s = .next t ∧ readOff s t p 1 ∧ counted s t (inkP p 0x064) ∧ (t.port p).ready = (s.port p).ready))

/-- The other words (R77, R78, R80, R81, R83, R86, R89, R91): TB_LO sets the time base, the first one too, and meets the horizon, TB_HI is kept for the next TB_LO, STATUS goes into its register, an enabled TRIGGER is kept with its stamp and channel, a MASK on its own and a reserved word are counted, PAD only leaves the FIFO. Without a time base a STATUS, TRIGGER or MASK word is counted as such and dropped. -/
def controlWordRule : Prop :=
  ∀ (p : Fin 16) (s : State) (w : Word),
    (atHead s p w (fun t => t == 4) →
      let hi := (s.port p).staged.getD (s.port p).baseHi
      let time := hi.toNat * 2 ^ 34 + w.toNat % 2 ^ 28 * 64
      ∃ t, exec (.tbLo p .none) s = .next t ∧ readOff s t p 1 ∧ (t.port p).baseHi = hi ∧ (t.port p).baseLo = w.setWidth 28 ∧
        (t.port p).staged = none ∧ (t.port p).notb = false ∧ (t.port p).prevTb = some time ∧
        ((∀ h, (s.port p).horizon = some h → h ≤ time) → (t.port p).horizon = some time) ∧
        (∀ h, (s.port p).horizon = some h → time < h → (t.port p).horizon = some h ∧ counted s t (inkP p 0xF08)) ∧
        (∀ old, (s.port p).prevTb = some old → old + 64 < time → counted s t (inkP p 0xF0C)) ∧ t.cells = s.cells) ∧
    (atHead s p w (fun t => t == 5) → ∃ t, exec (.tbHi p .none) s = .next t ∧ readOff s t p 1 ∧ (t.port p).staged = some (w.setWidth 28) ∧
      (t.port p).baseHi = (s.port p).baseHi ∧ (t.port p).horizon = (s.port p).horizon ∧ t.cells = s.cells ∧ t.mesh = s.mesh ∧
      ((s.port p).mode ≠ .silent → t.cnt = s.cnt ∧ t.regs = s.regs)) ∧
    (atHead s p w (fun t => t == 7) → (s.port p).notb = false → ∃ t, exec (.statusWord p .none) s = .next t ∧ readOff s t p 1 ∧ t.reg (inkP p 0x0C0) = w ∧
      (3 ≤ bitsOf w.toNat 21 18 → bitsOf w.toNat 21 18 < 8 → counted s t (inkP p 0x05C)) ∧
      (bitsOf w.toNat 21 18 = 1 → t.ctr (inkP p 0x06C) = (s.bump (inkP p 0x06C) (bitsOf w.toNat 17 0)).ctr (inkP p 0x06C))) ∧
    (atHead s p w (fun t => t == 9) → (s.port p).notb = false → ∃ t, exec (.triggerWord p .none) s = .next t ∧ readOff s t p 1 ∧ counted s t (inkP p 0x070) ∧
      (s.bit (inkP p 0x010) 0 = true → (t.port p).trig = some (s.stampOf p w, bitsOf w.toNat 21 18) ∧
        (bitAt (s.calWord p 2) 16 = false → t.mesh = s.mesh ∧ (t.port p).ready = (s.port p).ready ∧ (t.port p).lanes = (s.port p).lanes) ∧
        (bitAt (s.calWord p 2) 16 = true → (s.port p).lanes ≠ [] →
          t.mesh = s.mesh ∧ (t.port p).ready = (s.port p).ready ++ [.trigger (s.stampOf p w) (bitsOf w.toNat 21 18)] ∧ (t.port p).lanes = (s.port p).lanes) ∧
        (bitAt (s.calWord p 2) 16 = true → (s.port p).lanes = [] →
          let o := s.triggerItem p (s.stampOf p w) (bitsOf w.toNat 21 18)
          (t.port p).ready = (s.port p).ready ∧ (s.canPush p [o] = false → (t.port p).lanes = [[o]] ∧ t.mesh = s.mesh) ∧
          (s.canPush p [o] = true → (t.port p).lanes = [] ∧ t.mesh = s.mesh ++ (if s.hasRoute o.cell = true then
            meshItems (.port p) o.queue none none true (s.targets true o.cell o.queue [o.w0, o.w1]) else [])))) ∧
      (s.bit (inkP p 0x010) 0 = false → (t.port p).trig = (s.port p).trig ∧ t.mesh = s.mesh)) ∧
    (atHead s p w (fun t => t == 8) → (s.port p).notb = false → ∃ t, exec (.maskWord p .none) s = .next t ∧ readOff s t p 1 ∧ counted s t (inkP p 0x060)) ∧
    (atHead s p w (fun t => t == 6 || (decide (10 ≤ t) && t != 14)) → ∃ t, exec (.reservedWord p .none) s = .next t ∧ readOff s t p 1 ∧ counted s t (inkP p 0x05C)) ∧
    (atHead s p w (fun t => t == 14) → ∃ t, exec (.padWord p .none) s = .next t ∧ readOff s t p 1 ∧ t.cells = s.cells ∧ t.mesh = s.mesh ∧
      (t.port p).horizon = (s.port p).horizon ∧ ((s.port p).mode ≠ .silent → t.cnt = s.cnt ∧ t.regs = s.regs)) ∧
    ((s.port p).notb = true → ∀ r ∈ [(Instr.statusWord p .none, fun t => t == 7), (.triggerWord p .none, fun t => t == 9), (.maskWord p .none, fun t => t == 8)],
      atHead s p w r.2 → ∃ t, exec r.1 s = .next t ∧ readOff s t p 1 ∧ counted s t (inkP p 0x064) ∧ t.regs = s.regs ∧ t.mesh = s.mesh ∧ (t.port p).trig = (s.port p).trig)

/-- Every word type of a link. -/
def Obligations.DecoderResult : Prop := eventWordRule ∧ controlWordRule


/-- The nine words of a link: the instruction, the types it takes, and whether it needs a time base. -/
def linkWords (p : Fin 16) : List ((WordFault → Instr) × (Nat → Bool) × Bool) :=
  [(Instr.evWord p, fun t => decide (t < 2), true), (.vecWord p, fun t => t == 2 || t == 3, true), (.maskWord p, fun t => t == 8, true),
   (.tbLo p, fun t => t == 4, false), (.tbHi p, fun t => t == 5, false), (.statusWord p, fun t => t == 7, true),
   (.triggerWord p, fun t => t == 9, true), (.padWord p, fun t => t == 14, false), (.reservedWord p, fun t => t == 6 || (decide (10 ≤ t) && t != 14), false)]

/-- What a FIFO word meets: read well, every word leaves the FIFO, a VEC word with its MASK (R77, R85), and the cells, the clutches and the other ports' FIFOs are as before; bad parity discards the whole item and counts it once (R99); a disagreement of the two copies disables the port and latches fault 0x20 with the stage (R98). -/
def Obligations.WordUpsetResult : Prop :=
  ∀ (p : Fin 16) (s : State) (w : Word) (rest : List Word) (items : List (List Word)), s.decodes p = true → (s.port p).fifo = (w :: rest) :: items →
    ∀ r ∈ linkWords p, r.2.1 (typeOf w) = true →
      (∃ t, exec (r.1 .none) s = .next t ∧ readOff s t p (if (typeOf w = 2 ∨ typeOf w = 3) ∧ (s.port p).notb = false ∧ rest.head?.any (fun m => typeOf m == 8) = true then 2 else 1) ∧
        (∀ n, n ≠ p → (t.port n).fifo = (s.port n).fifo) ∧ t.cells = s.cells ∧ t.clutches = s.clutches) ∧
      (∃ t, exec (r.1 .parity) s = .next t ∧ (t.port p).fifo = items ∧ counted s t (inkP p 0x25C) ∧ (t.port p).ready = (s.port p).ready ∧
        (t.port p).horizon = (s.port p).horizon) ∧
      ∀ i : Fin 3, ∃ t, exec (r.1 (.mismatch i)) s = .next t ∧ t.portOn p = false ∧ (t.port p).fifo = [] ∧ (t.port p).cmp = true ∧ counted s t (inkP p 0x260) ∧
        t.saf.latched.getLsbD 0 = true

/-! ## The intake pipeline (04) -/

/-- What stage 4 to 6 make of what is ready at a port: the items of a mapped event, the one of a trigger, nothing of a discarded event. -/
def laneItems (s : State) (p : Fin 16) (r : Ready) : List (List OutItem) :=
  match r with
  | .trigger stamp chan => [[s.triggerItem p stamp chan]]
  | .event e => match s.rectify p e.x e.y with
    | none => []
    | some (u, v) => match rmapOwner (s.port p).active.rmap (u / 256) (v / 256) with
      | none => []
      | some owner => [s.eventItems p e owner u v]

/-- Lane arbitration serves at most eight ports, in round-robin order after the one served last: each gives up what was ready first, mapped into its lanes; the other ports are as before; a cycle with eight is counted (R104, R112, R118, R126). Copies that disagree about a lane disable the ports they name and latch fault 0x20 (R98). While the clock stands still nothing happens. -/
def laneArbitrationRule : Prop :=
  ∀ s : State,
    (s.clocked = true → ∃ t, exec (.laneArbitration []) s = .next t ∧ s.served.length ≤ 8 ∧
      (∀ p ∈ s.served, ∀ r rest, (s.port p).ready = r :: rest → (t.port p).ready = rest ∧ (t.port p).lanes = (s.port p).lanes ++ laneItems s p r) ∧
      (∀ p, p ∉ s.served → t.port p = s.port p) ∧ (∀ p, s.served.getLast? = some p → t.lastPort = p) ∧
      t.ctr 0x20144 = (s.bump 0x20144 (if s.served.length = 8 then 1 else 0)).ctr 0x20144 ∧
      t.mesh = s.mesh ∧ t.cells = s.cells ∧ t.regs = s.regs) ∧
    (s.clocked = true → ∀ (p : Fin 16) (i : Fin 3), ∃ t, exec (.laneArbitration [(p, i)]) s = .next t ∧ t.portOn p = false ∧ (t.port p).cmp = true ∧
      counted s t (inkP p 0x260) ∧ t.saf.latched.getLsbD 0 = true ∧ t.cells = s.cells) ∧
    (s.clocked = false → ∀ bad, exec (.laneArbitration bad) s = .next s)

/-- Stage 7 pushes all items of an event at once where every destination has room in its credits and no back-pressure: routed ones into the mesh in order, routeless ones counted; else the event waits (R115, R119, R575). Copies that disagree disable the port and latch fault 0x20 (R98). While the clock stands still, or with nothing in the port's lanes, nothing happens. -/
def pushEventRule : Prop :=
  (∀ (p : Fin 16) (s : State), (s.clocked = false → ∀ bad, exec (.intakePush p bad) s = .next s) ∧ ((s.port p).lanes = [] → exec (.intakePush p []) s = .next s)) ∧
  ∀ (p : Fin 16) (s : State) (l : List OutItem) (rest : List (List OutItem)), (s.port p).lanes = l :: rest → s.clocked = true →
    (s.canPush p l = true → ∃ t, exec (.intakePush p []) s = .next t ∧ (t.port p).lanes = rest ∧
      t.mesh = s.mesh ++ (l.filter fun o => s.hasRoute o.cell).flatMap (fun o =>
        meshItems (.port p) o.queue none none true (s.targets true o.cell o.queue [o.w0, o.w1])) ∧
      t.ctr (inkP p 0x254) = (s.bump (inkP p 0x254) (l.filter fun o => !s.hasRoute o.cell).length).ctr (inkP p 0x254) ∧
      t.ctr 0x20140 = (s.bump 0x20140 (l.filter fun o => s.hasRoute o.cell).length).ctr 0x20140 ∧
      (∀ n, n ≠ p → t.port n = s.port n) ∧ t.cells = s.cells ∧ t.regs = s.regs) ∧
    (s.canPush p l = false → exec (.intakePush p []) s = .next s) ∧
    ∃ t, exec (.intakePush p [p]) s = .next t ∧ t.portOn p = false ∧ (t.port p).cmp = true ∧ counted s t (inkP p 0x260) ∧ t.saf.latched.getLsbD 0 = true

/-- A port that stays silent too long, or comes back and stops again, is SILENT and counted (R33); while the Intake is stopped for a power entry, or the clock stands still, it is not (R64). Its place in the reference horizon ends, so that the coherence check may judge the other ports (R38). -/
def silenceRule : Prop :=
  ∀ (p : Fin 16) (s : State),
    (s.step.intakeStopped = false → s.clocked = true → ((s.port p).mode = .active ∨ (s.port p).mode = .returning) →
      ∃ t, exec (.portSilenceExpiry p) s = .next t ∧ (t.port p).mode = .silent ∧ counted s t (inkP p 0xF10) ∧
        (∀ n, (t.port n).fifo = (s.port n).fifo ∧ (t.port n).horizon = (s.port n).horizon ∧ (t.port n).ready = (s.port n).ready ∧
          (t.port n).lanes = (s.port n).lanes ∧ (t.port n).held = (s.port n).held) ∧
        (∀ n, t.portOn n = s.portOn n) ∧ t.cells = s.cells ∧ t.mesh = s.mesh ∧ t.step = { s.step with refHz := t.step.refHz }) ∧
    ((s.step.intakeStopped = true ∨ s.clocked = false ∨ (s.port p).mode = .silent ∨ (s.port p).mode = .disabled) → exec (.portSilenceExpiry p) s = .next s)

/-- Lane arbitration, the push of an event's items, a port's silence. -/
def Obligations.IntakeResult : Prop := laneArbitrationRule ∧ pushEventRule ∧ silenceRule


/-! ## Steps and ridges (02) -/

/-- What `FIRST_STEP_OPEN` waits for: RUN at 1, no step open, a device horizon h, and the device neither entering a sleep state, asleep nor halted (R42). -/
def mayOpen (s : State) (h : Nat) : Prop :=
  s.horizon = some h ∧ s.bit 0x204 0 = true ∧ s.step.running = false ∧ s.step.intakeStopped = false ∧ s.clocked = true ∧ s.sec.halted = false

/-- With RUN at 1, no step open and a device horizon h, step h / P opens (R42): it is not due, and a running cell without a cell step takes it; a cell that meets an uncorrectable word in the clear pass that may come with it fails (R163, R184), the others run on. -/
def firstStepRule : Prop :=
  (∀ (s : State) (h : Nat) (ups : CellUpsets), mayOpen s h → ∃ t, exec (.firstStepOpen ups) s = .next t ∧ t.step.running = true ∧
    t.step.k = h / s.period ∧ t.step.due = false ∧ (s.slots.swapped = false → t.reg 0x204 = s.reg 0x204 ∧ t.reg 0x200 = s.reg 0x200) ∧
    ((∀ r ∈ ups, r.2.passes = true) →
      (∀ c, (t.cell c).step = if (s.cell c).mode = .running then some ((s.cell c).step.getD (h / s.period)) else (s.cell c).step) ∧
      (∀ c, (t.cell c).mode = (s.cell c).mode ∧ (t.cell c).sreg = (s.cell c).sreg) ∧ (s.slots.swapped = false → t.regs = s.regs))) ∧
  ∀ (s : State) (ups : CellUpsets), (∀ h, ¬mayOpen s h) → exec (.firstStepOpen ups) s = .next s

/-- The ridge of the open step becomes due once the device horizon has reached its end and the Intake has pushed every event of it (R45): every queue marks its depth (R217), and until then nothing happens. -/
def ridgeDueRule : Prop :=
  (∀ (s : State) (h : Nat), s.horizon = some h → s.step.running = true → s.step.due = false → s.step.intakeStopped = false → s.clocked = true → s.fatal = false →
    ((s.step.k + 1) * s.period ≤ h → s.intakePushed s.step.k = true → ∃ t, exec .ridgeDue s = .next t ∧ t.step.due = true ∧ t.step.k = s.step.k ∧
      t.step.running = true ∧ (∀ c q, (t.queue c q).mark = some (s.queue c q).words.length ∧ (t.queue c q).words = (s.queue c q).words) ∧
      (∀ c, (t.cell c).sreg = (s.cell c).sreg ∧ (t.cell c).step = (s.cell c).step) ∧ t.regs = s.regs) ∧
    ((h < (s.step.k + 1) * s.period ∨ s.intakePushed s.step.k = false) → exec .ridgeDue s = .next s)) ∧
  ∀ s : State, (s.horizon = none ∨ s.step.running = false ∨ s.step.due = true ∨ s.step.intakeStopped = true ∨ s.clocked = false ∨ s.fatal = true) →
    exec .ridgeDue s = .next s

/-- The first step opens; a ridge becomes due. -/
def Obligations.StepOpenResult : Prop := firstStepRule ∧ ridgeDueRule


/-- A due ridge closes when every participating cell stands at its `RIDGE` and the delivery rule is met (R49): the step index moves on, or the steps stop at the last ridge; the counters of the closed step stand in their `LAST_` copies (R59), but for those that the close itself moves; `DEV_LAST_STEP` names it, a heartbeat is owed (R62); otherwise nothing happens. -/
def Obligations.RidgeCloseResult : Prop :=
  (∀ (s : State) (d : RidgeInputs), s.step.running = true → s.step.due = true → s.clocked = true → s.fatal = false →
    (s.cellsLeft = [] → s.delivHeld = false → ∃ t, exec (.ridgeClose d) s = .next t ∧ t.step.due = false ∧ t.step.k = s.step.k + 1 ∧
      t.step.lastStep = BitVec.ofNat 32 s.step.k ∧ t.step.hbPend = s.step.hbPend + 1 ∧ t.step.ridges = s.step.ridges + 1 ∧
      t.step.closed = some (s.step.k, s.endOf s.step.k) ∧ t.step.running = !s.lastRidge ∧
      ∀ key, (key < 0xA0000 ∨ 0xB0000 ≤ key) → assocGet t.lat 0 key = s.ctr key) ∧
    ((s.cellsLeft ≠ [] ∨ s.delivHeld = true) → exec (.ridgeClose d) s = .next s)) ∧
  ∀ (s : State) (d : RidgeInputs), (s.step.running = false ∨ s.step.due = false ∨ s.clocked = false ∨ s.fatal = true) → exec (.ridgeClose d) s = .next s

/-- `HBEAT` toggles once for each close, in order (R62), and not at all in the halt of R523. -/
def heartbeatRule : Prop :=
  ∀ s : State, (0 < s.step.hbPend → s.sec.halted = false → ∃ t, exec .hbeatToggle s = .next t ∧ t.step.hbeat = !s.step.hbeat ∧ t.step.hbPend = s.step.hbPend - 1 ∧
      t.step.k = s.step.k ∧ t.step.due = s.step.due ∧ t.cells = s.cells ∧ t.pins = s.pins ∧ t.regs = s.regs ∧ t.cnt = s.cnt) ∧
    ((s.step.hbPend = 0 ∨ s.sec.halted = true) → exec .hbeatToggle s = .next s)

/-- The ridge watchdog (R50, R51): every cell not at its `RIDGE` fails, each counted; with every cell there, a back-pressure region that still holds spike items raises fault 0x23, which stays present. -/
def watchdogRule : Prop :=
  (∀ s : State, s.step.running = true → s.step.due = true → s.clocked = true → s.fatal = false → s.step.intakeStopped = false →
    (s.cellsLeft ≠ [] → ∃ t, exec .ridgeWatchdogExpiry s = .next t ∧ t.ctr 0x22C = (s.bump 0x22C s.cellsLeft.length).ctr 0x22C ∧ t.step = s.step ∧
      ∀ c ∈ s.cellsLeft, (s.cell c).removed = false → (t.cell c).mode = .faulted ∧ (t.cell c).removed = true ∧ t.hasRoute c = false) ∧
    (s.cellsLeft = [] → (∀ r, r ∈ s.stuckRegions → ∃ t, exec .ridgeWatchdogExpiry s = .next t ∧ t.saf.latched.getLsbD 3 = true ∧
        t.saf.live.getLsbD 3 = true ∧ t.step = s.step) ∧
      (s.stuckRegions = [] → exec .ridgeWatchdogExpiry s = .next s))) ∧
  ∀ s : State, (s.step.running = false ∨ s.step.due = false ∨ s.clocked = false ∨ s.fatal = true ∨ s.step.intakeStopped = true) →
    exec .ridgeWatchdogExpiry s = .next s

/-- `HBEAT` and the ridge watchdog. -/
def Obligations.WatchdogResult : Prop := heartbeatRule ∧ watchdogRule


/-! ## Motion, Fusion, tracking, Scene Memory (12 to 14) -/

/-- Whole frames of an SPI transaction join an enabled motion port's FIFO in order while it has room, the words of the others counted; a rest is counted (R324, R325). The head frame is taken by its type: PAD without effect, IMU and TWIST from a source set up for this port and type accepted and counted, unless they lie before the first knot, every other frame counted as discarded (R328, R331, R332). -/
def Obligations.MotionResult : Prop :=
  (∀ (m : Fin 4) (bytes : List Byte) (s : State),
    let n := bytes.length / 32
    let room := (1024 - (s.mot m).fifo.length) / 4
    (s.clocked = true → s.bit (motP m 0) 0 = true → ∃ t, exec (.spiTransaction m bytes) s = .next t ∧
      (t.mot m).fifo = (s.mot m).fifo ++ (List.range (min n room)).flatMap (fun i => frameWords ((bytes.drop (32 * i)).take 32)) ∧
      t.ctr (motP m 0x10) = (s.bump (motP m 0x10) (4 * (n - room))).ctr (motP m 0x10) ∧
      t.ctr (motP m 0x0C) = (s.bump (motP m 0x0C) (if bytes.length % 32 = 0 then 0 else 1)).ctr (motP m 0x0C) ∧
      (∀ k, k ≠ motP m 0x10 → k ≠ motP m 0x0C → t.ctr k = s.ctr k) ∧ t.ego = s.ego ∧ t.cells = s.cells ∧ t.regs = s.regs) ∧
    ((s.clocked = false ∨ s.bit (motP m 0) 0 = false) → exec (.spiTransaction m bytes) s = .next s)) ∧
  ∀ (m : Fin 4) (s : State),
    let l := (s.mot m).fifo.take 4
    let ty := frameType l
    let takes (i : Instr) : Prop := i = .padFrame m [] ∧ ty = 14 ∨ i = .imuFrame m [] .clean ∧ ty ≠ 2 ∧ ty ≠ 14 ∨ i = .twistFrame m [] .clean ∧ ty = 2
    let r := 0x40100 + 4 * bitsOf (frameWord l 0) 59 56
    let listed := (ty = 1 ∨ ty = 2) ∧ s.bit r 31 = true ∧ s.fld r 9 8 = ty ∧ s.fld r 1 0 = m.val
    let f := s.motFrame (ty == 2) l .clean
    let early := s.ego.knots ≠ [] ∧ f.stamp < s.ego.first * 125
    (s.clocked = true → l ≠ [] → ∀ i, takes i → ∃ t, exec i s = .next t ∧ (t.mot m).fifo = (s.mot m).fifo.drop 4 ∧ t.cells = s.cells ∧ t.regs = s.regs ∧
      (ty = 14 → t.cnt = s.cnt ∧ t.ego = s.ego) ∧
      (ty ≠ 14 → ¬listed → counted s t 0x40504 ∧ t.ego = s.ego) ∧
      (listed → early → counted s t (0x40380 + 4 * f.source.val) ∧ t.ego = s.ego) ∧
      (listed → ¬early → counted s t 0x40500 ∧ t.ego.total = s.ego.total + 1)) ∧
    (s.clocked = true → l ≠ [] → ∀ bad e,
      (ty ≠ 2 → ty ≠ 14 → ∃ t, exec (.imuFrame m bad e) s = .next t ∧ (t.mot m).fifo = (s.mot m).fifo.drop 4 ∧ t.cells = s.cells) ∧
      (ty = 2 → ∃ t, exec (.twistFrame m bad e) s = .next t ∧ (t.mot m).fifo = (s.mot m).fifo.drop 4 ∧ t.cells = s.cells)) ∧
    ((s.clocked = false ∨ l = []) → ∀ bad e, ∀ i ∈ [Instr.padFrame m bad, .imuFrame m bad e, .twistFrame m bad e], exec i s = .next s)

/-- The output bridges (R336, R382, R387, R419): the item at the head of queue 249 goes to Scene Memory at any time; that of queue 250 goes to Fusion while a step is open whose index its cell step does not exceed, and waits before; corrected words are counted (R166); every other queue and cell is as before. -/
def Obligations.BridgeResult : Prop :=
  ∀ (c : Fin 256) (scene : Bool) (u : Upset) (s : State),
    let q : Fin 256 := if scene then 249 else 250
    let x := upsetQueue s u (s.queue c q)
    let n := headLen (s.queue c q).words
    let goes := s.clocked = true ∧ (s.cell c).removed = false
    (∀ w rest, (s.queue c q).words = w :: rest → goes →
      let k := w.step.getD s.step.k
      ((scene = true ∨ (s.step.running = true ∧ k ≤ s.step.k)) → ∃ t, exec (.outputBridgeForward c scene u) s = .next t ∧
        (t.queue c q).words = x.words.drop n ∧
        (if scene then t.scm.inbox else t.fus.inbox) = (if scene then s.scm.inbox else s.fus.inbox) ++ [⟨c, k, (x.words.take n).map fun w => w.data⟩] ∧
        (if scene then t.fus.inbox = s.fus.inbox else t.scm.inbox = s.scm.inbox) ∧ (∀ p, p ≠ q → t.queue c p = s.queue c p) ∧
        (∀ m, u = .corrected m → t.ctr (celR c 0x200) = (s.bump (celR c 0x200) m).ctr (celR c 0x200)) ∧
        (∀ d, d ≠ c → t.cell d = s.cell d) ∧ (t.cell c).sreg = (s.cell c).sreg ∧ (t.cell c).thatch = (s.cell c).thatch ∧
        (t.cell c).cwm = (s.cell c).cwm ∧ t.regs = s.regs ∧ t.mesh = s.mesh) ∧
      (scene = false → (s.step.running = false ∨ s.step.k < k) → exec (.outputBridgeForward c scene u) s = .next s)) ∧
    ((¬goes ∨ (s.queue c q).words = []) → exec (.outputBridgeForward c scene u) s = .next s)

/-- Grid and sector evidence (R336 to R338, R341, R343): the item leaves the inbox, counted where its step has closed; a FEATURE item placed in a grid cell blends its sixteen features, rounding half away from zero, and no other byte of the grid; an evidence item placed in a sector bin adds its strength, saturating at 255; one placed nowhere, or of a wrong kind or length, is counted. -/
def evidenceRule : Prop :=
  (∀ (s : State) (i : BridgeItem) (rest : List BridgeItem) (ecc : Ecc), s.fus.inbox = i :: rest →
    let l := i.words
    let late := decide (i.step < s.step.k)
    let s0 := { s with fus := { s.fus with inbox := rest } }
    let s1 := if late then s0.bump 0x50110 else s0
    (itemKind l ≠ 5 → itemKind l ≠ 6 → itemKind l ≠ 7 →
      ((itemKind l ≠ 4 ∨ l.length ≠ 4) → exec (.featureItem ecc) s = .next (s0.bump 0x5010C)) ∧
      (itemKind l = 4 → l.length = 4 → (s.placeItem l).bind s.gridCell = none → exec (.featureItem ecc) s = .next ((s1.bump 0x50108).tick)) ∧
      (itemKind l = 4 → l.length = 4 → ∀ cell, (s.placeItem l).bind s.gridCell = some cell → ∃ t, exec (.featureItem ecc) s = .next t ∧
        (ecc ≠ .uncorrectable → ∀ n, n < 16 → memRead t.fus.grid (16 * cell + n) = BitVec.ofInt 8 (s.feature cell n +
          roundAway (s.fld 0x50000 7 0 * (signedOf 8 (itemWord l (2 + n / 8) / 2 ^ (8 * (n % 8))) - s.feature cell n)) 256)) ∧
        (ecc = .uncorrectable → t.saf.latched.getLsbD 6 = true ∧ t.fus.abandoned = true) ∧
        (late = true → counted s t 0x50110) ∧ t.fus.inbox = rest ∧
        (∀ a, (a < 16 * cell ∨ 16 * cell + 16 ≤ a) → memRead t.fus.grid a = memRead s.fus.grid a) ∧ t.cells = s.cells)) ∧
    (itemKind l = 5 →
      (l.length ≠ 3 → exec (.evidenceItem ecc) s = .next (s0.bump 0x5010C)) ∧
      (l.length = 3 → (s.placeItem l).bind (s.sectorAt (s.endOf s.step.k)) = none → exec (.evidenceItem ecc) s = .next ((s1.bump 0x50108).tick)) ∧
      (l.length = 3 → ∀ sec bin, (s.placeItem l).bind (s.sectorAt (s.endOf s.step.k)) = some (sec, bin) → ∃ t, exec (.evidenceItem ecc) s = .next t ∧
        let n := (itemPort l).val
        let occ := bitAt (itemWord l 0) 55
        (ecc ≠ .uncorrectable → t.accOf n sec bin occ = min 255 (s.accOf n sec bin occ + itemWord l 2 % 256)) ∧
        (ecc = .uncorrectable → t.saf.latched.getLsbD 6 = true ∧ t.fus.abandoned = true) ∧
        (late = true → counted s t 0x50110) ∧ t.fus.inbox = rest ∧
        (∀ a, a ≠ accKey n sec bin occ → assocGet t.fus.acc 0 a = assocGet s.fus.acc 0 a) ∧ t.cells = s.cells))) ∧
  ∀ (s : State) (ecc : Ecc),
    ((∀ i ∈ s.fus.inbox.head?, itemKind i.words = 5 ∨ itemKind i.words = 6 ∨ itemKind i.words = 7) → exec (.featureItem ecc) s = .next s) ∧
    ((∀ i ∈ s.fus.inbox.head?, itemKind i.words ≠ 5) → exec (.evidenceItem ecc) s = .next s)

/-- Observations (R336, R354, R355): a FEATURE or a placed OBJECT observation of four words joins the buffer of the open step while it holds fewer than 8,192, in the order of arrival; else it is counted; one of a wrong length, and an object placed nowhere, are counted. -/
def observationRule : Prop :=
  ∀ (s : State) (i : BridgeItem) (rest : List BridgeItem), s.fus.inbox = i :: rest →
    let l := i.words
    let s0 := { s with fus := { s.fus with inbox := rest } }
    let s1 := if i.step < s.step.k then s0.bump 0x50110 else s0
    let old := assocGet s.trk.obs [] s.step.k
    (itemKind l = 6 →
      (l.length ≠ 4 → ∀ ecc, exec (.featureObservation ecc) s = .next (s0.bump 0x5010C)) ∧
      (l.length = 4 → old.length < 8192 → ∃ t o, exec (.featureObservation .clean) s = .next t ∧ assocGet t.trk.obs [] s.step.k = old ++ [o] ∧
        o.obj = false ∧ o.cell = i.cell ∧ o.port = itemPort l ∧ o.score = bitsOf (itemWord l 0) 55 48 ∧ o.u = itemU l ∧ o.v = itemV l ∧
        o.stamp = itemStamp l ∧ o.desc = l.getD 2 0 ∧
        o.flow = (if bitAt (itemWord l 3) 32 then some (BitVec.ofNat 16 (itemWord l 3), BitVec.ofNat 16 (itemWord l 3 / 65536)) else none) ∧
        t.fus.inbox = rest ∧ t.cnt = s1.cnt ∧ t.cells = s.cells) ∧
      (l.length = 4 → 8192 ≤ old.length → exec (.featureObservation .clean) s = .next ((s1.bump 0x6004C).tick)) ∧
      (l.length = 4 → ∀ ecc, ∃ t, exec (.featureObservation ecc) s = .next t ∧ t.fus.inbox = rest ∧ t.cells = s.cells)) ∧
    (itemKind l = 7 →
      (l.length ≠ 4 → ∀ ecc, exec (.objectObservation ecc) s = .next (s0.bump 0x5010C)) ∧
      (l.length = 4 → ∀ w, s.placeItem l = some w → old.length < 8192 → ∃ t o, exec (.objectObservation .clean) s = .next t ∧
        assocGet t.trk.obs [] s.step.k = old ++ [o] ∧ o.obj = true ∧ o.cell = i.cell ∧ o.port = itemPort l ∧ o.x = w.x ∧ o.y = w.y ∧
        o.cls = BitVec.ofNat 8 (bitsOf (itemWord l 0) 55 48) ∧ o.score = bitsOf (itemWord l 2) 63 56 ∧ o.extentMm = bitsOf (itemWord l 2) 55 40 ∧
        o.desc = l.getD 3 0 ∧ o.stamp = itemStamp l ∧ t.fus.inbox = rest ∧ t.cnt = s1.cnt ∧ t.cells = s.cells) ∧
      (l.length = 4 → ∀ w, s.placeItem l = some w → 8192 ≤ old.length → exec (.objectObservation .clean) s = .next ((s1.bump 0x6004C).tick)) ∧
      (l.length = 4 → s.placeItem l = none → exec (.objectObservation .clean) s = .next ((s1.bump 0x50108).tick)) ∧
      (l.length = 4 → ∀ ecc, ∃ t, exec (.objectObservation ecc) s = .next t ∧ t.fus.inbox = rest ∧ t.cells = s.cells))

/-- Grid, sector evidence and observations. -/
def Obligations.FusionItemResult : Prop := evidenceRule ∧ observationRule


/-- `ATTN_n` is released once no cause of R441 holds and only then (R152); with no ridge closed in time, steps open or not, the zone pins fall and the event is counted once (R352). -/
def Obligations.ZonePinResult : Prop :=
  ∀ s : State,
    (s.attnCause = false → ∃ t, exec .attnDeassert s = .next t ∧ t.pins = { s.pins with attn := false } ∧ t.cells = s.cells ∧ t.regs = s.regs ∧ t.cnt = s.cnt) ∧
    (s.attnCause = true → exec .attnDeassert s = .next s) ∧
    (s.clocked = true → s.step.closed.isSome = true → s.fus.stale = false → ∃ t, exec .zoneStaleExpiry s = .next t ∧ t.pins.zone = 0 ∧
      t.fus.stale = true ∧ counted s t 0x50114 ∧ t.pins.faultA = s.pins.faultA ∧ t.pins.faultB = s.pins.faultB ∧ t.step = s.step ∧ t.cells = s.cells ∧ t.regs = s.regs) ∧
    ((s.clocked = false ∨ s.step.closed = none ∨ s.fus.stale = true) → exec .zoneStaleExpiry s = .next s)

/-- A token item (R383 to R386), which no retrieval cell sent as a PARTIAL item: while Scene Memory is enabled, not erasing and under its limit for the step, a token placed in the world is written into the next slot of its bucket, numbered by the write counter; a malformed, an unwanted and an unplaced one are counted and write nothing. -/
def Obligations.TokenItemResult : Prop :=
  (∀ s : State, (s.clocked = false ∨ ∀ i ∈ s.scm.inbox.head?, s.isPartial i = true) → exec .tokenItem s = .next s) ∧
  ∀ (s : State) (i : BridgeItem) (rest : List BridgeItem), s.clocked = true → s.scm.inbox = i :: rest → s.isPartial i = false →
    let l := i.words
    let wanted := s.scmOn = true ∧ s.scm.erasing = false ∧ assocGet s.scm.taken 0 i.step < s.fld 0x70008 15 0
    let sound := itemKind l = 8 ∧ l.length = 15
    ∃ t, exec .tokenItem s = .next t ∧ t.scm.inbox = rest ∧ t.cells = s.cells ∧ t.regs = s.regs ∧ t.scm.retrievals = s.scm.retrievals ∧
      (¬sound → counted s t 0x70050 ∧ t.scm.mem = s.scm.mem ∧ t.scm.wctr = s.scm.wctr) ∧
      (sound → ¬wanted → counted s t 0x70048 ∧ t.scm.mem = s.scm.mem ∧ t.scm.wctr = s.scm.wctr) ∧
      (sound → wanted → s.placeItem l = none → counted s t 0x7004C ∧ t.scm.mem = s.scm.mem ∧ t.scm.wctr = s.scm.wctr) ∧
      (sound → wanted → ∀ w, s.placeItem l = some w →
        let b := s.bucketAt (s.tileCoord w.x) (s.tileCoord w.y) (bitsOf (itemWord l 0) 55 48 % s.scmCg)
        let slot := s.btok * b + assocGet s.scm.next 0 b
        counted s t 0x70040 ∧ t.scm.wctr = s.scm.wctr + 1 ∧ tokWseq (t.slotWords slot) = s.scm.wctr ∧ tokStamp (t.slotWords slot) = itemStamp l ∧
        (∀ a, (a < 128 * slot ∨ 128 * slot + 128 ≤ a) → memRead t.scm.mem a = memRead s.scm.mem a) ∧
        t.scm.fresh.length = s.scm.fresh.length + 1)

/-! ## Host registers (15, 16) -/

/-- A host access by this port is dealt with at once: the link is up, no reset halt, no earlier write of the port stalls, and the register's clock runs (R447, R475). -/
abbrev reaches (s : State) (hp : Fin 2) (off : Nat) : Prop :=
  (s.host hp).up = true ∧ s.sec.halted = false ∧ (s.host hp).late = [] ∧ s.asleep off = false

/-- A write with all byte enables from this port reaches the register at this offset: the access is dealt with at once, and the port holds the register's guard. -/
abbrev mayWrite (s : State) (hp : Fin 2) (off : Nat) : Prop := reaches s hp off ∧ s.holds hp (guardOf off) = true

/-- What a write that is dealt with at once does at a register that a hosted cell's window does not hold (R5, R434, R437, R451 to R453, R456, R474). -/
def plainWriteRule : Prop :=
  ∀ (hp : Fin 2) (off : Nat) (v : Word) (s : State) (r : RegRow), regRow? off = some r → s.inHosted off = false → reaches s hp off →
    let run := exec (.registerWrite hp off 15 v) s
    (guarded r = true → s.holds hp (guardOf off) = false → run = .next (s.bump (hifR hp 0x50))) ∧
    (r.kind = .cnt → mayWrite s hp off → ∃ t, run = .next t ∧ t.ctr (regKey hp off) = v ∧
      (∀ k, k ≠ regKey hp off → t.ctr k = s.ctr k) ∧ t.regs = s.regs ∧ t.cells = s.cells ∧ t.step = s.step) ∧
    (∀ n : Fin 64, off = 0x400 + 4 * n.val →
      ((s.sem n).owner = some hp → v.getLsbD 16 = true → run = .next (s.setSem n ⟨none, 0, 0⟩)) ∧
      ((s.sem n).owner = some hp → v.getLsbD 16 = false → run = .next (s.setSem n ⟨some hp, v.extractLsb' 8 8, v.extractLsb' 8 8⟩)) ∧
      ((s.sem n).owner ≠ some hp → run = .next (s.bump (hifR hp 0x50)))) ∧
    ((r.kind = .plain ∧ r.cfg + r.ctl + r.enb = 0 ∨ ∃ c, r.kind = .lat c) → run = .next (s.wakeWindow off)) ∧
    (r.kind = .plain → r.cfg + r.ctl + r.enb ≠ 0 → mayWrite s hp off → s.act hp off v = none → ∃ t, run = .next t ∧
      (let old := (s.reg (regKey hp off)).toNat
       let open' := s.cfgOpen hp off && s.legal off old v.toNat
       t.reg (regKey hp off) = BitVec.ofNat 32 (Nat.land (if open' then v.toNat else old) r.cfg + Nat.land v.toNat (r.ctl + r.enb))) ∧
      (∀ k, k ≠ regKey hp off → (∀ h, k ≠ hifR h 0x0C) → t.reg k = s.reg k) ∧ t.step = { s.step with refHz := t.step.refHz } ∧
      t.sec = s.sec ∧ t.mesh = s.mesh)

/-- A host access (R5, R434, R437, R444 to R448, R451 to R453, R456, R475). A read with no byte enable, or of an unmapped offset, returns zero. A write does nothing with the link down or no byte enable; it is refused and recorded with some byte enables only, at an offset without a register, or in a hosted cell's window; ignored and counted without the guard; a counter is loaded; a semaphore's owner releases it or sets its lease, another's write is ignored and counted; status and copies are as before; a register of fields takes its CFG bits only where its block is disabled and the value legal, and its other writable bits always, no other register changing. A request of several doublewords is as many writes in ascending order; a write behind a stalled one, or to a block in retention, stalls. -/
def Obligations.RegisterWriteResult : Prop :=
  plainWriteRule ∧
  ∀ (hp : Fin 2) (off : Nat) (be : BitVec 4) (v : Word) (s : State),
    let run := exec (.registerWrite hp off be v) s
    (regRow? off = none → s.readReg hp off be = 0) ∧ s.readReg hp off 0 = 0 ∧
    (((s.host hp).up = false ∨ s.sec.halted = true ∨ be = 0) → run = .next s) ∧
    (reaches s hp off → be ≠ 0 → (be ≠ 15 ∨ regRow? off = none ∨ s.inHosted off = true) → ∃ t, run = .next t ∧
      counted s t 0x80 ∧ t.disc.accLast = BitVec.ofNat 32 (hp.val * 2 ^ 31 + 2 ^ 30 + be.toNat * 2 ^ 22 + off / 4 % 2 ^ 20 * 4) ∧
      t.regs = s.regs ∧ t.cells = s.cells ∧ t.step = s.step) ∧
    ((s.host hp).up = true → s.sec.halted = false → be ≠ 0 → ((s.host hp).late ≠ [] ∨ s.asleep off = true) →
      (s.asleep off = true → s.pwr.committed = true ∨ s.pwr.entry = none) → ∃ t, run = .next t ∧
      (t.host hp).late = (s.host hp).late ++ [(off, be, v)] ∧ t.cells = s.cells ∧ t.sems = s.sems ∧ t.step = s.step) ∧
    ∀ rest w, ∃ t u, exec (.registerWrite hp off be v rest) s = .next t ∧
      exec (.registerWrite hp (off + 4 * (rest.length + 1)) w.1 w.2) t = .next u ∧ exec (.registerWrite hp off be v (rest ++ [w])) s = .next u

/-- The run bits. `DEV_STEP_ENB` (R42, R43): a 1 sets RUN and no more, a 0 clears it and stops an open run at its next ridge. `CEL_SEQ_ENB` (R191, R192, R217): a stopped cell starts at its entry with its registers and predicates zero, every token free, its cell step the open one, and its memories as they are; a running one issues no more, and has stopped once no operation is left. -/
def runBitRule : Prop :=
  (∀ (hp : Fin 2) (s : State), mayWrite s hp 0x204 →
    exec (.stepRunSet hp) s = .next (s.setReg 0x204 1) ∧
    ∃ t, exec (.stepRunClear hp) s = .next t ∧ t.reg 0x204 = 0 ∧ t.step = { s.step with stopping := s.step.stopping || s.step.running } ∧
      t.cells = s.cells ∧ t.pins = s.pins ∧ ∀ k, k ≠ 0x204 → t.reg k = s.reg k) ∧
  ∀ (hp : Fin 2) (c : Fin 256) (s : State), mayWrite s hp (celR c 0) → s.isHosted c = false →
    (∃ t, exec (.celSeqStart hp c) s = .next t ∧ t.reg (celR c 0) = 1 ∧ (t.clutch (clutchOf c)).gated = false ∧
      ((s.cell c).mode = .stopped → s.bit (celR c 0) 0 = false →
        (t.cell c).mode = .running ∧ (t.cell c).pc.toNat = s.fld (celR c 0x10) 18 3 ∧ (∀ i, (t.cell c).s i = 0) ∧
        (∀ i, i ≠ 0 → (t.cell c).p i = false) ∧ (t.cell c).ops = [] ∧ (t.cell c).loops = [] ∧
        (t.cell c).step = (if s.step.running then some s.step.k else none) ∧
        (t.cell c).thatch = (s.cell c).thatch ∧ (t.cell c).cwm = (s.cell c).cwm ∧ ∀ q, (t.queue c q).words = (s.queue c q).words) ∧
      (((s.cell c).mode ≠ .stopped ∨ s.bit (celR c 0) 0 = true) → t.cell c = s.cell c) ∧
      (∀ d, d ≠ c → t.cell d = s.cell d) ∧ t.step = s.step ∧ t.mesh = s.mesh ∧ ∀ k, k ≠ celR c 0 → t.reg k = s.reg k) ∧
    ∃ t, exec (.celSeqStop hp c) s = .next t ∧ t.reg (celR c 0) = 0 ∧ (t.clutch (clutchOf c)).gated = false ∧
      ((s.cell c).mode = .running → (t.cell c).mode = (if (s.cell c).ops.isEmpty then .stopped else .stopping) ∧ (t.cell c).wait = .none ∧
        (t.cell c).sreg = (s.cell c).sreg ∧ (t.cell c).tok = (s.cell c).tok ∧ (t.cell c).thatch = (s.cell c).thatch ∧
        (t.cell c).cwm = (s.cell c).cwm ∧ (t.cell c).queues = (s.cell c).queues) ∧
      ((s.cell c).mode ≠ .running → t.cell c = s.cell c) ∧
      (∀ d, d ≠ c → t.cell d = s.cell d) ∧ t.step = s.step ∧ t.mesh = s.mesh ∧ ∀ k, k ≠ celR c 0 → t.reg k = s.reg k

/-- `INK_PENB` (R93, R94): an enabled port starts SILENT with no time base, no horizon, no trigger and nothing in its FIFO; a disabled one drops its FIFO and its `FLOW`, and, which R94 leaves open, its held events (log entry 56). The other ports keep what they hold, though the coherence check may judge them. -/
def portSwitchRule : Prop :=
  ∀ (hp : Fin 2) (p : Fin 16) (s : State), mayWrite s hp (inkP p 0) →
    (s.portOn p = true → exec (.portEnable hp p) s = .next s) ∧
    (s.portOn p = false → exec (.portDisable hp p) s = .next s ∧
      ∃ t, exec (.portEnable hp p) s = .next t ∧ t.portOn p = true ∧ (t.port p).mode = .silent ∧ (t.port p).notb = true ∧ (t.port p).horizon = none ∧
        (t.port p).fifo = [] ∧ (t.port p).held = [] ∧ (t.port p).refr = [] ∧ (t.port p).trig = none ∧ (t.port p).active = (s.port p).active ∧
        (t.port p).shadow = (s.port p).shadow ∧ (∀ n, n ≠ p → t.port n = s.port n) ∧ t.cells = s.cells ∧ t.step = s.step ∧ t.cnt = s.cnt) ∧
    (s.portOn p = true → ∃ t, exec (.portDisable hp p) s = .next t ∧ t.portOn p = false ∧ (t.port p).mode = .disabled ∧ (t.port p).lock = false ∧
      (t.port p).notb = true ∧ (t.port p).fifo = [] ∧ (t.port p).held = [] ∧ (t.port p).flow = false ∧
      (t.port p).rd = (s.port p).rd + fifoDepth (s.port p).fifo ∧
      (∀ n, (t.port n).ready = (s.port n).ready ∧ (t.port n).lanes = (s.port n).lanes ∧ (t.port n).horizon = (s.port n).horizon) ∧
      (∀ n, n ≠ p → t.portOn n = s.portOn n ∧ (t.port n).fifo = (s.port n).fifo ∧ (t.port n).held = (s.port n).held ∧ (t.port n).flow = (s.port n).flow) ∧
      t.cells = s.cells ∧ t.mesh = s.mesh ∧ t.step = { s.step with refHz := t.step.refHz })

/-- The enables of steps, cells and ports. -/
def Obligations.SwitchResult : Prop := runBitRule ∧ portSwitchRule

/-- Table swaps (R109, R111, R344): an arming write waits for its step while one is open, and exchanges the banks it names at once while none is; one armed or being copied back ignores it, counted. The copy-back puts the new active banks into the shadow banks. A write to `FUS_SNS_CLR` clears the suspect state of the sensors it names (R348). -/
def Obligations.TableSwapResult : Prop :=
  (∀ (hp : Fin 2) (mask : BitVec 16) (s : State), mayWrite s hp 0x20104 →
    (s.inkSwap.busy = true → exec (.inkTswapArm hp mask) s = .next (s.bump 0x20148)) ∧
    (s.inkSwap.busy = false → s.step.running = true →
      exec (.inkTswapArm hp mask) s = .next { s with inkSwap := ⟨true, (s.reg 0x20100).toNat, mask, false, 0⟩ }) ∧
    (s.inkSwap.busy = false → s.step.running = false → ∃ t, exec (.inkTswapArm hp mask) s = .next t ∧ t.inkSwap.armed = false ∧ t.inkSwap.copying = mask ∧
      (∀ p : Fin 16, mask.getLsbD p.val = true → t.port p = { s.port p with active := (s.port p).shadow, shadow := (s.port p).active }) ∧
      (∀ p : Fin 16, mask.getLsbD p.val = false → t.port p = s.port p) ∧ t.sec.busyInk = true ∧ t.fus = s.fus ∧ t.cells = s.cells ∧ t.regs = s.regs)) ∧
  (∀ (hp : Fin 2) (kinds : BitVec 3) (s : State), mayWrite s hp 0x50024 →
    (s.fusSwap.busy = true → exec (.fusTswapArm hp kinds) s = .next (s.bump 0x50118)) ∧
    (s.fusSwap.busy = false → s.step.running = true →
      exec (.fusTswapArm hp kinds) s = .next { s with fusSwap := ⟨true, (s.reg 0x50020).toNat, kinds.setWidth 16, false, 0⟩ }) ∧
    (s.fusSwap.busy = false → s.step.running = false → ∃ t, exec (.fusTswapArm hp kinds) s = .next t ∧ t.fusSwap.armed = false ∧
      (t.fus.active.zone, t.fus.shadow.zone) = (if kinds.getLsbD 0 then (s.fus.shadow.zone, s.fus.active.zone) else (s.fus.active.zone, s.fus.shadow.zone)) ∧
      (t.fus.active.cov, t.fus.shadow.cov) = (if kinds.getLsbD 1 then (s.fus.shadow.cov, s.fus.active.cov) else (s.fus.active.cov, s.fus.shadow.cov)) ∧
      (t.fus.active.mext, t.fus.shadow.mext) = (if kinds.getLsbD 2 then (s.fus.shadow.mext, s.fus.active.mext) else (s.fus.active.mext, s.fus.shadow.mext)) ∧
      t.sec.busyFus = true ∧ t.ports = s.ports ∧ t.cells = s.cells ∧ t.regs = s.regs)) ∧
  (∀ s : State, ∃ t, exec .tableCopybackDone s = .next t ∧ t.inkSwap = { s.inkSwap with copying := 0 } ∧ t.fusSwap = { s.fusSwap with copying := 0 } ∧
    (∀ p : Fin 16, t.port p = if s.inkSwap.copying.getLsbD p.val then { s.port p with shadow := (s.port p).active } else s.port p) ∧
    t.fus.active = s.fus.active ∧ (s.fusSwap.copying.getLsbD 0 = true → t.fus.shadow.zone = s.fus.active.zone) ∧
    (s.fusSwap.copying = 0 → t.fus = s.fus) ∧ t.cells = s.cells ∧ t.regs = s.regs ∧ t.sec = s.sec) ∧
  ∀ (hp : Fin 2) (mask : BitVec 16) (s : State), mayWrite s hp 0x50030 → ∃ t, exec (.fusSnsClrWrite hp mask) s = .next t ∧
    (∀ n : Fin 16, t.fus.sensors[n.val] = if mask.getLsbD n.val then { s.fus.sensors[n.val] with suspect := false, drun := 0 } else s.fus.sensors[n.val]) ∧
    t.fus.zones = s.fus.zones ∧ t.cells = s.cells ∧ t.regs = s.regs ∧ t.cnt = s.cnt

/-- Scene Memory's controls (R381, R400, R401): an enable succeeds where the region fits and reports an error where it does not; a disable and an erase give every open retrieval its end; the erase overwrites the region, leaves the write counter, and counts the tokens of the next frame as left out (log entry 66); a geometry is taken only while Scene Memory is disabled, and empties the region. Every such access gives the block its clock (R474). -/
def Obligations.SceneControlResult : Prop :=
  (∀ (hp : Fin 2) (s : State), mayWrite s hp 0x70000 →
    let awake (x : Scene) : Scene := { x with gated := false }
    (s.scmOn = true → exec (.scmEnable hp) s = .next { s with scm := awake s.scm }) ∧
    (s.scmOn = false → s.regionSize' ≤ 48 * 2 ^ 30 → s.regionSize' ≤ s.scm.avail * 2 ^ 26 → ∃ t, exec (.scmEnable hp) s = .next t ∧ t.scmOn = true ∧
      t.scm = awake { s.scm with geoErr := false } ∧ t.cells = s.cells ∧ ∀ k, k ≠ 0x70000 → t.reg k = s.reg k) ∧
    (s.scmOn = false → (48 * 2 ^ 30 < s.regionSize' ∨ s.scm.avail * 2 ^ 26 < s.regionSize') →
      exec (.scmEnable hp) s = .next { s with scm := awake { s.scm with geoErr := true } }) ∧
    (s.scmOn = false → exec (.scmDisable hp) s = .next { s with scm := awake s.scm }) ∧
    (s.scmOn = true → ∃ t, exec (.scmDisable hp) s = .next t ∧ t.scmOn = false ∧ t.scm.mem = s.scm.mem ∧ t.scm.wctr = s.scm.wctr ∧
      (∀ r ∈ t.scm.retrievals, r.isOpen = true → r.doom.isSome = true) ∧ t.scm.retrievals.map (fun r => r.rid) = s.scm.retrievals.map (fun r => r.rid) ∧
      (∀ r ∈ s.scm.retrievals, r.isOpen = true → r.doom = none → { r with doom := some .disabled } ∈ t.scm.retrievals) ∧
      t.cells = s.cells ∧ ∀ k, k ≠ 0x70000 → t.reg k = s.reg k)) ∧
  (∀ (hp : Fin 2) (s : State), mayWrite s hp 0x70020 → ∃ t, exec (.scmErase hp) s = .next t ∧ t.scm.erasing = true ∧ t.scm.mem = [] ∧ t.scm.count = [] ∧
    t.scm.wctr = s.scm.wctr ∧ t.scm.fresh = [] ∧ t.ctr 0x70054 = (s.bump 0x70054 s.scm.fresh.length).ctr 0x70054 ∧
    (∀ r ∈ t.scm.retrievals, r.isOpen = true → r.doom.isSome = true) ∧ t.cells = s.cells ∧ t.regs = s.regs) ∧
  (∀ s : State, (s.clocked = true → s.scm.erasing = true → exec .eraseComplete s = .next { s with scm := { s.scm with erasing := false } }) ∧
    ((s.clocked = false ∨ s.scm.erasing = false) → exec .eraseComplete s = .next s)) ∧
  ∀ (hp : Fin 2) (v : Word) (s : State), mayWrite s hp 0x70004 →
    let old := s.reg 0x70004
    let lawful := s.legal 0x70004 old.toNat v.toNat
    let changes := Nat.land v.toNat 0x0F1FFFFF ≠ Nat.land old.toNat 0x0F1FFFFF
    (changes → s.scmOn = false → lawful = true → ∃ t, exec (.scmGeomWrite hp v) s = .next t ∧
      t.reg 0x70004 = v &&& 0x0F1FFFFF ∧ t.scm.count = [] ∧ t.scm.mem = s.scm.mem ∧ t.scm.wctr = s.scm.wctr ∧ t.cells = s.cells ∧
      ∀ k, k ≠ 0x70004 → t.reg k = s.reg k) ∧
    (old &&& 0x0F1FFFFF = old → (¬changes ∨ s.scmOn = true ∨ lawful = false) → ∃ t, exec (.scmGeomWrite hp v) s = .next t ∧ t.reg 0x70004 = old ∧
      (changes → counted s t 0x70060) ∧ (¬changes → t.cnt = s.cnt) ∧ t.scm = { s.scm with gated := false } ∧ t.cells = s.cells)

/-- Doorbells (R412, R422, R441): a count within the ring's size becomes the ring's, after which a port fetches the descriptors it shows, and a notice ring it leaves behind holds `ATTN_n`; one beyond it is ignored and counted. The mailbox (R460 to R464): a selector starts a capture, VALID falls; the capture's end shows the value, the step, and whether the selector is reserved. -/
def doorbellRule : Prop :=
  (∀ (hp : Fin 2) (count : Word) (s : State), (s.host hp).up = true → s.sec.halted = false → (s.host hp).late = [] →
    ((count - (s.host hp).fetched).toNat ≤ s.ringSize hp 0 → exec (.commandDoorbell hp count) s = .next ((s.setReg (hifR hp 0x100C) count).fetchAhead hp)) ∧
    (s.ringSize hp 0 < (count - (s.host hp).fetched).toNat → exec (.commandDoorbell hp count) s = .next (s.bump (hifR hp 0x54))) ∧
    ∀ ring : Fin 256, ring ≠ 0 →
      ((s.ringP hp ring.val - count).toNat ≤ s.ringSize hp ring.val →
        exec (.consumerDoorbell hp ring count) s = .next (s.setReg (hifR hp (0x100C + 16 * ring.val)) count).updAttn) ∧
      (s.ringSize hp ring.val < (s.ringP hp ring.val - count).toNat → exec (.consumerDoorbell hp ring count) s = .next (s.bump (hifR hp 0x54)))) ∧
  (∀ (hp : Fin 2) (s : State),
    let n := min ((s.ringC hp 0 - (s.host hp).fetched).toNat) (16 - ((s.host hp).fetched - (s.host hp).started).toNat)
    let t := s.fetchAhead hp
    ((t.host hp).fetched = if s.fetchesOn hp = true then (s.host hp).fetched + BitVec.ofNat 32 n else (s.host hp).fetched) ∧
    (t.host hp).started = (s.host hp).started ∧ (t.host hp).cmd = (s.host hp).cmd ∧ t.regs = s.regs ∧ t.cells = s.cells) ∧
  (∀ (hp : Fin 2) (sel : BitVec 16) (s : State), (s.host hp).up = true → s.sec.halted = false → (s.host hp).late = [] →
    ∃ t, exec (.mailboxSelect hp sel) s = .next t ∧
    (t.host hp).mbx.sel = sel ∧ (t.host hp).mbx.valid = false ∧ (t.host hp).mbx.capturing = true ∧ (∀ h, h ≠ hp → t.host h = s.host h) ∧
    t.regs = s.regs ∧ t.cells = s.cells ∧ t.step = s.step) ∧
  ∀ (hp : Fin 2) (s : State),
    ((s.host hp).mbx.capturing = true → ∃ t, exec (.mailboxCapture hp) s = .next t ∧ (t.host hp).mbx.valid = true ∧ (t.host hp).mbx.capturing = false ∧
      (t.host hp).mbx.sel = (s.host hp).mbx.sel ∧ (t.host hp).mbx.step = (if s.step.running then BitVec.ofNat 32 s.step.k else 0xFFFFFFFF) ∧
      (t.host hp).mbx.badsel = (s.mbxValue (s.host hp).mbx.sel.toNat).isNone ∧
      (∀ x, s.mbxValue (s.host hp).mbx.sel.toNat = some x → (t.host hp).mbx.d = x) ∧
      ((s.host hp).mbx.sel = 0x200 → (t.host hp).mbx.badsel = false ∧ (t.host hp).mbx.d[0] = BitVec.ofNat 32 s.step.ridges) ∧
      ((s.host hp).mbx.sel = 0x500 → (t.host hp).mbx.badsel = true ∧ (t.host hp).mbx.d[0] = 0) ∧
      (∀ h, h ≠ hp → t.host h = s.host h) ∧ t.regs = s.regs ∧ t.cells = s.cells ∧ t.step = s.step) ∧
    ((s.host hp).mbx.capturing = false → exec (.mailboxCapture hp) s = .next s)

/-- Semaphores (R432 to R435): a read takes a free one; the owner releases it or sets its lease, another's write is ignored and counted; a lease that has run out releases it. -/
def semaphoreRule : Prop :=
  ∀ (hp : Fin 2) (n : Fin 64) (s : State),
    (∀ be : BitVec 4, ((s.host hp).up = true ∧ (s.host hp).late = [] ∧ be ≠ 0 ∧ (s.sem n).owner = none →
        exec (.semAcquire hp n be) s = .next (s.setSem n ⟨some hp, 0, 0⟩)) ∧
      (¬((s.host hp).up = true ∧ (s.host hp).late = [] ∧ be ≠ 0 ∧ (s.sem n).owner = none) → exec (.semAcquire hp n be) s = .next s)) ∧
    ((s.host hp).up = true → s.sec.halted = false → (s.host hp).late = [] →
      ((s.sem n).owner = some hp → exec (.semRelease hp n) s = .next (s.setSem n ⟨none, 0, 0⟩) ∧
        ∀ l, exec (.semLeaseSet hp n l) s = .next (s.setSem n ⟨some hp, l, l⟩)) ∧
      ((s.sem n).owner ≠ some hp → exec (.semRelease hp n) s = .next (s.bump (hifR hp 0x50)) ∧
        ∀ l, exec (.semLeaseSet hp n l) s = .next (s.bump (hifR hp 0x50)))) ∧
    ((s.sem n).owner.isSome = true → (s.sem n).lease ≠ 0 → (s.sem n).left = 0 → ∃ t, exec (.leaseExpiry n) s = .next t ∧ t.sem n = ⟨none, 0, 0⟩ ∧
      (∀ m, m ≠ n → t.sem m = s.sem m) ∧ t.cells = s.cells ∧ t.step = s.step) ∧
    (((s.sem n).owner = none ∨ (s.sem n).lease = 0 ∨ (s.sem n).left ≠ 0) → exec (.leaseExpiry n) s = .next s)

/-- The rings' counts, the mailbox and the semaphores. -/
def Obligations.MailboxResult : Prop := doorbellRule ∧ semaphoreRule

/-- Links (R421, R424, R439, R440): a loss frees the port's semaphores, abandons its command and returns its own registers to reset; a link comes up with its generation unless the device is in or on the way to S3 or halted in its boot ROM, and the records that waited drain. A command that has passed its commit point or has no timeout does not time out; any other, in progress or fetched and waiting, completes TIMEOUT, counted. -/
def linkRule : Prop :=
  (∀ (hp : Fin 2) (s : State), ((s.host hp).up = false → exec (.linkLoss hp) s = .next s) ∧
    ((s.host hp).up = true → ∃ t, exec (.linkLoss hp) s = .next t ∧ t.host hp = { HostPort.reset with lost := true } ∧
      (∀ n, t.sem n = if (s.sem n).owner = some hp then ⟨none, 0, 0⟩ else s.sem n) ∧ (∀ k, ownKey hp k = true → t.reg k = resetOf k ∧ t.ctr k = 0) ∧
      (∀ h, h ≠ hp → (t.host h).up = (s.host h).up ∧ (t.host h).cmd = (s.host h).cmd) ∧ t.cells = s.cells ∧ t.mesh = s.mesh)) ∧
  (∀ (hp : Fin 2) (gen : BitVec 2) (s : State),
    let held := s.pwr.state = 3 ∨ (s.pwr.committed = true ∧ s.pwr.entry = some 3)
    (((s.host hp).up = true ∨ held ∨ s.sec.halted = true) → exec (.linkUp hp gen) s = .next s) ∧
    ((s.host hp).up = false → ¬held → s.sec.halted = false → ∃ t, exec (.linkUp hp gen) s = .next t ∧ (t.host hp).up = true ∧ (t.host hp).gen = gen ∧
      (t.host hp).bme = true ∧ (t.host hp).owed = [] ∧ (t.host hp).outq = [] ∧ (t.host hp).cmd = (s.host hp).cmd ∧
      (∀ h, h ≠ hp → (t.host h).up = (s.host h).up ∧ (t.host h).cmd = (s.host h).cmd) ∧ t.sems = s.sems ∧ t.cells = s.cells ∧ t.step = s.step)) ∧
  ∀ (hp : Fin 2) (s : State),
    let timesOut (t : State) (tag : BitVec 16) : Prop := counted s t (hifR hp 0x58) ∧ counted s t (hifR hp 0x40) ∧
      t.fld (hifR hp 0x0C) 31 8 = tag.toNat * 256 + 5 ∧ t.cells = s.cells
    (∀ a, (s.host hp).cmd = some a → a.committed = false → timeoutOf a.desc ≠ 0 → ∃ t, exec (.commandTimeout hp none) s = .next t ∧
      (t.host hp).cmd = none ∧ timesOut t a.tag) ∧
    ((∀ a, (s.host hp).cmd = some a → a.committed = true ∨ timeoutOf a.desc = 0) → exec (.commandTimeout hp none) s = .next s) ∧
    ∀ (i : Nat) (d : Descriptor),
      let waiting := i < ((s.host hp).fetched - (s.host hp).started).toNat ∧ (s.host hp).started + BitVec.ofNat 32 i ∉ (s.host hp).gone ∧ timeoutOf d ≠ 0
      (waiting → ∃ t, exec (.commandTimeout hp (some (i, d))) s = .next t ∧ (t.host hp).gone = ((s.host hp).started + BitVec.ofNat 32 i) :: (s.host hp).gone ∧
        (t.host hp).cmd = (s.host hp).cmd ∧ timesOut t (tagOf d) ∧ t.slots = s.slots ∧ t.pwr = s.pwr ∧ t.step = s.step) ∧
      (¬waiting → exec (.commandTimeout hp (some (i, d))) s = .next s)

/-- `CELL_ITEM` (R166, R418 to R421): while a step is open and no record waits for a link, the next item of queue 248 whose cell step is not later leaves its queue; a CELL item goes to the staging of each port that has the ring it names, a record of the open step, counted where it is late; one for which the staging has no room is lost, counted; an item of another kind is counted on both ports. -/
def cellItemRule : Prop :=
  ∀ (c : Fin 256) (u : Upset) (s : State),
    let l := (s.queue c 248).words
    let goes := s.clocked = true ∧ s.outHeld = false ∧ (s.cell c).removed = false ∧ s.step.running = true
    ((¬goes ∨ l = []) → exec (.cellItem c u) s = .next s) ∧
    ∀ w rest, l = w :: rest → goes →
      let x := upsetQueue s u (s.queue c 248)
      let k := w.step.getD s.step.k
      let n := headLen l
      let words := (x.words.take n).map fun x => x.data
      let ring := bitsOf (words.getD 0 0).toNat 59 52
      (s.step.k < k → exec (.cellItem c u) s = .next s) ∧
      (k ≤ s.step.k → ∃ t, exec (.cellItem c u) s = .next t ∧ (t.queue c 248).words = x.words.drop n ∧ (∀ p, p ≠ 248 → t.queue c p = s.queue c p) ∧
        (∀ m, u = .corrected m → t.ctr (celR c 0x200) = (s.bump (celR c 0x200) m).ctr (celR c 0x200)) ∧
        (itemKind words ≠ 9 → t.hosts = s.hosts ∧ ∀ h, counted s t (hifR h 0x44)) ∧
        (itemKind words = 9 → ∀ h,
          let used := 2 ≤ ring ∧ 2 ≤ s.ringKind h ring ∧ s.ringOn h ring = true
          let bytes := (s.host h).stagedBytes + 8 * (words.length + 2)
          (used → bytes ≤ 67108864 → (t.host h).stagedBytes = bytes ∧ ∃ r, (t.host h).staged = (s.host h).staged ++ [r] ∧ r.ring = ring ∧
            r.words = recordHead 0x17 (words.length + 2) (BitVec.ofNat 32 s.step.k) (s.endOf s.step.k) ++
              BitVec.ofNat 64 (c.val + bitsOf (words.getD 0 0).toNat 51 44 * 256) :: words.drop 1) ∧
          (used → 67108864 < bytes → counted s t (hifR h 0x48) ∧ t.host h = s.host h) ∧
          (used → k < s.step.k → counted s t (hifR h 0x4C)) ∧
          (¬used → t.host h = s.host h)) ∧
        (∀ d, d ≠ c → t.cell d = s.cell d) ∧ (t.cell c).sreg = (s.cell c).sreg ∧ (t.cell c).thatch = (s.cell c).thatch ∧
        (t.cell c).cwm = (s.cell c).cwm ∧ t.regs = s.regs ∧ t.mesh = s.mesh ∧ t.step = s.step)

/-- The links, a command's timeout, the records of cells. -/
def Obligations.LinkResult : Prop := linkRule ∧ cellItemRule

/-! ## Host commands (15) -/

/-- The port comes to its next fetched command and may start it: firmware or a ROM runs, and none of its commands is in progress (R422, R547). -/
abbrev hasTurn (s : State) (hp : Fin 2) : Prop := (s.toNextCmd hp).canStart hp = true

/-- A command starts and passes the common checks: its turn, its code, no reserved bit set, its operands in range, its guard held, firmware running unless the ROM executes it. -/
abbrev accepted (s : State) (hp : Fin 2) (d : Descriptor) (f : CmdForm) (range : Bool) : Prop :=
  hasTurn s hp ∧ opOf' d = f.code ∧ reservedOk d f.masks = true ∧ range = true ∧ s.holds hp f.guard = true ∧ (s.hostBoot = false ∨ f.rom = true)

/-- The next command of a port has started. -/
def started (s t : State) (hp : Fin 2) : Prop := (t.host hp).started = ((s.toNextCmd hp).host hp).started + 1

/-- It has completed with this status: none is in progress, `HIF_STS` shows TAG and STATUS. -/
def completed (s t : State) (hp : Fin 2) (d : Descriptor) (status : Nat) : Prop :=
  (t.host hp).cmd = none ∧ started s t hp ∧ t.fld (hifR hp 0x0C) 31 8 = (tagOf d).toNat * 256 + status

/-- It has started and waits. -/
def waits (s t : State) (hp : Fin 2) (d : Descriptor) : Prop :=
  started s t hp ∧ ∃ a, (t.host hp).cmd = some a ∧ a.op = opOf' d ∧ a.tag = tagOf d ∧ a.desc = d

/-- Registers outside `HIF_STS` and a set of keys are as before. -/
def regsBut (s t : State) (keys : Nat → Bool) : Prop := ∀ k, keys k = false → (∀ h, k ≠ hifR h 0x0C) → t.reg k = s.reg k

/-- What a host command meets outside the device: the container and the words and bytes a read of host memory brings, what ECC finds in the reserved area, the upsets its writes into cells meet. -/
structure CmdInputs where
  img : Option Container
  words : Option (List Word)
  bytes : Option (List Byte)
  ecc : Ecc
  ups : CellUpsets

/-- The thirteen commands with the bits their descriptors use, their guards, whether the ROM executes them, and whether their operands are in range (R425, R426). -/
def commandRows (hp : Fin 2) (d : Descriptor) (x : CmdInputs) : List (Instr × CmdForm × Bool) :=
  let all := 2 ^ 64 - 1
  let c1 := descWord d 1
  [(.cmdNop hp d, ⟨0, [], none, true⟩, true), (.loadImage hp d x.img x.ecc, ⟨1, [all, 0xFFFFFFFF], some 0, true⟩, decide (descWord d 2 ≤ 536870912)),
   (.cmdStart hp d, ⟨2, [], some 0, false⟩, true), (.cmdStop hp d, ⟨3, [], some 0, false⟩, true),
   (.swapSlot hp d x.ecc x.ups, ⟨4, [0x1FFFFFFFF], some 0, false⟩, true),
   (.setBudget hp d, ⟨5, [0xFFFFFFFF], some 1, false⟩, c1 == 0 || (decide (500 ≤ c1) && decide (c1 ≤ 45000))), (.setPl hp d, ⟨6, [0xFFFF0003], some 1, false⟩, true),
   (.tableWrite hp d x.words, ⟨7, [0xFFFF, all, all], some (if c1 % 256 == 5 then 2 else 0), false⟩, tableOk d),
   (.snapshot hp d, ⟨8, [0xFF, all, 0xFFFFFFFF], none, false⟩, decide (c1 < 3) && descWord d 2 % 64 == 0 && decide (snapSize c1 ≤ descWord d 3)),
   (.retrieve hp d x.bytes, ⟨9, [0x00FFFFFF1FFFFFFF, all, all], none, false⟩,
     decide (1 ≤ bitsOf c1 24 16 ∧ bitsOf c1 24 16 ≤ 256) && decide (1 ≤ bitsOf c1 55 48) && centreOk d),
   (.attest hp d x.bytes, ⟨10, [all, all, 0xFFFFFFFF], none, false⟩, decide (1720 ≤ descWord d 3)), (.cmdPower hp d, ⟨11, [0xF03], some 1, false⟩, true),
   (.cmdQuery hp d, ⟨12, [0xFF, all, 0xFFFFFFFF], none, c1 == 0⟩, decide (c1 < 3) && decide (querySize c1 ≤ descWord d 3))]

/-- The common checks (R422, R425, R426, R437, R547): a command starts only in its port's turn, for which a fetched descriptor that has not been abandoned is enough while the port has none in progress; reserved bits and operands out of range complete BADCMD, a missing guard NOGUARD, counted, and, while the ROM waits for a host, what it does not execute STATE; `NOP` completes OK and a reserved code BADCMD; nothing else of the device changes. -/
def Obligations.CommandChecks : Prop :=
  ∀ (hp : Fin 2) (d : Descriptor) (x : CmdInputs) (s : State),
    let same (t : State) : Prop := t.cells = s.cells ∧ t.step = s.step ∧ t.mesh = s.mesh ∧ t.pwr = s.pwr ∧ t.sec = s.sec ∧ t.slots = s.slots ∧ t.scm = s.scm ∧
      regsBut s t fun _ => false
    let y := s.host hp
    (((s.host hp).cmd.isSome = true ∨ (s.sec.running = false ∧ s.hostBoot = false)) → ¬hasTurn s hp) ∧
    ((s.sec.running = true ∨ s.hostBoot = true) → y.cmd = none → y.started ≠ y.fetched → y.started ∉ y.gone → hasTurn s hp) ∧
    (∀ r ∈ commandRows hp d x,
      ((¬hasTurn s hp ∨ (opOf' d ≠ r.2.1.code ∧ (r.2.1.code = 0 → opOf' d < 13))) → exec r.1 s = .next (s.toNextCmd hp)) ∧
      (hasTurn s hp → opOf' d = r.2.1.code →
        ((reservedOk d r.2.1.masks = false ∨ r.2.2 = false) → ∃ t, exec r.1 s = .next t ∧ completed s t hp d 1 ∧ same t) ∧
        (reservedOk d r.2.1.masks = true → r.2.2 = true → s.holds hp r.2.1.guard = false →
          ∃ t, exec r.1 s = .next t ∧ completed s t hp d 2 ∧ counted s t (hifR hp 0x50) ∧ same t) ∧
        (reservedOk d r.2.1.masks = true → r.2.2 = true → s.holds hp r.2.1.guard = true → s.hostBoot = true → r.2.1.rom = false →
          ∃ t, exec r.1 s = .next t ∧ completed s t hp d 7 ∧ same t))) ∧
    (accepted s hp d ⟨0, [], none, true⟩ true → ∃ t, exec (.cmdNop hp d) s = .next t ∧ completed s t hp d 0 ∧ counted s t (hifR hp 0x40) ∧ same t) ∧
    (hasTurn s hp → 13 ≤ opOf' d → ∃ t, exec (.cmdNop hp d) s = .next t ∧ completed s t hp d 1 ∧ same t)

/-- A row's command is accepted. -/
def acceptedRow (s : State) (hp : Fin 2) (d : Descriptor) (x : CmdInputs) (i : Instr) : Prop :=
  ∃ r ∈ commandRows hp d x, r.1 = i ∧ accepted s hp d r.2.1 r.2.2

/-- The RSA engine serves no command of the other port (R534). -/
abbrev rsaFree (s : State) (hp : Fin 2) : Prop := s.rsaCmd (peer hp) = none

/-- The other port's ATTEST waits for the measurements, and what comes to the RSA engine behind it waits with it (R532, R534). -/
abbrev rsaWaits (s : State) (hp : Fin 2) : Prop := s.mbusy = true ∧ ∃ b, s.rsaCmd (peer hp) = some b ∧ b.op = 10

/-- `LOAD_IMAGE` (R521, R522, R525, R528, R534, R538, R546, R547): behind an attestation that waits it waits; before its memory is ready it completes STATE, with a swap pending BUSY, on a host error HOSTERR; the ROM takes firmware only; a container refused completes REFUSED with its reason, counted; an image goes into the staged slot with its digest in M2; an enrolment sets the slot's bits; firmware goes into the flash copy that did not boot, or, from the ROM, starts; an unlock empties both slots, the cells' memories and queues and the Weight Store, draws new memory keys and opens debug at its level. -/
def loadImageRule : Prop :=
  ∀ (hp : Fin 2) (d : Descriptor) (x : CmdInputs) (s : State),
    let i : Instr := .loadImage hp d x.img x.ecc
    acceptedRow s hp d x i →
    let size := descWord d 2
    let mem := s.hostBoot = true ∨ s.disc.ready.getLsbD 2 = true
    (rsaWaits s hp → ∃ t, exec i s = .next t ∧ waits s t hp d ∧ t.slots = s.slots ∧ t.sec = s.sec ∧ t.cells = s.cells) ∧
    (rsaFree s hp → ¬mem → ∃ t, exec i s = .next t ∧ completed s t hp d 7 ∧ t.slots = s.slots ∧ t.sec = s.sec ∧ t.cells = s.cells) ∧
    (rsaFree s hp → mem → s.slots.swap.isSome = true → ∃ t, exec i s = .next t ∧ completed s t hp d 3 ∧ t.slots = s.slots ∧ t.sec = s.sec ∧ t.cells = s.cells) ∧
    (rsaFree s hp → mem → s.slots.swap = none →
      (x.img = none → ∃ t, exec i s = .next t ∧ completed s t hp d 6 ∧ t.slots.staged = none ∧ t.slots.active = s.slots.active ∧ t.cells = s.cells) ∧
      ∀ c, x.img = some c →
        (s.hostBoot = true → c.kind ≠ 3 → ∃ t, exec i s = .next t ∧ completed s t hp d 7 ∧ t.slots = s.slots ∧ t.sec = s.sec ∧ t.cells = s.cells) ∧
        ((s.hostBoot = false ∨ c.kind = 3) →
          (∀ r, s.refusedFor c size = some r → ∃ t, exec i s = .next t ∧ completed s t hp d 4 ∧ counted s t 0xC0080 ∧ t.slots.staged = none ∧
            t.slots.active = s.slots.active ∧ t.sec.enrolled = s.sec.enrolled ∧ t.sec.revoked = s.sec.revoked ∧ t.sec.flash = s.sec.flash ∧ t.cells = s.cells) ∧
          (s.refusedFor c size = none →
            (∀ m, c.payload = .image m → ∃ t, exec i s = .next t ∧ completed s t hp d 0 ∧
              t.slots.staged = some ⟨m, c.digest, c.signer, c.svn, c.advance⟩ ∧ t.slots.active = s.slots.active ∧ t.meas 2 = extendBy 0 c.digest ∧
              t.meas 1 = s.meas 1 ∧ t.cells = s.cells ∧ t.step = s.step) ∧
            (∀ slot op kh ik z, c.payload = .enrol slot op kh ik z → ∃ t, exec i s = .next t ∧ completed s t hp d 0 ∧
              t.sec.enrolled = (if op = 1 then s.sec.enrolled ||| BitVec.ofNat 4 (2 ^ slot) else s.sec.enrolled) ∧
              t.sec.revoked = (if op = 2 then s.sec.revoked ||| BitVec.ofNat 4 (2 ^ slot) else s.sec.revoked) ∧
              t.sec.reqsig = (s.sec.reqsig || op == 3) ∧
              t.meas 5 = extendBy (s.meas 5) c.digest ∧ t.slots.active = s.slots.active ∧ t.cells = s.cells ∧ t.step = s.step) ∧
            (∀ v, c.payload = .firmware v → s.hostBoot = false → ∃ t n, exec i s = .next t ∧ completed s t hp d 0 ∧
              t.sec.flash = (n, ⟨c.head, v, c.digest, true⟩) :: s.sec.flash.filter (fun p => p.1 != n) ∧ (∀ j, s.sec.booted = some j → n = 1 - j) ∧
              t.sec.fw = s.sec.fw ∧ t.sec.enrolled = s.sec.enrolled ∧ t.slots.active = s.slots.active ∧ t.cells = s.cells ∧ t.step = s.step) ∧
            (∀ v, c.payload = .firmware v → s.hostBoot = true → ∃ t, exec i s = .next t ∧ completed s t hp d 0 ∧ t.sec.running = true ∧ t.sec.fw = v ∧
              t.meas 0 = extendBy 0 c.digest ∧ (s.sec.trngFail = false → t.sec.memKeys.isSome = true) ∧ s.sec.svnFw ≤ t.sec.svnFw ∧
              t.sec.enrolled = s.sec.enrolled ∧ t.step = s.step) ∧
            (∀ ch sn l z, c.payload = .unlock ch sn l z → ∃ t, exec i s = .next t ∧ completed s t hp d 0 ∧
              t.sec.dbg = BitVec.ofNat 2 l.toNat ∧ t.sec.challenge = none ∧ t.sec.memKeys.isSome = true ∧ t.slots.active = none ∧ t.slots.staged = none ∧
              t.step.running = false ∧ (∀ y, (t.cell y).thatch = [] ∧ (t.cell y).cwm = [] ∧ ∀ q, (t.queue y q).words = []) ∧
              (∀ h, (t.host h).staged = []) ∧ t.weights = [] ∧ t.scm.mem = []))))

/-- `SWAP_SLOT` (R430, R431): STATE without memory or a staged image, or, where no open step is allowed, with one; BUSY with a swap pending; with a step open it waits for the step it names; with none the staged image becomes active at once and the former one staged. -/
def swapSlotRule : Prop :=
  ∀ (hp : Fin 2) (d : Descriptor) (x : CmdInputs) (s : State),
    let i : Instr := .swapSlot hp d x.ecc x.ups
    acceptedRow s hp d x i →
    let only := bitAt (descWord d 1) 32 = true ∧ s.step.running = true
    let able := s.disc.ready.getLsbD 2 = true ∧ s.slots.staged.isSome = true ∧ ¬only
    (¬able → ∃ t, exec i s = .next t ∧ completed s t hp d 7 ∧ t.slots = s.slots ∧ t.cells = s.cells) ∧
    (able → s.slots.swap.isSome = true → ∃ t, exec i s = .next t ∧ completed s t hp d 3 ∧ t.slots = s.slots ∧ t.cells = s.cells) ∧
    (able → s.slots.swap = none →
      (s.step.running = true → ∃ t, exec i s = .next t ∧ waits s t hp d ∧
        t.slots = { s.slots with swap := some (hp, BitVec.ofNat 32 (descWord d 1)) } ∧ t.cells = s.cells ∧ t.step = s.step ∧ t.regs = s.regs) ∧
      (s.step.running = false → ∀ y, s.slots.staged = some y → ∃ t, exec i s = .next t ∧ completed s t hp d 0 ∧ t.slots.active = some y ∧
        (y.advance = false → t.slots.staged = s.slots.active) ∧ t.meas 1 = extendBy 0 y.digest ∧
        (∀ e ∈ t.trk.table, e.2.valid = false) ∧ t.trk.idCtr = 1 ∧ ((∀ p ∈ x.ups, p.2.passes = true) → t.mesh = s.mesh)))

/-- The commands on images. -/
def Obligations.ImageCommands : Prop := loadImageRule ∧ swapSlotRule

/-- `START`, `STOP`, `SET_BUDGET` and `SET_PL` (R42, R43, R431, R471, R486): `START` needs an active image and a clutch in service and sets RUN for the steps and the image's cells; `STOP` clears RUN, at once where no step is open, else it is past its commit point and waits for the open step's ridge; `SET_BUDGET` writes the budget; `SET_PL` writes the named clutches' requests, in force at once where no step is open, and completes with its levels in force. -/
def Obligations.StepCommands : Prop :=
  ∀ (hp : Fin 2) (d : Descriptor) (x : CmdInputs) (s : State),
    (acceptedRow s hp d x (.cmdStart hp d) →
      ((s.slots.active = none ∨ (∀ c, (s.clutch c).inService = false)) → ∃ t, exec (.cmdStart hp d) s = .next t ∧ completed s t hp d 7 ∧ t.cells = s.cells ∧
        regsBut s t fun _ => false) ∧
      (s.slots.active.isSome = true → (∃ c, (s.clutch c).inService = true) → ∃ t, exec (.cmdStart hp d) s = .next t ∧ completed s t hp d 0 ∧ t.bit 0x204 0 = true ∧
        (∀ c ∈ s.imageCells, t.bit (celR c 0) 0 = true ∧ (t.clutch (clutchOf c)).gated = false ∧
          ((s.cell c).mode = .stopped → s.bit (celR c 0) 0 = false → (t.cell c).mode = .running)) ∧
        (∀ c, c ∉ s.imageCells → t.cell c = s.cell c) ∧ t.step = s.step ∧ t.mesh = s.mesh)) ∧
    (acceptedRow s hp d x (.cmdStop hp d) →
      (s.step.running = true → ∃ t a, exec (.cmdStop hp d) s = .next t ∧ waits s t hp d ∧ (t.host hp).cmd = some a ∧ a.committed = true ∧ t.reg 0x204 = 0 ∧
        t.step = { s.step with stopping := true, halting := true } ∧ t.cells = s.cells) ∧
      (s.step.running = false → ∃ t, exec (.cmdStop hp d) s = .next t ∧ completed s t hp d 0 ∧ t.reg 0x204 = 0 ∧
        (∀ c ∈ s.imageCells, (t.cell c).mode ≠ .running ∧ t.bit (celR c 0) 0 = false) ∧ (∀ c, c ∉ s.imageCells → t.cell c = s.cell c) ∧
        t.step = { s.step with refHz := t.step.refHz })) ∧
    (acceptedRow s hp d x (.setBudget hp d) → ∃ t, exec (.setBudget hp d) s = .next t ∧ completed s t hp d 0 ∧
      t.reg 0xA0000 = BitVec.ofNat 32 (descWord d 1) ∧ regsBut s t (fun k => k == 0xA0000) ∧ t.cells = s.cells ∧ t.step = s.step ∧ t.clutches = s.clutches) ∧
    (acceptedRow s hp d x (.setPl hp d) →
      let named (c : Fin 16) : Prop := bitAt (descWord d 1) (16 + c.val) = true
      let v := BitVec.ofNat 2 (descWord d 1)
      ∃ t, exec (.setPl hp d) s = .next t ∧ started s t hp ∧ (∀ c, named c → t.reg (0x90040 + 4 * c.val) = v.setWidth 32) ∧
        (∀ c, ¬named c → t.reg (0x90040 + 4 * c.val) = s.reg (0x90040 + 4 * c.val)) ∧ t.step = s.step ∧
        (s.step.running = true → t.clutches = s.clutches ∧ (if s.levelsMet d = true then completed s t hp d 0 else waits s t hp d)) ∧
        (s.step.running = false → completed s t hp d 0 ∧ ∀ c, named c → (t.clutch c).level = if v ≤ (s.clutch c).cap then v else (s.clutch c).cap))

/-- `TABLE_WRITE` (R108, R427): BUSY while its block's swap is armed or copied back, HOSTERR on a host error; else each word of the run goes into the shadow bank as its table stores it, or is refused, no other word of that table and no other table changing. -/
def tableWriteRule : Prop :=
  ∀ (hp : Fin 2) (d : Descriptor) (x : CmdInputs) (s : State),
    let i : Instr := .tableWrite hp d x.words
    acceptedRow s hp d x i →
    let p : Fin 16 := ⟨bitsOf (descWord d 1) 11 8 % 16, Nat.mod_lt _ (by decide)⟩
    let kind := bitsOf (descWord d 1) 15 12
    let first := descWord d 3 % 2 ^ 32
    let fusion := descWord d 1 % 256 = 5
    let busy := if fusion then s.fusSwap.busy else s.inkSwap.busy
    (busy = true → ∃ t, exec i s = .next t ∧ completed s t hp d 3 ∧ t.ports = s.ports ∧ t.fus = s.fus) ∧
    (busy = false → x.words = none → ∃ t, exec i s = .next t ∧ completed s t hp d 6 ∧ t.ports = s.ports ∧ t.fus = s.fus) ∧
    (busy = false → ∀ l, x.words = some l → ∃ t, exec i s = .next t ∧ completed s t hp d 0 ∧
      (let ws := l.take (descWord d 3 / 2 ^ 32)
       let old (i : Nat) : Word := if fusion then assocGet (s.fus.shadow.get kind) 0 i else assocGet ((s.port p).shadow.get kind) 0 i
       let new (i : Nat) : Word := if fusion then assocGet (t.fus.shadow.get kind) 0 i else assocGet ((t.port p).shadow.get kind) 0 i
       (∀ i w, ws[i]? = some w → new (first + i) = match (if fusion then some w.toNat else storedWord kind (first + i) w.toNat) with
         | some v => BitVec.ofNat 32 v
         | none => old (first + i)) ∧
       (∀ i, (i < first ∨ first + ws.length ≤ i) → new i = old i)) ∧
      (fusion → t.ports = s.ports ∧ t.fus.active = s.fus.active) ∧
      (¬fusion → t.fus = s.fus ∧ (∀ n, n ≠ p → t.port n = s.port n) ∧ (t.port p).active = (s.port p).active) ∧ t.cells = s.cells ∧ t.step = s.step)

/-- `SNAPSHOT`, `RETRIEVE`, `ATTEST` and `QUERY` (R394, R428, R532 to R535, R553): a snapshot waits for the state it copies; a retrieval is accepted where Scene Memory is ready, enabled, not erasing, has a retrieval clutch and fewer than 64 are open; an attestation and a query of measurements wait while a measurement is being recomputed, and else write 1,720 and 240 bytes; a query of the identity writes 544 bytes. -/
def dataCommandRule : Prop :=
  ∀ (hp : Fin 2) (d : Descriptor) (x : CmdInputs) (s : State),
    let slow := s.mbusy = true ∧ ∀ b, s.rsaCmd (peer hp) = some b → b.op = 10
    (acceptedRow s hp d x (.snapshot hp d) → ∃ t, exec (.snapshot hp d) s = .next t ∧ waits s t hp d ∧ t.regs = s.regs ∧ t.cnt = s.cnt ∧
      t.cells = s.cells ∧ t.step = s.step ∧ t.slots = s.slots ∧ t.fus = s.fus ∧ t.trk = s.trk ∧ t.scm = s.scm ∧ t.pwr = s.pwr ∧ t.sec = s.sec) ∧
    (acceptedRow s hp d x (.retrieve hp d x.bytes) →
      let run := exec (.retrieve hp d x.bytes) s
      let able := s.scm.erasing = false ∧ s.scmOn = true ∧ s.retrievalClutches ≠ [] ∧ s.openRetrievals.length < 64
      (s.disc.ready.getLsbD 5 = false → ∃ t, run = .next t ∧ completed s t hp d 7 ∧ t.scm = s.scm) ∧
      (s.disc.ready.getLsbD 5 = true → ¬able → ∃ t, run = .next t ∧ completed s t hp d (if s.scm.erasing then 3 else 7) ∧ t.scm = s.scm) ∧
      (s.disc.ready.getLsbD 5 = true → able → x.bytes = none → ∃ t, run = .next t ∧ completed s t hp d 6 ∧ t.scm = s.scm) ∧
      (s.disc.ready.getLsbD 5 = true → able → ∀ q, x.bytes = some q → ∃ t r, run = .next t ∧ completed s t hp d 0 ∧
        t.scm = { s.scm with retrievals := s.scm.retrievals ++ [r], gated := false } ∧ r.rid = BitVec.ofNat 16 (descWord d 1) ∧
        r.k = bitsOf (descWord d 1) 24 16 ∧ r.rmax = bitsOf (descWord d 1) 55 48 ∧ r.gmask = BitVec.ofNat 16 (bitsOf (descWord d 1) 47 32) ∧
        r.query = q.take 96 ∧ r.snap = none ∧ r.isOpen = true ∧ t.cells = s.cells ∧ t.step = s.step)) ∧
    (acceptedRow s hp d x (.attest hp d x.bytes) →
      let run := exec (.attest hp d x.bytes) s
      ((s.sec.dbg = 2 ∨ s.sec.trngFail = true) → ∃ t, run = .next t ∧ completed s t hp d 7 ∧ t.sec = s.sec) ∧
      (s.sec.dbg ≠ 2 → s.sec.trngFail = false → x.bytes = none → ∃ t, run = .next t ∧ completed s t hp d 6 ∧ t.sec = s.sec) ∧
      (s.sec.dbg ≠ 2 → s.sec.trngFail = false → ∀ nonce, x.bytes = some nonce →
        (slow → ∃ t, run = .next t ∧ waits s t hp d ∧ t.sec = s.sec ∧ t.cells = s.cells ∧ t.cnt = s.cnt) ∧
        (s.mbusy = false → rsaFree s hp → ∃ t out, run = .next t ∧ completed s t hp d 0 ∧ HostWrite.data hp (descWord d 2) out ∈ t.hostOut ∧
          out.length = 1720 ∧ out.take 8 = natLe 4 0x41545331 ++ natLe 4 1720 ∧ (∀ i, i < 32 → out.getD (8 + i) 0 = nonce.getD i 0) ∧
          (out.drop 72).take 240 = s.measureBytes ∧ t.sec = s.sec ∧ t.cells = s.cells ∧ t.step = s.step))) ∧
    (acceptedRow s hp d x (.cmdQuery hp d) →
      let run := exec (.cmdQuery hp d) s
      (descWord d 1 = 0 → ∃ t, run = .next t ∧ completed s t hp d 0 ∧ HostWrite.data hp (descWord d 2) s.identityBytes ∈ t.hostOut ∧
        s.identityBytes.length = 544 ∧ t.cells = s.cells ∧ t.step = s.step ∧ t.sec = s.sec) ∧
      (descWord d 1 = 1 → slow → ∃ t, run = .next t ∧ waits s t hp d ∧ t.sec = s.sec ∧ t.cells = s.cells ∧ t.cnt = s.cnt) ∧
      (descWord d 1 = 1 → s.mbusy = false → rsaFree s hp → ∃ t, run = .next t ∧ completed s t hp d 0 ∧
        HostWrite.data hp (descWord d 2) s.measureBytes ∈ t.hostOut ∧ s.measureBytes.length = 240 ∧ t.cells = s.cells ∧ t.step = s.step ∧ t.sec = s.sec) ∧
      (descWord d 1 = 2 → ∃ t out, run = .next t ∧ completed s t hp d 0 ∧ HostWrite.data hp (descWord d 2) out ∈ t.hostOut ∧
        t.cells = s.cells ∧ t.step = s.step ∧ t.sec = s.sec))

/-- The commands that move data. -/
def Obligations.DataCommands : Prop := tableWriteRule ∧ dataCommandRule

/-! ## Retrievals and association (13, 14) -/

/-- A hub streams what its share has left to its retrieval cell, as room allows, and touches no other cell (R391); while another retrieval stands half streamed at it, nothing happens. -/
def shareRule : Prop :=
  ∀ (cl : Fin 16) (rid : BitVec 16) (lost : List Nat) (s : State),
    let p (r : Retrieval) : Bool := r.live rid && r.shares.any fun h => h.clutch == cl && h.streaming
    let found := s.scm.retrievals.find? p
    ((s.clocked = false ∨ s.otherStreaming cl rid = true ∨ found = none) → exec (.retrievalShareStream cl rid lost) s = .next s) ∧
    ∀ r h, s.clocked = true → s.otherStreaming cl rid = false → found = some r → (r.shares.find? fun h => h.clutch == cl) = some h →
      let c := cellOf cl ⟨s.fld 0x70014 19 16 % 16, Nat.mod_lt _ (by decide)⟩
      ∃ t y, exec (.retrievalShareStream cl rid lost) s = .next t ∧ y.clutch = cl ∧ y.buckets = h.buckets ∧ h.stage ≤ y.stage ∧
        t.scm = { s.scm with retrievals := putRet s.scm.retrievals p { r with shares := putShare r.shares y } } ∧ (t.clutch cl).gated = false ∧
        (s.isHosted c = false → s.hasRoute c = false → y = h ∧ t.cells = s.cells) ∧
        (s.isHosted c = false → ∀ d, d ≠ c → t.cell d = s.cell d) ∧ t.step = s.step ∧ t.regs = s.regs ∧ t.mesh = s.mesh

/-- A PARTIAL item adds its entries to its share, the last one its count of buckets (R392); an item that is none waits for its own command. Once every share has reported, the merged list becomes the result, in rank order and at most K long, of entries whose slots still hold the tokens they name (R396, R397); after RMAX ridges the result is a timeout (R398). -/
def mergeRule : Prop :=
  (∀ s : State, (s.clocked = false ∨ ∀ i ∈ s.scm.inbox.head?, s.isPartial i = false) → exec .partialItem s = .next s) ∧
  (∀ (s : State) (i : BridgeItem) (rest : List BridgeItem), s.clocked = true → s.scm.inbox = i :: rest → s.isPartial i = true →
    let w := itemWord i.words 0
    let p (r : Retrieval) : Bool := r.live (BitVec.ofNat 16 (bitsOf w 47 32)) && r.shares.any fun h => h.clutch == clutchOf i.cell && h.scanned.isNone
    (s.scm.retrievals.find? p = none → exec .partialItem s = .next { s with scm := { s.scm with inbox := rest } }) ∧
    let add (h : Share) : Share :=
      if h.clutch = clutchOf i.cell then
        { h with entries := h.entries ++ partialEntries i.words, scanned := if bitAt w 59 then some (bitsOf w 31 16) else none }
      else h
    ∀ r, s.scm.retrievals.find? p = some r → exec .partialItem s = .next { s with scm := { s.scm with
      inbox := rest, retrievals := putRet s.scm.retrievals p { r with shares := r.shares.map add } } }) ∧
  ∀ (rid : BitVec 16) (lost : List Nat) (s : State),
    let live (r : Retrieval) : Bool := s.clocked && r.live rid
    let ended (r : Retrieval) : Bool := live r && decide (r.ridges < r.rmax) && r.shares.all fun h => h.scanned.isSome
    let late (r : Retrieval) : Bool := live r && decide (r.rmax ≤ r.ridges)
    (s.scm.retrievals.find? ended = none → exec (.retrievalMergeComplete rid lost) s = .next s) ∧
    (∀ r, s.scm.retrievals.find? ended = some r → ∃ (t : State) (l : List Scored), exec (.retrievalMergeComplete rid lost) s = .next t ∧
      t.scm = { s.scm with retrievals := putRet s.scm.retrievals ended { r with ended := some (.ok, r.scannedSum, l.map fun x => (x.words, x.score)) } } ∧
      l.length ≤ r.k ∧ l.Pairwise (fun a b => Scored.before b a = false) ∧
      (∀ x ∈ l, ∃ h ∈ r.shares, ∃ e ∈ h.entries, x = ⟨e.1, e.2.2, s.slotWords e.1⟩ ∧ tokWseq (s.slotWords e.1) = e.2.1 ∧ e.1 ∉ lost) ∧
      counted s t 0x70058 ∧ t.cells = s.cells ∧ t.step = s.step ∧ t.regs = s.regs) ∧
    (s.scm.retrievals.find? late = none → exec (.retrievalTimeout rid) s = .next s) ∧
    (∀ r, s.scm.retrievals.find? late = some r → ∃ t, exec (.retrievalTimeout rid) s = .next t ∧
      t.scm = { s.scm with retrievals := putRet s.scm.retrievals late { r with ended := some (.timeout, r.scannedSum, []) } } ∧ counted s t 0x70058 ∧
      t.cells = s.cells ∧ t.step = s.step ∧ t.regs = s.regs)

/-- `TRACK_ASSOCIATION` (R358, R360): of the waiting steps those that lie more than eight behind the open step are discarded with their observations; the oldest other is associated, no older one waits, its observations are spent, and the Track Manager is behind while another waits behind it; with none waiting, and with its clock stopped, nothing happens. -/
def associationRule : Prop :=
  ∀ (ecc : Ecc) (s : State),
    let old (k : Nat × Nat) : Prop := s.step.running = true ∧ k.1 + 8 < s.step.k
    ((s.clocked = false ∨ s.trk.waiting = []) → exec (.trackAssociation ecc) s = .next s) ∧
    (s.clocked = true → s.trk.waiting ≠ [] → (∀ k ∈ s.trk.waiting, old k) → ∃ t, exec (.trackAssociation ecc) s = .next t ∧ t.trk.waiting = [] ∧
      t.trk.behind = false ∧ (∀ k ∈ s.trk.waiting, assocGet t.trk.obs [] k.1 = []) ∧ t.trk.lastAssoc = s.trk.lastAssoc ∧ t.cells = s.cells ∧ t.step = s.step ∧
      t.mesh = s.mesh ∧ t.scm = s.scm) ∧
    ∀ past k rest, s.clocked = true → s.trk.waiting = past ++ k :: rest → (∀ j ∈ past, old j) → ¬old k →
      ∃ t, exec (.trackAssociation ecc) s = .next t ∧ t.trk.waiting = rest ∧ t.trk.lastAssoc = some k.1 ∧
        (∀ j ∈ past ++ [k], assocGet t.trk.obs [] j.1 = []) ∧ (∀ n, (∀ j ∈ past ++ [k], n ≠ j.1) → assocGet t.trk.obs [] n = assocGet s.trk.obs [] n) ∧
        t.trk.behind = decide (2 ≤ rest.length) ∧ t.cells = s.cells ∧ t.step = s.step ∧ t.mesh = s.mesh ∧ t.scm = s.scm

/-- Retrievals of Scene Memory and the association of tracks. -/
def Obligations.RetrievalResult : Prop := shareRule ∧ mergeRule ∧ associationRule

/-! ## Power (17) -/

/-- The POWER command (R480 to R482): STATE with a swap pending, BUSY while a level changes; awake, S0 and S1 are taken at once, abandoning a pending entry, and a sleep state begins its entry, E1 being reached at once where no step is open, or takes over the pending one; asleep, S0 and S1 begin the exit, the state the device is in completes at once, and S3 from S2 commits at once; between a commit and its state, and during an exit, the request is queued or, for S0 and S1 during an exit, becomes its target. -/
def powerCommandRule : Prop :=
  ∀ (hp : Fin 2) (d : Descriptor) (x : CmdInputs) (s : State), acceptedRow s hp d x (.cmdPower hp d) →
    let run := exec (.cmdPower hp d) s
    let v := BitVec.ofNat 2 (descWord d 1)
    let mask := BitVec.ofNat 4 (bitsOf (descWord d 1) 11 8)
    let w := s.pwr
    let able := s.slots.swap = none ∧ (∀ c, (s.clutch c).chg = false) ∧ w.owner ≠ some hp ∧ w.qOwner ≠ some hp
    let done (p : Power) : Prop := ∃ t, run = .next t ∧ completed s t hp d 0 ∧ t.pwr = p ∧ t.cells = s.cells
    let waiting (p : Power) : Prop := ∃ t, run = .next t ∧ waits s t hp d ∧ t.pwr = p ∧ t.cells = s.cells
    (s.slots.swap.isSome = true → ∃ t, run = .next t ∧ completed s t hp d 7 ∧ t.pwr = s.pwr) ∧
    (s.slots.swap = none → (∃ c, (s.clutch c).chg = true) → ∃ t, run = .next t ∧ completed s t hp d 3 ∧ t.pwr = s.pwr) ∧
    (able → s.awake = true → w.committed = false →
      (w.entry = none →
        (v.toNat < 2 → done { w with state := v }) ∧
        (2 ≤ v.toNat → waiting { w with entry := some v, owner := some hp, entryMask := mask, point := if s.step.running then 0 else 1, committed := false })) ∧
      (w.entry.isSome = true →
        (v.toNat < 2 → done { w with state := v, entry := none, owner := none, entryMask := 0, point := 0 }) ∧
        (2 ≤ v.toNat → waiting { w with entry := some v, owner := some hp, entryMask := mask }))) ∧
    (able → s.awake = false → w.committed = false → w.waking = none →
      (v.toNat < 2 → done { w with waking := some v, wakeSrc := 3, wakePins := 0 }) ∧
      (2 ≤ v.toNat → v = w.state → done w) ∧
      (v = 3 → w.state = 2 → done { w with entry := some 3, owner := none, entryMask := mask, point := 4, committed := true, lastClosed := s.lastClosedIdx })) ∧
    (able → w.committed = true →
      (v.toNat < 2 → done { w with queued := some v, qOwner := none, qMask := 0, wakePend := false, wakeSrc := 3, wakePins := 0 }) ∧
      (2 ≤ v.toNat → waiting { w with queued := some v, qOwner := some hp, qMask := mask, wakePend := false })) ∧
    (able → s.awake = false → w.committed = false → w.waking.isSome = true →
      (v.toNat < 2 → done { w with queued := none, qOwner := none, waking := some v, wakeSrc := 3, wakePins := 0 }) ∧
      (2 ≤ v.toNat → waiting { w with queued := some v, qOwner := some hp, qMask := mask, wakePend := false }))

/-- Entering S2 and S3 (R440, R473, R478 to R482, R505): drained after E1 the device passes E2, then E3; the limit of E2 abandons the entry; E4 commits it, completes its command and, for S3, takes the links down; the state reached, the fault pins stand at fault and the zone pins low, and what was queued is acted on: a shallower target is exited to, S3 from S2 is committed at once, and the state asked for again completes its command. -/
def powerEntryRule : Prop :=
  ∀ s : State,
    let w := s.pwr
    (w.entry.isSome = true → w.point = 1 → s.drained = true → exec .powerE2Reached s = .next { s with pwr := { w with point := 2 } }) ∧
    (w.entry.isSome = true → w.point = 2 → exec .powerE2Reached s = .next { s with pwr := { w with point := 3 } }) ∧
    ((w.entry = none ∨ (w.point ≠ 1 ∧ w.point ≠ 2) ∨ (w.point = 1 ∧ s.drained = false)) → exec .powerE2Reached s = .next s) ∧
    (∀ v, w.entry = some v → w.point = 1 → w.committed = false → ∃ t, exec .e2LimitExpiry s = .next t ∧
      t.pwr = { w with entry := none, owner := none, entryMask := 0, point := 0 } ∧ t.step.intakeStopped = false ∧ counted s t 0x90080 ∧
      (∀ h, w.owner = some h → (t.host h).cmd = none) ∧ t.cells = s.cells) ∧
    ((w.point ≠ 1 ∨ w.entry = none ∨ w.committed = true) → exec .e2LimitExpiry s = .next s) ∧
    (∀ v, w.entry = some v → (w.point = 2 ∨ w.point = 3) → w.committed = false → ∃ t, exec .powerCommit s = .next t ∧
      t.pwr = { w with point := 4, committed := true, owner := none, lastClosed := s.lastClosedIdx } ∧ (∀ h, w.owner = some h → (t.host h).cmd = none) ∧
      (v = 3 → ∀ h, (t.host h).up = false) ∧ (v ≠ 3 → ∀ h, (t.host h).up = (s.host h).up) ∧ t.cells = s.cells ∧ t.step = s.step ∧ t.pins.zone = s.pins.zone) ∧
    ((w.entry = none ∨ (w.point ≠ 2 ∧ w.point ≠ 3) ∨ w.committed = true) → exec .powerCommit s = .next s) ∧
    (∀ v, w.entry = some v → w.committed = true →
      let u : Power := { w with state := v, entry := none, committed := false }
      let free : Power := { u with queued := none, qOwner := none, qMask := 0, wakePend := false }
      ∃ t, exec .sleepStateReached s = .next t ∧ t.pins = { t.pins with faultA := false, faultB := true, zone := 0 } ∧ t.saf.noFault = false ∧
        t.cells = s.cells ∧ t.step = s.step ∧ (w.queued = none → t.pwr = u) ∧
        ∀ q, w.queued = some q →
          (q.toNat < 2 → t.pwr = { free with waking := some q }) ∧
          (2 ≤ q.toNat → ∀ h, w.qOwner = some h → (t.host h).cmd = none) ∧
          (2 ≤ q.toNat → q = v → t.pwr = free) ∧
          (q = 3 → v = 2 → t.pwr = { free with entry := some 3, owner := none, entryMask := w.qMask, point := 4, committed := true, lastClosed := s.lastClosedIdx } ∧
            ∀ h, (t.host h).up = false) ∧
          (q = 2 → v = 3 → t.pwr = { free with wakeSrc := 3, wakePins := 0, entryMask := w.qMask, waking := some 2 })) ∧
    ((w.entry = none ∨ w.committed = false) → exec .sleepStateReached s = .next s)

/-- The way into a sleep state. -/
def Obligations.PowerEntryResult : Prop := powerCommandRule ∧ powerEntryRule

/-- What a wake request does (R475, R476, R480, R481): after the commit of an entry it is queued, for S0, in place of what was; before, it abandons the entry; awake it is without effect; asleep it begins the exit to S0, and during an exit it makes S0 the target and drops what was queued. -/
def wakeAsked (s t : State) (src pins : BitVec 4) : Prop :=
  let w := s.pwr
  t.cells = s.cells ∧ t.mesh = s.mesh ∧
  (w.committed = true → t.pwr = { w with queued := some 0, qOwner := none, qMask := 0, wakePend := true, wakeSrc := src, wakePins := pins } ∧
    ∀ h, w.qOwner = some h → (t.host h).cmd = none) ∧
  (w.committed = false → w.entry.isSome = true → t.pwr = { w with entry := none, owner := none, entryMask := 0, point := 0 } ∧
    t.step.intakeStopped = false ∧ counted s t 0x90080 ∧ ∀ h, w.owner = some h → (t.host h).cmd = none) ∧
  (w.committed = false → w.entry = none →
    (s.awake = true → t = s) ∧
    (s.awake = false → w.waking = none → t = { s with pwr := { w with waking := some 0, wakeSrc := src, wakePins := pins } }) ∧
    (s.awake = false → ∀ u, w.waking = some u →
      t.pwr = { w with queued := none, qOwner := none, waking := some 0, wakeSrc := if u = 2 then src else w.wakeSrc, wakePins := if u = 2 then pins else w.wakePins } ∧
      ∀ h, w.qOwner = some h → (t.host h).cmd = none))

/-- Leaving S2 and S3 (R186, R475 to R477, R481, R483, R506): an enabled pin at its active level, and in S2 an access to a block in retention, asks for a wake; the exit's end is the state asked for, with the state left, the pins and the source in `PWR_LAST_WAKE` and the lost Thatch banks zero, and, where that state is S0 or S1, the Intake open, the wait of R506 anew and the entry that was queued begun. -/
def Obligations.WakeResult : Prop :=
  (∀ (n : Fin 4) (levels : BitVec 4) (s : State),
    let active := levels ^^^ BitVec.ofNat 4 (s.fld 0x90004 11 8)
    let enabled := if s.pwr.entryMask = 0 then s.bit 0x90004 n.val else s.pwr.entryMask.getLsbD n.val
    ((enabled = false ∨ active.getLsbD n.val = false) → exec (.wakePin n levels) s = .next s) ∧
    (enabled = true → active.getLsbD n.val = true → ∃ t, exec (.wakePin n levels) s = .next t ∧ wakeAsked s t 1 active)) ∧
  (∀ (hp : Fin 2) (off : Nat) (s : State),
    let sleeps := (s.host hp).up = true ∧ s.pwr.state ≠ 3 ∧ s.clocked = false ∧ 0x20000 ≤ off ∧ (off < 0x90000 ∨ 0xD0000 ≤ off)
    (¬sleeps → exec (.hostAccessWake hp off) s = .next s) ∧
    (sleeps → ∃ t, exec (.hostAccessWake hp off) s = .next t ∧ wakeAsked s t 2 0)) ∧
  ∀ (w : WakeInputs) (s : State), (s.pwr.waking = none → exec (.wakeComplete w) s = .next s) ∧
    ∀ v, s.pwr.waking = some v → (∀ h, (s.host h).late = []) → ∃ t, exec (.wakeComplete w) s = .next t ∧
      (∀ d b, (d, b) ∈ w.lostT → ∀ a, bankOf .thatch a = b.val → memRead (t.cell d).thatch a = 0) ∧
      (∀ d, (∀ b, (d, b) ∉ w.lostT) → (t.cell d).thatch = (s.cell d).thatch) ∧ (∀ d, (t.cell d).sreg = (s.cell d).sreg) ∧ t.mesh = s.mesh ∧
      ((v.toNat < 2 ∨ s.pwr.queued = none) → t.pwr.state = v ∧ t.pwr.waking = none ∧ t.pwr.lastWake.toNat % 16 = s.pwr.wakeSrc.toNat ∧
        t.pwr.lastWake.toNat / 256 = s.pwr.state.toNat ∧
        t.pwr.lastWake.toNat / 16 % 16 = (if s.pwr.wakeSrc = 1 then s.pwr.wakePins else w.pins ^^^ BitVec.ofNat 4 (s.fld 0x90004 11 8)).toNat) ∧
      (v.toNat < 2 → t.saf.ridgeSince = false ∧ t.saf.sentSince = 0 ∧
        (s.pwr.queued = none → t.pwr.point = 0 ∧ t.pwr.entry = s.pwr.entry ∧ t.step.intakeStopped = false) ∧
        ∀ q, s.pwr.queued = some q → t.pwr.entry = some q ∧ t.pwr.owner = s.pwr.qOwner ∧ t.pwr.entryMask = s.pwr.qMask ∧ t.pwr.queued = none)

/-- Performance levels (R469, R470, R472, R474): a request is written, and in force at once, under the cap, where no step is open; a switch ends; a reading at the limit or above takes every cap one level down, one below it by the hysteresis one level up, and the levels follow; in S1 an idle clutch gates its clock, and an idle Scene Memory and Track Manager with it. -/
def Obligations.LevelResult : Prop :=
  (∀ (hp : Fin 2) (cl : Fin 16) (v : BitVec 2) (s : State), mayWrite s hp (0x90040 + 4 * cl.val) → ∃ t, exec (.levelRequestWrite hp cl v) s = .next t ∧
    t.reg (0x90040 + 4 * cl.val) = v.setWidth 32 ∧ regsBut s t (fun k => k == 0x90040 + 4 * cl.val) ∧ t.step = s.step ∧
    (s.step.running = true → t.clutches = s.clutches) ∧
    (s.step.running = false → s.reg (0x90040 + 4 * cl.val) ≠ v.setWidth 32 → (t.clutch cl).level = if v ≤ (s.clutch cl).cap then v else (s.clutch cl).cap)) ∧
  (∀ (cl : Fin 16) (s : State), exec (.levelSwitchDone cl) s = .next (s.modClutch cl fun x => { x with chg := false })) ∧
  (∀ (sensor tj : Byte) (s : State), (s.pwr.state = 3 → exec (.thermalSample sensor tj) s = .next s) ∧
    (s.pwr.state ≠ 3 → ∃ t, exec (.thermalSample sensor tj) s = .next t ∧ t.pwr = { s.pwr with temp := BitVec.ofNat 32 (sensor.toNat * 256 + tj.toNat) } ∧
      let limit : Int := s.fld 0x90014 7 0
      let hyst : Int := s.fld 0x90014 15 8
      let cap (c : Fin 16) : Nat := (s.clutch c).cap.toNat
      (∀ c, (t.clutch c).cap.toNat = if limit ≤ tj.toInt then cap c - 1 else if tj.toInt ≤ limit - hyst then min 3 (cap c + 1) else cap c) ∧
      (∀ c, (t.clutch c).cap ≠ (s.clutch c).cap → (t.clutch c).level = if (s.clutch c).req ≤ (t.clutch c).cap then (s.clutch c).req else (t.clutch c).cap) ∧
      ((s.fld 0xB0020 7 0 : Int) ≤ tj.toInt → t.saf.hot = true ∧ (s.saf.hot = false → t.saf.latched.getLsbD 8 = true)) ∧
      (tj.toInt < (s.fld 0xB0020 7 0 : Int) → t.saf.hot = false ∧ t.saf.live.getLsbD 8 = false ∧ t.saf.latched = s.saf.latched) ∧
      (∀ c, (t.cell c).sreg = (s.cell c).sreg ∧ (t.cell c).mode = (s.cell c).mode) ∧ t.step = s.step)) ∧
  ∀ (cl : Fin 16) (s : State),
    let idle := s.hubIdle cl = true ∧ ∀ i : Fin 16, (s.cell (cellOf cl i)).idle = true
    let blocks : State := { s with scm := { s.scm with gated := s.scm.gated || s.scmIdle }, trk := { s.trk with gated := s.trk.gated || s.trkIdle } }
    (s.pwr.state = 1 → idle → exec (.clutchClockGate cl) s = .next (blocks.modClutch cl fun x => { x with gated := true })) ∧
    (s.pwr.state = 1 → ¬idle → exec (.clutchClockGate cl) s = .next blocks) ∧
    (s.pwr.state ≠ 1 → exec (.clutchClockGate cl) s = .next s)

/-! ## Safety and security (18 to 20) -/

/-- Sentinels (R498, R500): the timer starts a run in every cell that stands in its place and runs, stops or has stopped; a run that passes ends, counted, and changes nothing else of its cell; a failed engine or loopback fails the cell, disagreeing comparators and a hub without runs take the clutch out. -/
def sentinelRule : Prop :=
  (∀ s : State, (s.awake = true → s.clocked = true → ∃ t, exec .sentinelTimerExpiry s = .next t ∧
      (∀ c, t.cell c = { s.cell c with sentinel := (s.cell c).sentinel || (!(s.cell c).removed &&
        ((s.cell c).mode == .running || (s.cell c).mode == .stopped || (s.cell c).mode == .stopping)) }) ∧
      (∀ cl, t.clutch cl = { s.clutch cl with gated := false }) ∧ t.step = s.step ∧ t.pins = s.pins ∧ t.regs = s.regs ∧ t.cnt = s.cnt) ∧
    ((s.awake = false ∨ s.clocked = false) → exec .sentinelTimerExpiry s = .next s)) ∧
  (∀ (c : Fin 256) (s : State), (s.cell c).sentinel = true →
    (∃ t, exec (.sentinelRunComplete c .pass) s = .next t ∧ t.cell c = { s.cell c with sentinel := false } ∧ counted s t 0xB0088 ∧
      (∀ d, d ≠ c → t.cell d = s.cell d) ∧ t.pins = s.pins ∧ t.step = s.step ∧ t.regs = s.regs) ∧
    ((s.cell c).removed = false →
      (∀ d, ∃ t, exec (.sentinelRunComplete c (.engine d)) s = .next t ∧ counted s t 0xB008C ∧ (t.cell c).mode = .faulted ∧ (t.cell c).cause = 6 ∧
        t.hasRoute c = false ∧ t.step = s.step) ∧
      ∀ i ∈ [Instr.sentinelRunComplete c .loopback, .sentinelLoopbackTimeout c], ∃ t, exec i s = .next t ∧ counted s t 0xB008C ∧
        (t.cell c).mode = .faulted ∧ (t.cell c).cause = 7 ∧ t.hasRoute c = false ∧
        (∀ p : Fin 256, s.positionOf c = some p → t.disc.tests[p.val] = .routerDead) ∧ t.step = s.step) ∧
    ∃ t, exec (.sentinelRunComplete c .comparators) s = .next t ∧ (t.clutch (clutchOf c)).inService = false ∧
      (∀ i, t.hasRoute (cellOf (clutchOf c) i) = false) ∧ t.step = s.step) ∧
  (∀ (c : Fin 256) (r : SentinelResult) (s : State), (s.cell c).sentinel = false →
    exec (.sentinelRunComplete c r) s = .next s ∧ exec (.sentinelLoopbackTimeout c) s = .next s) ∧
  ∀ (cl : Fin 16) (s : State),
    (s.awake = true → (s.clutch cl).inService = true → ∃ t, exec (.hubSentinelTimeout cl) s = .next t ∧ (t.clutch cl).inService = false ∧
      (∀ i, t.hasRoute (cellOf cl i) = false ∧ (t.cell (cellOf cl i)).removed = true) ∧
      ((s.clutch cl).served = true → t.saf.latched.getLsbD 1 = true) ∧ t.step = s.step) ∧
    ((s.awake = false ∨ (s.clutch cl).inService = false) → exec (.hubSentinelTimeout cl) s = .next s)

/-- A DEVICE or FATAL fault of bit b has been detected: counted, latched, and, not having been latched, the fault pins driven and the zone pins low (R495, R496, R507). -/
def faulted (s t : State) (b : Nat) : Prop :=
  counted s t 0xB0080 ∧ t.saf.latched = s.saf.latched ||| BitVec.ofNat 32 (2 ^ b) ∧ t.saf.seq = s.saf.seq + 1 ∧
  (s.saf.latched.getLsbD b = false → t.pins = { t.pins with faultA := false, faultB := true, zone := 0 })

/-- Monitors (R497, R502, R504, R508, R516): a readback that differs is fault 0x27 with its pin, present for as long as the pin stays wrong; a lost clock 0x31, a supply out of range 0x32, a Steward lockstep mismatch 0x30 and an error beyond correction in its memory 0x33 are FATAL: every cell is disabled; corrected errors of its memory are counted. -/
def monitorRule : Prop :=
  (∀ (pin : Fin 8) (lasts : Bool) (s : State), (pin = 3 → exec (.outputReadbackFault pin lasts) s = .next s) ∧
    (pin ≠ 3 → ∃ t, exec (.outputReadbackFault pin lasts) s = .next t ∧ faulted s t 7 ∧ t.cells = s.cells ∧ t.step = s.step ∧
      t.pins.held = s.pins.held.filter (fun p => p.1 != pin) ++ (if lasts then [(pin, !s.pinLevel pin)] else []))) ∧
  ∀ (domain : Fin 7) (rail : BitVec 16) (s : State),
    let known := rail.toNat < 14 ∨ (0x100 ≤ rail.toNat ∧ rail.toNat < 0x110)
    (¬known → exec (.supplyMonitorFault rail) s = .next s) ∧
    (∀ n, exec (.stewardLockstepFault (.corrected n)) s = .next (s.bump 0xB0090 n)) ∧
    ∀ r ∈ [(Instr.clockMonitorFault domain, 17, True), (.supplyMonitorFault rail, 18, known), (.stewardLockstepFault .lockstep, 16, True),
        (.stewardLockstepFault .memory, 19, True)], r.2.2 →
      ∃ t, exec r.1 s = .next t ∧ faulted s t r.2.1 ∧ t.fatal = true ∧ t.step = s.step ∧ t.mesh = s.mesh ∧
        (s.saf.latched.getLsbD r.2.1 = false → ∀ c, (t.cell c).mode = .faulted ∧ t.bit (celR c 0) 0 = false) ∧
        (s.saf.latched.getLsbD r.2.1 = true → t.cells = s.cells)

/-- Arming, clearing and the configuration scan (R457 to R459, R497, R506 to R508): a write of ARM drives the fault levels; a clear takes out the causes named that are latched and no longer present, and is counted where one is present; an upset of a CFG bit or of a parity bit makes a register's parity disagree where it agreed; a scan finds each register whose parity disagrees, raises fault 0x24 for it and keeps the first such address, and one that finds none ends the cause. -/
def safetyControlRule : Prop :=
  (∀ (hp : Fin 2) (arm : Bool) (s : State), mayWrite s hp 0xB0000 → ∃ t, exec (.safArm hp arm) s = .next t ∧ t.bit 0xB0000 0 = arm ∧
    t.pins = { s.pins with faultA := false, faultB := true, zone := 0 } ∧ t.saf.latched = s.saf.latched ∧ (arm = true → t.saf.ridgeSince = false) ∧
    t.cells = s.cells ∧ t.step = s.step ∧ ∀ k, k ≠ 0xB0000 → t.reg k = s.reg k) ∧
  (∀ (hp : Fin 2) (mask : BitVec 9) (s : State), mayWrite s hp 0xB0010 →
    let here (b : Nat) : Bool := decide (b < 9) && mask.getLsbD b && s.saf.latched.getLsbD b && s.liveNow.getLsbD b
    ∃ t, exec (.safClear hp mask) s = .next t ∧
    (∀ b, b < 32 → t.saf.latched.getLsbD b = (s.saf.latched.getLsbD b && !(decide (b < 9) && mask.getLsbD b && !s.liveNow.getLsbD b))) ∧
    ((∃ b, here b = true) → counted s t 0xB0094) ∧ ((∀ b, here b = false) → t.cnt = s.cnt) ∧
    (t.saf.latched ≠ s.saf.latched → t.saf.ridgeSince = false ∧ t.saf.sentSince = 0) ∧
    t.pins = s.pins ∧ t.saf.live = s.saf.live ∧ t.cells = s.cells ∧ t.step = s.step ∧ t.regs = s.regs) ∧
  (∀ (s : State) (key : Nat) (i : Fin 33), cfgMaskOf key ≠ 0 → (i.val = 32 ∨ (cfgMaskOf key).testBit i.val = true) →
    (s.strike key i).parityBad key = !s.parityBad key) ∧
  ∀ (struck : List (Nat × Fin 33)) (s : State),
    let u := s.each struck fun u k => u.strike k.1 k.2
    let n := u.badOffsets.length
    (∀ off, off ∈ u.badOffsets ↔ ∃ key, u.parityBad key = true ∧ key % portStride = off) ∧
    ∃ t, exec (.cfgScanPass struck) s = .next t ∧ counted s t 0x88 ∧ t.cells = s.cells ∧ t.step = s.step ∧
      (u.badOffsets = [] → t.disc.cfgMismatch = false ∧ t.saf.live.getLsbD 4 = false ∧ t.saf.latched = s.saf.latched ∧ t.pins = s.pins ∧ t.regs = u.regs) ∧
      ∀ off rest, u.badOffsets = off :: rest → t.disc.cfgMismatch = true ∧ t.saf.live.getLsbD 4 = true ∧
        t.disc.cfgAddr = (if s.disc.cfgMismatch then s.disc.cfgAddr else BitVec.ofNat 20 (off / 4)) ∧
        t.ctr 0xB0080 = (s.bump 0xB0080 n).ctr 0xB0080 ∧ t.saf.latched = s.saf.latched ||| 16 ∧ t.saf.seq = s.saf.seq + BitVec.ofNat 32 n ∧
        (s.saf.latched.getLsbD 4 = false → t.pins = { t.pins with faultA := false, faultB := true, zone := 0 })

/-- Sentinels, monitors, arming and clearing. -/
def Obligations.SafetyResult : Prop := sentinelRule ∧ monitorRule ∧ safetyControlRule

/-- A machine freshly reset, but for its command queue, its OTP, and what firmware does at its start. -/
def reborn (s t : State) (tamper : Word) : Prop :=
  t.pending = s.pending ∧ t.step = StepUnit.reset ∧ t.regs = [] ∧ t.par = [] ∧ t.cnt = [] ∧ t.lat = [] ∧ t.waits = [] ∧ (∀ p, t.port p = Port.reset) ∧ t.mesh = [] ∧
  t.pins = ⟨0, false, true, false, []⟩ ∧ t.slots = State.reset.slots ∧ t.pwr = Power.reset ∧ t.saf = Safety.reset ∧ t.trk = Tracker.reset ∧ t.scm = Scene.reset ∧
  (∀ h, t.host h = HostPort.reset) ∧ (∀ n, (t.sem n).owner = none) ∧ (∀ c, (t.clutch c).inService = false ∧ (t.clutch c).level = 2) ∧
  (∀ c, (t.cell c).mode ≠ .running ∧ (t.cell c).thatch = [] ∧ (t.cell c).cwm = []) ∧
  t.sec.tamper = tamper ∧ t.sec.enrolled = s.sec.enrolled ∧ t.sec.revoked = s.sec.revoked ∧ t.sec.reqsig = s.sec.reqsig ∧ t.sec.keyHash = s.sec.keyHash ∧
  t.sec.imgKey = s.sec.imgKey ∧ t.sec.svnImg = s.sec.svnImg ∧ s.sec.svnFw ≤ t.sec.svnFw ∧ t.sec.flash = s.sec.flash ∧ t.sec.dbg = 0 ∧ t.sec.challenge = none

/-- Resets and tamper (R539, R540, R542, R545): a power-on reset clears the tamper record, a system reset keeps it; a glitch on a rail or a clock, and a boundary-scan instruction beyond BYPASS, IDCODE and SAMPLE/PRELOAD, reset the device and record their source. -/
def resetRule : Prop :=
  ∀ (b : BootInputs) (s : State),
    (∃ t, exec (.powerOnReset b) s = .next t ∧ reborn s t 0) ∧ (∃ t, exec (.systemReset b) s = .next t ∧ reborn s t s.sec.tamper) ∧
    (∀ src : BitVec 4, ((src = 1 ∨ src = 2) → ∃ t, exec (.tamperDetect src b) s = .next t ∧ reborn s t (BitVec.ofNat 32 (src.toNat * 16 + 1))) ∧
      (src ≠ 1 → src ≠ 2 → exec (.tamperDetect src b) s = .next s)) ∧
    (∀ i ∈ [JtagInstr.bypass, .idcode, .samplePreload], exec (.jtagInstruction i b) s = .next s) ∧
    ∀ i ∈ [JtagInstr.extest, .clamp, .highz, .other], ∃ t, exec (.jtagInstruction i b) s = .next t ∧ reborn s t 0x31

/-- Security and readiness (R466, R525, R531, R532, R536, R548, R550, R551): a failed health test sets TRNGFAIL; a recomputed measurement follows the active banks; a challenge is drawn unless the TRNG has failed; a function is ready once firmware runs and what it depends on is; training gives Scene Memory its share of the memory. -/
def securityRule : Prop :=
  (∀ s : State, exec .trngHealthFail s = .next { s with sec := { s.sec with trngFail := true } }) ∧
  (∀ s : State, (∀ h a, s.rsaCmd h = some a → a.op = 10) →
    (s.sec.busyInk = true → ∃ t, exec (.measurementRecompute false) s = .next t ∧ t.meas 3 = s.intakeMeasure ∧ t.sec.busyInk = false ∧
      t.sec.busyFus = s.sec.busyFus ∧ (∀ i, i ≠ 3 → t.meas i = s.meas i) ∧ (s.sec.busyFus = false → ∀ h, (s.rsaCmd h).isSome = true → (t.host h).cmd = none) ∧
      t.cells = s.cells ∧ t.step = s.step) ∧
    (s.sec.busyFus = true → ∃ t, exec (.measurementRecompute true) s = .next t ∧ t.meas 4 = s.fusionMeasure ∧ t.sec.busyFus = false ∧
      t.sec.busyInk = s.sec.busyInk ∧ (∀ i, i ≠ 4 → t.meas i = s.meas i) ∧ (s.sec.busyInk = false → ∀ h, (s.rsaCmd h).isSome = true → (t.host h).cmd = none) ∧
      t.cells = s.cells ∧ t.step = s.step)) ∧
  (∀ s : State, (s.sec.busyInk = false → exec (.measurementRecompute false) s = .next s) ∧
    (s.sec.busyFus = false → exec (.measurementRecompute true) s = .next s)) ∧
  (∀ (hp : Fin 2) (s : State), reaches s hp 0xC0010 →
    (s.sec.trngFail = true → exec (.debugChallenge hp) s = .next s) ∧
    (s.sec.trngFail = false → ∃ t, exec (.debugChallenge hp) s = .next t ∧ t.sec = { s.sec with challenge := t.sec.challenge } ∧
      t.sec.challenge.isSome = true ∧ t.cells = s.cells ∧ t.step = s.step ∧ t.regs = s.regs)) ∧
  (∀ (ups : CellUpsets) (s : State), s.sec.running = true →
    (∀ r ∈ [(DevFunction.fus, 3), (.trk, 4), (.mot, 6)], exec (.functionReady r.1 ups) s = .next { s with disc := { s.disc with ready := s.disc.ready ||| BitVec.ofNat 7 (2 ^ r.2) } }) ∧
    (∀ h : Fin 2, exec (.functionReady (.hostPort h) ups) s = .next { s with disc := { s.disc with ready := s.disc.ready ||| BitVec.ofNat 7 (2 ^ h.val) } }) ∧
    (∀ n : Fin 16, exec (.functionReady (.sensor n) ups) s = .next { s with disc := { s.disc with readySp := s.disc.readySp ||| BitVec.ofNat 16 (2 ^ n.val) } }) ∧
    (s.sec.memKeys.isSome = true → s.disc.memSts.getLsbD 0 = true → ∃ t, exec (.functionReady .mem ups) s = .next t ∧ t.disc.ready.getLsbD 2 = true) ∧
    ((s.sec.memKeys = none ∨ s.disc.memSts.getLsbD 0 = false) → exec (.functionReady .mem ups) s = .next s) ∧
    (s.disc.ready.getLsbD 2 = true → ∃ t, exec (.functionReady .scm ups) s = .next t ∧ t.disc.ready.getLsbD 5 = true) ∧
    (s.disc.ready.getLsbD 2 = false → exec (.functionReady .scm ups) s = .next s) ∧
    (∀ cl, (s.disc.eligible cl = false ∨ (s.clutch cl).served = true) → exec (.functionReady (.clutch cl) ups) s = .next s) ∧
    (∀ cl, s.disc.eligible cl = true → (s.clutch cl).served = false → (s.slots.active = none ∨ ∀ p ∈ ups, p.2.passes = true) →
      ∃ t, exec (.functionReady (.clutch cl) ups) s = .next t ∧
      (t.clutch cl).inService = true ∧ (t.clutch cl).served = true ∧ (∀ i, t.hasRoute (cellOf cl i) = true) ∧
      (∀ d, clutchOf d ≠ cl → t.hasRoute d = s.hasRoute d ∧ t.cell d = s.cell d) ∧ t.step = s.step)) ∧
  (∀ (fn : DevFunction) (ups : CellUpsets) (s : State), s.sec.running = false → s.hostBoot = false → fn ≠ .scm → exec (.functionReady fn ups) s = .next s) ∧
  ∀ s : State, s.sec.running = true → s.disc.memSts = 0 →
    (∀ gib, ∃ t, exec (.memoryTrainingDone (.done gib)) s = .next t ∧ t.disc.memSts = 1 ∧ t.disc.memGib = BitVec.ofNat 8 gib ∧
      t.scm.avail = (992 * gib - 2048) / 64 ∧ (s.sec.memKeys.isSome = true → t.disc.ready.getLsbD 2 = true) ∧ (s.sec.memKeys = none → t.disc.ready = s.disc.ready) ∧
      t.cells = s.cells ∧ t.step = s.step) ∧
    ∀ ch code, exec (.memoryTrainingDone (.failed ch code)) s = .next { s with disc := { s.disc with
      memSts := BitVec.ofNat 32 (2 + ch.toNat * 2 ^ 8 + code.toNat * 2 ^ 12) } }

/-- Resets, keys, measurements and readiness. -/
def Obligations.SecurityResult : Prop := resetRule ∧ securityRule

/-! ## Reset, and what every step keeps -/

/-- The machine right after reset (R5, R32, R41, R190, R339, R492, R505, R543, R545): no step open, every port disabled, every cell stopped, no command waiting, fault pins at fault, the listed registers at the values their tables give; and it satisfies both invariants. -/
def Obligations.ResetState : Prop :=
  let s := State.reset
  s.pending = [] ∧ s.step.running = false ∧ s.step.due = false ∧ (∀ p, (s.port p).mode = .disabled ∧ (s.port p).notb = true ∧ s.portOn p = false) ∧
  (∀ c, (s.cell c).mode = .stopped) ∧ s.horizon = none ∧ s.fus.gox = -256 ∧ s.fus.goy = -256 ∧ (∀ h, (s.host h).up = false ∧ (s.host h).cmd = none) ∧
  (∀ n, (s.sem n).owner = none) ∧ (∀ c, (s.clutch c).level = 2 ∧ (s.clutch c).cap = 3) ∧ s.pwr.state = 0 ∧ s.saf.latched = 0 ∧
  s.pins = ⟨0, false, true, false, []⟩ ∧ s.reg 0x200 = 0x08 ∧ s.period = 1000 ∧ s.reg 0x214 = 0x000C3500 ∧ s.reg 0x20F00 = 0x00030D40 ∧
  s.reg 0x50008 = 0x130 ∧ s.reg 0x90004 = 0xF ∧ s.reg 0x90014 = 0x0564 ∧ s.reg 0xB0020 = 0x6E ∧ s.reg 0xD0100 = 0x00013880 ∧ s.reg 0xA0000 = 0 ∧
  (∀ c : Fin 256, s.reg (celR c 0x24) = 0x1E000000 ∧ s.reg (celR c 0x13FC) = 0x0FF00010) ∧
  s.controlOk = true ∧ s.storesWf = true

/-- Every step keeps the control state sound: a ridge is due only while a step is open, the two fault pins are complementary and show whether the no-fault levels are driven, and a zone pin is high only at the no-fault levels with steps running (R45, R351, R505 to R507). -/
def Obligations.ControlSound : Prop :=
  ∀ s t : State, s.controlOk = true → step s = .next t → t.controlOk = true

/-- Every step keeps the registers, counters, copies and cell memories in canonical form, so that equal contents are equal data (the model's own form of memory, log entry 6). -/
def Obligations.StoresSound : Prop :=
  ∀ s t : State, s.storesWf = true → step s = .next t → t.storesWf = true

/-- Every step that runs a command takes exactly that command from the queue: no command adds, removes or reorders another, and none stops the machine (the model's choice, log entry 7). -/
def Obligations.QueueSound : Prop :=
  ∀ (c : Instr) (l : List Instr) (s : State), ∃ t, step { s with pending := c :: l } = .next t ∧ t.pending = l
end

