-- ==== Sys2Proof/Laws/Assoc.lean ====
section
/-! SUPPORT. Sparse stores and memories: reading after writing, what a write leaves alone, and that every operation keeps the canonical form. -/

namespace Sys2Proof.Machine

/-! ## Reading after writing -/

theorem assocGet_erase {α} (m : List (Nat × α)) (d : α) (k j : Nat) :
    assocGet (assocErase m k) d j = if j = k then d else assocGet m d j := by
  induction m with
  | nil => simp [assocErase, assocGet]
  | cons x t ih =>
    obtain ⟨k', v⟩ := x
    by_cases h : k' = k <;> by_cases e : k' = j <;> by_cases g : j = k <;> simp_all [assocErase, assocGet]

theorem assocGet_put {α} (m : List (Nat × α)) (d : α) (k j : Nat) (v : α) :
    assocGet (assocPut m k v) d j = if j = k then v else assocGet m d j := by
  induction m with
  | nil => by_cases g : k = j <;> simp [assocPut, assocGet, g, eq_comm (a := j)]
  | cons x t ih =>
    obtain ⟨k', w⟩ := x
    unfold assocPut
    split
    · by_cases g : k = j <;> simp [assocGet, g, eq_comm (a := j)]
    · split
      · subst_vars; by_cases g : k' = j <;> simp [assocGet, g, eq_comm (a := j)]
      · rename_i n e
        by_cases f : k' = j
        · subst f; simp [assocGet, e]
        · simp [assocGet, f, ih]

/-- A key read after a write holds what was written, every other key what it held. -/
theorem assocGet_set {α} [DecidableEq α] (m : List (Nat × α)) (d : α) (k j : Nat) (v : α) :
    assocGet (assocSet m d k v) d j = if j = k then v else assocGet m d j := by
  unfold assocSet
  split
  · rw [assocGet_erase]; simp_all
  · exact assocGet_put m d k j v

/-- A write changes what other keys read as under no default. -/
theorem assocGet_set_ne {α} [DecidableEq α] (m : List (Nat × α)) (d e : α) (k j : Nat) (v : α) (h : j ≠ k) :
    assocGet (assocSet m e k v) d j = assocGet m d j := by
  unfold assocSet
  split
  · simp [assocGet_erase, h]
  · simp [assocGet_put, h]

/-! ## The canonical form -/

theorem assocRising_mono {α} (m : List (Nat × α)) (lo hi : Nat) (h : lo ≤ hi) :
    assocRising (some hi) m = true → assocRising (some lo) m = true := by
  cases m with
  | nil => simp [assocRising]
  | cons x t => simp only [assocRising, Bool.and_eq_true, decide_eq_true_eq]; exact fun ⟨a, b⟩ => ⟨by omega, b⟩

/-- A bound on the keys of a rising list. -/
def assocAbove (lo : Option Nat) (k : Nat) : Prop := ∀ l, lo = some l → l < k

theorem assocRising_weaken {α} (m : List (Nat × α)) (lo : Option Nat) (k : Nat) (hk : assocAbove lo k) :
    assocRising (some k) m = true → assocRising lo m = true := by
  cases lo with
  | none => cases m with
    | nil => simp [assocRising]
    | cons x t => simp [assocRising]
  | some l => exact assocRising_mono m l k (Nat.le_of_lt (hk l rfl))

theorem assocRising_cons {α} (lo : Option Nat) (k : Nat) (v : α) (t : List (Nat × α)) :
    assocRising lo ((k, v) :: t) = true ↔ assocAbove lo k ∧ assocRising (some k) t = true := by
  cases lo <;> simp [assocRising, assocAbove]

theorem assocRising_filter {α} (p : Nat × α → Bool) (m : List (Nat × α)) (lo : Option Nat) :
    assocRising lo m = true → assocRising lo (m.filter p) = true := by
  induction m generalizing lo with
  | nil => simp [assocRising]
  | cons x t ih =>
    obtain ⟨k, v⟩ := x
    rw [assocRising_cons, List.filter_cons]
    intro ⟨a, b⟩
    split
    · exact (assocRising_cons lo k v _).2 ⟨a, ih _ b⟩
    · exact ih _ (assocRising_weaken t lo k a b)

theorem assocErase_eq_filter {α} (m : List (Nat × α)) (k : Nat) : assocErase m k = m.filter fun kv => decide (kv.1 ≠ k) := by
  induction m with
  | nil => rfl
  | cons x t ih => obtain ⟨k', v⟩ := x; by_cases h : k' = k <;> simp [assocErase, h, ih]

theorem assocRising_put {α} (m : List (Nat × α)) (lo : Option Nat) (k : Nat) (v : α) (hk : assocAbove lo k) :
    assocRising lo m = true → assocRising lo (assocPut m k v) = true := by
  induction m generalizing lo with
  | nil => intro _; exact (assocRising_cons lo k v []).2 ⟨hk, rfl⟩
  | cons x t ih =>
    obtain ⟨k', w⟩ := x
    rw [assocRising_cons]
    intro ⟨a, b⟩
    unfold assocPut
    split
    · rename_i h
      exact (assocRising_cons lo k v _).2 ⟨hk, (assocRising_cons _ k' w t).2 ⟨fun l e => by cases e; exact h, b⟩⟩
    · split
      · subst_vars; exact (assocRising_cons lo _ v t).2 ⟨hk, b⟩
      · exact (assocRising_cons lo k' w _).2 ⟨a, ih _ (fun l e => by cases e; omega) b⟩

theorem assocPut_all {α} (m : List (Nat × α)) (k : Nat) (v : α) (p : Nat × α → Bool) (hv : p (k, v) = true) :
    m.all p = true → (assocPut m k v).all p = true := by
  induction m with
  | nil => simp [assocPut, hv]
  | cons x t ih =>
    obtain ⟨k', w⟩ := x
    unfold assocPut
    simp only [List.all_cons, Bool.and_eq_true]
    intro ⟨a, b⟩
    split
    · simp_all
    · split
      · simp_all
      · simp_all

/-- Dropping entries keeps the canonical form. -/
theorem assocWf_filter {α} [DecidableEq α] (d : Nat → α) (m : List (Nat × α)) (p : Nat × α → Bool) :
    assocWf d m = true → assocWf d (m.filter p) = true := by
  simp only [assocWf, Bool.and_eq_true]
  intro ⟨a, b⟩
  refine ⟨assocRising_filter p m none a, ?_⟩
  rw [List.all_eq_true] at b ⊢
  exact fun x hx => b x (List.mem_filter.1 hx).1

/-- Erasing a key keeps the canonical form. -/
theorem assocWf_erase {α} [DecidableEq α] (d : Nat → α) (m : List (Nat × α)) (k : Nat) :
    assocWf d m = true → assocWf d (assocErase m k) = true := by
  rw [assocErase_eq_filter]; exact assocWf_filter d m _

/-- A write keeps the canonical form. -/
theorem assocWf_set {α} [DecidableEq α] (d : Nat → α) (m : List (Nat × α)) (k : Nat) (v : α) :
    assocWf d m = true → assocWf d (assocSet m (d k) k v) = true := by
  intro h
  unfold assocSet
  split
  · exact assocWf_erase d m k h
  · rename_i hv
    simp only [assocWf, Bool.and_eq_true] at h ⊢
    exact ⟨assocRising_put m none k v (fun _ e => by cases e) h.1, assocPut_all m k v _ (by simpa using hv) h.2⟩

/-! ## Byte memories -/

theorem memRead_memWrite (m : Memory) (a b : Nat) (v : Byte) : memRead (memWrite m a v) b = if b = a then v else memRead m b :=
  assocGet_set m 0 a b v

/-- Every memory operation keeps the canonical form. -/
theorem memWrite_wf (m : Memory) (a : Nat) (v : Byte) : Memory.wf m = true → Memory.wf (memWrite m a v) = true :=
  assocWf_set (fun _ => 0) m a v

theorem memWriteBytes_wf (m : Memory) (a : Nat) (bs : List Byte) : Memory.wf m = true → Memory.wf (memWriteBytes m a bs) = true := by
  induction bs generalizing m a with
  | nil => exact id
  | cons b t ih => exact fun h => ih _ _ (memWrite_wf m a b h)

theorem memWriteNat_wf (m : Memory) (a n v : Nat) : Memory.wf m = true → Memory.wf (memWriteNat m a n v) = true := memWriteBytes_wf m a _

theorem memZero_wf (m : Memory) (a n : Nat) : Memory.wf m = true → Memory.wf (memZero m a n) = true := assocWf_filter _ m _

theorem memFilter_wf (m : Memory) (p : Host.Cell → Bool) : Memory.wf m = true → Memory.wf (m.filter p) = true := assocWf_filter _ m p

theorem memFold_wf (l : List (Nat × Byte)) (m : Memory) :
    Memory.wf m = true → Memory.wf (l.foldl (fun m kv => memWrite m kv.1 kv.2) m) = true := by
  induction l generalizing m with
  | nil => exact id
  | cons x t ih => exact fun h => ih _ (memWrite_wf m _ _ h)

/-- A byte outside those written reads as before. -/
theorem memRead_writeBytes_out (m : Memory) (a b : Nat) (bs : List Byte) (h : b < a ∨ a + bs.length ≤ b) :
    memRead (memWriteBytes m a bs) b = memRead m b := by
  induction bs generalizing m a with
  | nil => rfl
  | cons x t ih =>
    simp only [List.length_cons] at h
    rw [memWriteBytes, ih _ _ (by omega), memRead_memWrite, if_neg (by omega)]

/-- A byte written reads as written. -/
theorem memRead_writeBytes_in (m : Memory) (a j : Nat) (bs : List Byte) (h : j < bs.length) :
    memRead (memWriteBytes m a bs) (a + j) = bs.getD j 0 := by
  induction bs generalizing m a j with
  | nil => simp at h
  | cons x t ih =>
    rw [memWriteBytes]
    cases j with
    | zero => rw [memRead_writeBytes_out _ _ _ _ (by omega), memRead_memWrite]; simp
    | succ j =>
      have := ih (memWrite m a x) (a + 1) j (by simpa using h)
      rw [show a + (j + 1) = a + 1 + j by omega, this]; simp

/-- The bytes of a memory depend on what it reads as only. -/
theorem memBytes_congr (m n : Memory) (a k : Nat) (h : ∀ b, a ≤ b → b < a + k → memRead m b = memRead n b) :
    memBytes m a k = memBytes n a k := by
  induction k generalizing a with
  | zero => rfl
  | succ k ih => rw [memBytes, memBytes, h a (by omega) (by omega), ih (a + 1) fun b x y => h b (by omega) (by omega)]

theorem natLe_length (n v : Nat) : (natLe n v).length = n := by
  induction n generalizing v with
  | zero => rfl
  | succ n ih => simp [natLe, ih]

theorem memBytes_length (m : Memory) (a n : Nat) : (memBytes m a n).length = n := by
  induction n generalizing a with
  | zero => rfl
  | succ n ih => simp [memBytes, ih]

/-- Little-endian bytes of a number give it back, modulo their range. -/
theorem leNat_natLe (n v : Nat) : leNat (natLe n v) = v % 256 ^ n := by
  induction n generalizing v with
  | zero => simp [natLe, leNat, Nat.mod_one]
  | succ n ih =>
    simp only [natLe, leNat, ih, BitVec.toNat_ofNat]
    have h : 256 ^ (n + 1) = 256 * 256 ^ n := by rw [Nat.pow_succ, Nat.mul_comm]
    rw [h, Nat.mod_mul]

end Sys2Proof.Machine
end

