-- ==== Sys2Proof/Laws/Ledger.lean ====
section
/-! SUPPORT. The ledger's account apart: what a charge changes, and what an issued instruction does up to it. -/

namespace Sys2Proof.Machine

/-- Erasing a key a filter drops is invisible to the filter. -/
theorem filter_assocErase {α} (m : List (Nat × α)) (p : Nat → Bool) (k : Nat) (h : p k = false) :
    (assocErase m k).filter (fun kv => p kv.1) = m.filter fun kv => p kv.1 := by
  induction m with
  | nil => rfl
  | cons x t ih =>
    obtain ⟨k', v⟩ := x
    simp only [assocErase]
    split
    · subst_vars; simp [h, ih]
    · simp [List.filter_cons, ih]

/-- So is listing one. -/
theorem filter_assocPut {α} (m : List (Nat × α)) (p : Nat → Bool) (k : Nat) (v : α) (h : p k = false) :
    (assocPut m k v).filter (fun kv => p kv.1) = m.filter fun kv => p kv.1 := by
  induction m with
  | nil => simp [assocPut, h]
  | cons x t ih =>
    obtain ⟨k', v'⟩ := x
    simp only [assocPut]
    split
    · simp [h]
    · split
      · subst_vars; simp [h]
      · simp [List.filter_cons, ih]

/-- So is writing one. -/
theorem filter_assocSet {α} [DecidableEq α] (m : List (Nat × α)) (p : Nat → Bool) (d : α) (k : Nat) (v : α) (h : p k = false) :
    (assocSet m d k v).filter (fun kv => p kv.1) = m.filter fun kv => p kv.1 := by
  unfold assocSet; split
  · exact filter_assocErase m p k h
  · exact filter_assocPut m p k v h

/-- A count of the ledger is no part of the state without its account. -/
theorem bump_noLedger (s : State) (k n : Nat) (h : ledgerKey k = true) : (s.bump k n).noLedger = s.noLedger := by
  simp [State.bump, State.noLedger, filter_assocSet (p := fun k => !ledgerKey k), h]

theorem addTotal_noLedger (s : State) (a b : Nat) : (s.addTotal a b).noLedger = s.noLedger := rfl

theorem setCell_noLedger (s : State) (c : Fin 256) (x : Cell) : (s.setCell c x).noLedger = s.noLedger.setCell c x.noLedger := by
  simp [State.setCell, State.noLedger]

theorem cell_noLedger (s : State) (c : Fin 256) : s.noLedger.cell c = (s.cell c).noLedger := by
  simp [State.cell, State.noLedger]

theorem setCell_self (s : State) (c : Fin 256) : s.setCell c (s.cell c) = s := by
  simp [State.setCell, State.cell]

theorem modCell_noLedger (s : State) (c : Fin 256) (g : Cell → Cell) (h : ∀ x, (g x).noLedger = g x.noLedger) :
    (s.modCell c g).noLedger = s.noLedger.modCell c g := by
  simp [State.modCell, setCell_noLedger, cell_noLedger, h]

theorem setClutch_noLedger (s : State) (c : Fin 16) (x : Clutch) (h : x.noSpent = (s.clutch c).noSpent) :
    (s.setClutch c x).noLedger = s.noLedger := by
  simp only [State.setClutch, State.noLedger, Vector.map_set, h, State.clutch]
  congr 1
  ext i hi
  · simp only [Vector.getElem_set, Vector.getElem_map]
    split <;> simp_all

theorem modClutch_noLedger (s : State) (c : Fin 16) (f : Clutch → Clutch) (h : ∀ k, (f k).noSpent = k.noSpent) :
    (s.modClutch c f).noLedger = s.noLedger := setClutch_noLedger s c _ (h _)

theorem setCell_noLedger_same (s : State) (c : Fin 256) (x : Cell) (h : x.noLedger = (s.cell c).noLedger) :
    (s.setCell c x).noLedger = s.noLedger := by
  rw [setCell_noLedger, h, ← cell_noLedger, setCell_self]

theorem spend_noLedger (s : State) (c : Fin 256) (q : Nat) : (s.spend c q).noLedger = s.noLedger := by
  have h4 : ledgerKey (0xA0240 + 4 * (clutchOf c).val) = true := by
    have := (clutchOf c).isLt; simp [ledgerKey]; omega
  unfold State.spend
  split
  · rfl
  · dsimp only
    split <;> simp only [addTotal_noLedger]
    · rw [bump_noLedger _ _ _ h4, bump_noLedger _ _ _ rfl, bump_noLedger _ _ _ rfl, modClutch_noLedger, setCell_noLedger_same]
      · rfl
      · intro k; rfl
    · rw [bump_noLedger _ _ _ rfl]; simp only [addTotal_noLedger]
      rw [bump_noLedger _ _ _ h4, bump_noLedger _ _ _ rfl, bump_noLedger _ _ _ rfl, modClutch_noLedger, setCell_noLedger_same]
      · rfl
      · intro k; rfl

/-- A charge moves the account of the ledger alone. -/
theorem charge_noLedger (s : State) (c : Fin 256) (i n : Nat) : (s.charge c i n).noLedger = s.noLedger := by
  unfold State.charge
  split
  · rfl
  · dsimp only
    rw [spend_noLedger, addTotal_noLedger, State.modCell, setCell_noLedger_same]
    rfl

theorem each_noLedger {β} (l : List β) (f : State → β → State) (h : ∀ s b, (f s b).noLedger = s.noLedger) (s : State) :
    (s.each l f).noLedger = s.noLedger := by
  unfold State.each
  induction l generalizing s with
  | nil => rfl
  | cons b t ih => rw [List.foldl_cons, ih, h]

theorem tick_noLedger (s : State) : s.tick.noLedger = s.noLedger := rfl

/-- So does a charge of free units. -/
theorem chargeFree_noLedger (s : State) (c : Fin 256) (l : List Nat) : (s.chargeFree c l).noLedger = s.noLedger := by
  rw [State.chargeFree, tick_noLedger, each_noLedger]
  intro s b; exact charge_noLedger _ _ _ _

theorem countWait_noLedger (s : State) (k : Nat) : (s.countWait k).noLedger = s.noLedger := rfl

/-- What an issue costs is counted and charged; apart from the account of the ledger it is the count alone. -/
theorem payIssue_noLedger (s : State) (c : Fin 256) : (s.payIssue c).noLedger = (s.bump (celR c 784)).noLedger := by
  rw [State.payIssue, countWait_noLedger, chargeFree_noLedger, charge_noLedger]

theorem mode_of_noLedger {s t : State} (c : Fin 256) (h : s.noLedger = t.noLedger) : (s.cell c).mode = (t.cell c).mode := by
  have := congrArg (fun u : State => (u.cell c).mode) h
  simpa [cell_noLedger, Cell.noLedger] using this

theorem payIssue_mode (s : State) (c : Fin 256) : ((s.payIssue c).cell c).mode = (s.cell c).mode :=
  mode_of_noLedger (t := s.bump (celR c 784)) c (payIssue_noLedger s c)

/-- A cell that goes on, apart from the account of the ledger. -/
theorem goOn_noLedger (s : State) (c : Fin 256) (g : Cell → Cell) (h : ∀ x, (g x).noLedger = g x.noLedger)
    (hm : (s.cell c).mode = .running) :
    (s.goOn c g).noLedger = s.noLedger.modCell c fun x => { g x with stalled := none } := by
  rw [State.goOn, if_pos (by simp [hm]), modCell_noLedger]
  intro x; rw [← h]; rfl

/-- An issued instruction is counted, charged, and moves its cell. -/
theorem issued_noLedger (s : State) (c : Fin 256) (g : Cell → Cell) (h : ∀ x, (g x).noLedger = g x.noLedger)
    (hm : (s.cell c).mode = .running) : ((s.payIssue c).goOn c g).noLedger = (s.did c g).noLedger := by
  rw [goOn_noLedger _ _ _ h (by rw [payIssue_mode, hm]), payIssue_noLedger, State.did, modCell_noLedger]
  intro x; rw [← h]; rfl

/-- An instruction whose predicate is 0 moves its cell and does no more (R203). -/
theorem squash_noLedger (s : State) (c : Fin 256) (hm : (s.cell c).mode = .running) :
    ((s.chargeFree c [9, 13]).goOn c Cell.advance).noLedger =
      (s.modCell c fun x => { x.advance with stalled := none }).noLedger := by
  rw [goOn_noLedger _ _ Cell.advance (fun _ => rfl) (by rw [mode_of_noLedger c (chargeFree_noLedger s c _), hm]), chargeFree_noLedger, modCell_noLedger]
  intro x; rfl

theorem issues_ready {s : State} {c f m} (h : s.issues c f m = true) : s.ready c = true := by
  simp [State.issues] at h; exact h.1.1.1.1.1.1

/-- Under the conditions of `State.issues` an instruction has its own effect. -/
theorem issue_of (s : State) (c : Fin 256) (f : Fields) (m : Shape) (body : State → Issue) (h : s.issues c f m = true) :
    s.issue c f m.form m.odd m.uses body =
      match body s with
      | .go t => (t.payIssue c).goOn c Cell.advance
      | .paid t => t.goOn c Cell.advance
      | .jump t pc => (t.payIssue c).goOn c fun y => y.jumpTo pc
      | .stall k => s.stallIn c k
      | .hold t => t.clocks c
      | .fault code => s.programFault c code := by
  simp only [State.issues, Bool.and_eq_true, decide_eq_true_eq, Bool.not_eq_true'] at h
  obtain ⟨⟨⟨⟨⟨⟨h1, h2⟩, h3⟩, h4⟩, h5⟩, h6⟩, h7⟩ := h
  unfold State.issue
  simp only [h1, h3, h4, h5, h6, h7]
  simp only [Nat.not_le.mpr h2, if_false, Bool.not_true, Bool.false_eq_true] <;> rfl

theorem did_congr (s : State) (c : Fin 256) (g h : Cell → Cell) (e : g (s.cell c) = h (s.cell c)) : s.did c g = s.did c h := by
  unfold State.did State.modCell; simp only [show (s.bump (celR c 784)).cell c = s.cell c from rfl, e]

@[simp] theorem cell_setCell (s : State) (c : Fin 256) (x : Cell) : (s.setCell c x).cell c = x := by simp [State.cell, State.setCell]

theorem setCell_setCell (s : State) (c : Fin 256) (x y : Cell) : (s.setCell c x).setCell c y = s.setCell c y := by simp [State.setCell]

/-- An effect on the cell alone, then the move of the pc. -/
theorem go_did (s : State) (c : Fin 256) (g : Cell → Cell) (move : Cell → Cell) (hm : ∀ x, (move x).noLedger = move x.noLedger) (hr : (g (s.cell c)).mode = .running) :
    (((s.modCell c g).payIssue c).goOn c move).noLedger = (s.did c fun x => move (g x)).noLedger := by
  rw [issued_noLedger _ _ _ hm (by rw [State.modCell, cell_setCell, hr])]
  rw [State.did, State.did, State.modCell, State.modCell, State.modCell]
  rw [show (s.setCell c (g (s.cell c))).bump (celR c 784) = (s.bump (celR c 784)).setCell c (g (s.cell c)) from rfl, cell_setCell, setCell_setCell]
  rfl

theorem advance_noLedger (x : Cell) : (x.advance).noLedger = (x.noLedger).advance := rfl

theorem setS_noLedger (x : Cell) (d : BitVec 5) (v : Word) : (x.setS d v).noLedger = x.noLedger.setS d v := by
  unfold Cell.setS; split <;> rfl

theorem setS_mode (x : Cell) (d : BitVec 5) (v : Word) : (x.setS d v).mode = x.mode := by
  unfold Cell.setS; split <;> rfl

theorem ready_mode {s : State} {c} (h : s.ready c = true) : (s.cell c).mode = .running := by
  simp [State.ready] at h; exact h.1.2

theorem setP_noLedger (x : Cell) (d : BitVec 3) (v : Bool) : (x.setP d v).noLedger = x.noLedger.setP d v := by
  unfold Cell.setP; split <;> rfl

theorem setV_noLedger (x : Cell) (d : BitVec 4) (v : VReg) : (x.setV d v).noLedger = x.noLedger.setV d v := rfl

theorem setG_noLedger (x : Cell) (d : BitVec 3) (v : GReg) : (x.setG d v).noLedger = x.noLedger.setG d v := rfl

theorem jumpTo_noLedger (x : Cell) (t : BitVec 16) : (x.jumpTo t).noLedger = x.noLedger.jumpTo t := rfl

end Sys2Proof.Machine
end

