-- ==== Sys2Proof/Laws/Sound.lean ====
section
/-! SUPPORT. One relation every operation of the model keeps: the queue of waiting commands as it was, sound control state sound, stores in canonical form still so. One lemma per operation, in the order of the model. -/

namespace Sys2Proof.Machine

/-- `t` comes from `s0` by operations that leave the queue alone and keep both sound (State.controlOk, State.storesWf). -/
structure Sound (s0 t : State) : Prop where
  pending : t.pending = s0.pending
  control : s0.controlOk = true → t.controlOk = true
  stores : s0.storesWf = true → t.storesWf = true

theorem Sound.refl (s : State) : Sound s s := ⟨rfl, id, id⟩

theorem Sound.trans {a b c : State} (h : Sound a b) (k : Sound b c) : Sound a c :=
  ⟨k.pending.trans h.pending, k.control ∘ h.control, k.stores ∘ h.stores⟩

/-- The memories of a cell are in canonical form. -/
def Cell.stored (x : Cell) : Bool := Memory.wf x.thatch && Memory.wf x.cwm

theorem Cell.stored_iff (x : Cell) : x.stored = true ↔ Memory.wf x.thatch = true ∧ Memory.wf x.cwm = true := by simp [Cell.stored]

theorem State.stored_cell {s : State} (h : s.storesWf = true) (c : Fin 256) : (s.cell c).stored = true := by
  simp only [State.storesWf, Bool.and_eq_true, List.all_eq_true] at h
  simpa [Cell.stored] using h.2 (s.cell c) (by simp [State.cell])

/-- An update of fields the relation does not look at. -/
theorem Sound.upd {s0 s t : State} (h : Sound s0 s) (hp : t.pending = s.pending) (hr : t.regs = s.regs) (hq : t.par = s.par) (hc : t.cnt = s.cnt)
    (hl : t.lat = s.lat) (hx : t.cells = s.cells) (h1 : t.step.due = s.step.due) (h2 : t.step.running = s.step.running)
    (h3 : t.pins.faultA = s.pins.faultA) (h4 : t.pins.faultB = s.pins.faultB) (h5 : t.pins.zone = s.pins.zone)
    (h6 : t.saf.noFault = s.saf.noFault) : Sound s0 t := by
  refine ⟨hp.trans h.pending, fun k => ?_, fun k => ?_⟩
  · have := h.control k
    simpa only [State.controlOk, h1, h2, h3, h4, h5, h6] using this
  · have := h.stores k
    simpa only [State.storesWf, hr, hq, hc, hl, hx] using this

/-- An update of the cells alone, beside fields the relation does not look at. -/
theorem Sound.updCells {s0 s t : State} (h : Sound s0 s) (hp : t.pending = s.pending) (hr : t.regs = s.regs) (hq : t.par = s.par) (hc : t.cnt = s.cnt)
    (hl : t.lat = s.lat) (h1 : t.step.due = s.step.due) (h2 : t.step.running = s.step.running)
    (h3 : t.pins.faultA = s.pins.faultA) (h4 : t.pins.faultB = s.pins.faultB) (h5 : t.pins.zone = s.pins.zone)
    (h6 : t.saf.noFault = s.saf.noFault)
    (hx : (∀ x ∈ s.cells.toList, x.stored = true) → ∀ x ∈ t.cells.toList, x.stored = true) : Sound s0 t := by
  refine ⟨hp.trans h.pending, fun k => ?_, fun k => ?_⟩
  · have := h.control k
    simpa only [State.controlOk, h1, h2, h3, h4, h5, h6] using this
  · have := h.stores k
    simp only [State.storesWf, hr, hq, hc, hl, Bool.and_eq_true, List.all_eq_true] at this ⊢
    refine ⟨this.1, ?_⟩
    have := hx (fun x m => by simpa [Cell.stored] using this.2 x m)
    exact fun x m => by simpa [Cell.stored] using this x m

/-- The same, as a record update. -/
theorem Sound.put {s0 s : State} (h : Sound s0 s)
    {free : Nat} {hostOut : List HostWrite} {waits latWaits : Assoc Nat} {step : StepUnit} {ports : Vector Port 16} {lastPort : Fin 16} {inkSwap fusSwap : TableSwap}
    {mesh : List MeshItem} {weights : Memory} {clutches : Vector Clutch 16} {motion : Vector MotionPort 4} {ego : Ego} {fus : Fusion}
    {pq : Vector (List FifoWord) 16}
    {pqOvr : BitVec 16} {trk : Tracker} {scm : Scene} {hosts : Vector HostPort 2} {sems : Vector Sem 64} {slots : Slots} {pwr : Power}
    {led : Ledger} {saf : Safety} {sec : Security} {disc : Discovery} {pins : Pins}
    (h1 : step.due = s.step.due) (h2 : step.running = s.step.running)
    (h3 : pins.faultA = s.pins.faultA) (h4 : pins.faultB = s.pins.faultB) (h5 : pins.zone = s.pins.zone)
    (h6 : saf.noFault = s.saf.noFault) :
    Sound s0 { s with
    free := free, hostOut := hostOut, waits := waits, latWaits := latWaits, step := step, ports := ports, lastPort := lastPort,
    inkSwap := inkSwap, fusSwap := fusSwap, mesh := mesh, weights := weights, clutches := clutches, motion := motion, ego := ego,
    fus := fus, pq := pq, pqOvr := pqOvr, trk := trk, scm := scm, hosts := hosts, sems := sems, slots := slots, pwr := pwr, led := led,
    saf := saf, sec := sec, disc := disc, pins := pins } :=
  h.upd rfl rfl rfl rfl rfl rfl h1 h2 h3 h4 h5 h6

/-- The same with the cells. -/
theorem Sound.putCells {s0 s : State} (h : Sound s0 s) {cells : Vector Cell 256}
    {free : Nat} {hostOut : List HostWrite} {waits latWaits : Assoc Nat} {step : StepUnit} {ports : Vector Port 16} {lastPort : Fin 16} {inkSwap fusSwap : TableSwap}
    {mesh : List MeshItem} {weights : Memory} {clutches : Vector Clutch 16} {motion : Vector MotionPort 4} {ego : Ego} {fus : Fusion}
    {pq : Vector (List FifoWord) 16}
    {pqOvr : BitVec 16} {trk : Tracker} {scm : Scene} {hosts : Vector HostPort 2} {sems : Vector Sem 64} {slots : Slots} {pwr : Power}
    {led : Ledger} {saf : Safety} {sec : Security} {disc : Discovery} {pins : Pins}
    (h1 : step.due = s.step.due) (h2 : step.running = s.step.running)
    (h3 : pins.faultA = s.pins.faultA) (h4 : pins.faultB = s.pins.faultB) (h5 : pins.zone = s.pins.zone)
    (h6 : saf.noFault = s.saf.noFault)
    (hx : (∀ x ∈ s.cells.toList, x.stored = true) → ∀ x ∈ cells.toList, x.stored = true) :
    Sound s0 { s with
    cells := cells, free := free, hostOut := hostOut, waits := waits, latWaits := latWaits, step := step, ports := ports, lastPort := lastPort,
    inkSwap := inkSwap, fusSwap := fusSwap, mesh := mesh, weights := weights, clutches := clutches, motion := motion, ego := ego,
    fus := fus, pq := pq, pqOvr := pqOvr, trk := trk, scm := scm, hosts := hosts, sems := sems, slots := slots, pwr := pwr, led := led,
    saf := saf, sec := sec, disc := disc, pins := pins } :=
  h.updCells rfl rfl rfl rfl rfl h1 h2 h3 h4 h5 h6 hx

/-- Cells changed one by one. -/
theorem stored_map {l : Vector Cell 256} (f : Cell → Cell) (hf : ∀ x, x.stored = true → (f x).stored = true) (h : ∀ x ∈ l.toList, x.stored = true) :
    ∀ x ∈ (l.map f).toList, x.stored = true := by
  intro x m
  rw [Vector.toList_map, List.mem_map] at m
  obtain ⟨y, hy, rfl⟩ := m
  exact hf y (h y hy)

theorem stored_map' {l : Vector Cell 256} (f : Cell → Cell) (hf : ∀ x, (f x).thatch = x.thatch ∧ (f x).cwm = x.cwm)
    (h : ∀ x ∈ l.toList, x.stored = true) : ∀ x ∈ (l.map f).toList, x.stored = true :=
  stored_map f (fun x k => by simpa [Cell.stored, (hf x).1, (hf x).2] using k) h

/-- Cells given one by one. -/
theorem stored_ofFn {f : Fin 256 → Cell} (hf : ∀ c, (f c).stored = true) : ∀ x ∈ (Vector.ofFn f).toList, x.stored = true := by
  intro x m
  rw [Vector.toList_ofFn, List.mem_ofFn] at m
  obtain ⟨c, rfl⟩ := m
  exact hf c

theorem Sound.ite {s0 a b : State} {p : Prop} [Decidable p] (ha : Sound s0 a) (hb : Sound s0 b) : Sound s0 (if p then a else b) := by
  split <;> assumption

theorem Sound.each {s0 : State} {β : Type} {f : State → β → State} (hf : ∀ s b, Sound s0 s → Sound s0 (f s b)) :
    ∀ (l : List β) (s : State), Sound s0 s → Sound s0 (s.each l f)
  | [], _, h => h
  | b :: l, s, h => Sound.each hf l (f s b) (hf s b h)

theorem Sound.foldl {s0 : State} {β : Type} {f : State → β → State} (hf : ∀ s b, Sound s0 s → Sound s0 (f s b)) (l : List β) (s : State)
    (h : Sound s0 s) : Sound s0 (l.foldl f s) := Sound.each hf l s h

/-- A state that may be answered keeps the relation. -/
def Sound.opt (s0 : State) (o : Option State) : Prop := ∀ t, o = some t → Sound s0 t

theorem Sound.opt_none (s0 : State) : Sound.opt s0 none := fun _ h => nomatch h
theorem Sound.opt_some {s0 t : State} (h : Sound s0 t) : Sound.opt s0 (some t) := fun _ e => by cases e; exact h
theorem Sound.opt_ite {s0 : State} {a b : Option State} {p : Prop} [Decidable p] (ha : Sound.opt s0 a) (hb : Sound.opt s0 b) :
    Sound.opt s0 (if p then a else b) := by
  split <;> assumption

/-! ## Access to the parts of the state -/

section
variable {s0 s : State}

theorem Sound.setCell (h : Sound s0 s) (c : Fin 256) (x : Cell) (hx : (s.cell c).stored = true → x.stored = true) : Sound s0 (s.setCell c x) := by
  refine h.updCells rfl rfl rfl rfl rfl rfl rfl rfl rfl rfl rfl fun k y m => ?_
  have h0 : (s.cell c).stored = true := k _ (by simp [State.cell])
  simp only [State.setCell, Vector.toList_set] at m
  rcases List.mem_or_eq_of_mem_set m with m | rfl
  · exact k y m
  · exact hx h0

theorem Sound.setCell' (h : Sound s0 s) (c : Fin 256) (x : Cell) (ht : x.thatch = (s.cell c).thatch) (hc : x.cwm = (s.cell c).cwm) :
    Sound s0 (s.setCell c x) := h.setCell c x fun k => by simpa [Cell.stored, ht, hc] using k

theorem Sound.modCell (h : Sound s0 s) (c : Fin 256) (f : Cell → Cell) (hf : ∀ x, x.stored = true → (f x).stored = true) :
    Sound s0 (s.modCell c f) := h.setCell c _ (hf _)

theorem Sound.modCell' (h : Sound s0 s) (c : Fin 256) (f : Cell → Cell) (hf : ∀ x, (f x).thatch = x.thatch ∧ (f x).cwm = x.cwm) :
    Sound s0 (s.modCell c f) := h.modCell c f fun x k => by simpa [Cell.stored, (hf x).1, (hf x).2] using k

theorem Sound.setPort (h : Sound s0 s) (p : Fin 16) (x : Port) : Sound s0 (s.setPort p x) := h.upd rfl rfl rfl rfl rfl rfl rfl rfl rfl rfl rfl rfl
theorem Sound.modPort (h : Sound s0 s) (p : Fin 16) (f : Port → Port) : Sound s0 (s.modPort p f) := h.setPort p _
theorem Sound.setClutch (h : Sound s0 s) (p : Fin 16) (x : Clutch) : Sound s0 (s.setClutch p x) := h.upd rfl rfl rfl rfl rfl rfl rfl rfl rfl rfl rfl rfl
theorem Sound.modClutch (h : Sound s0 s) (p : Fin 16) (f : Clutch → Clutch) : Sound s0 (s.modClutch p f) := h.setClutch p _
theorem Sound.setHost (h : Sound s0 s) (p : Fin 2) (x : HostPort) : Sound s0 (s.setHost p x) := h.upd rfl rfl rfl rfl rfl rfl rfl rfl rfl rfl rfl rfl
theorem Sound.modHost (h : Sound s0 s) (p : Fin 2) (f : HostPort → HostPort) : Sound s0 (s.modHost p f) := h.setHost p _
theorem Sound.setSem (h : Sound s0 s) (n : Fin 64) (x : Sem) : Sound s0 (s.setSem n x) := h.upd rfl rfl rfl rfl rfl rfl rfl rfl rfl rfl rfl rfl
theorem Sound.setMot (h : Sound s0 s) (m : Fin 4) (x : MotionPort) : Sound s0 (s.setMot m x) := h.upd rfl rfl rfl rfl rfl rfl rfl rfl rfl rfl rfl rfl

/-! ## Registers and counters -/

/-- A change of the three sparse stores. -/
theorem Sound.updStores {t : State} (h : Sound s0 s) (hp : t.pending = s.pending) (hx : t.cells = s.cells) (h1 : t.step = s.step)
    (h2 : t.pins = s.pins) (h3 : t.saf = s.saf) (hr : assocWf resetOf s.regs = true → assocWf resetOf t.regs = true)
    (hq : assocWf (fun k => cfgParity k (resetOf k)) s.par = true → assocWf (fun k => cfgParity k (resetOf k)) t.par = true)
    (hc : assocWf (fun _ => 0) s.cnt = true → assocWf (fun _ => 0) t.cnt = true)
    (hl : assocWf (fun _ => 0) s.lat = true → assocWf (fun _ => 0) s.cnt = true → assocWf (fun _ => 0) t.lat = true) : Sound s0 t := by
  refine ⟨hp.trans h.pending, fun k => ?_, fun k => ?_⟩
  · have := h.control k
    simpa only [State.controlOk, h1, h2, h3] using this
  · have := h.stores k
    simp only [State.storesWf, Bool.and_eq_true, hx] at this ⊢
    exact ⟨⟨⟨⟨hr this.1.1.1.1, hq this.1.1.1.2⟩, hc this.1.1.2⟩, hl this.1.2 this.1.1.2⟩, this.2⟩

theorem Sound.setReg (h : Sound s0 s) (key : Nat) (v : Word) : Sound s0 (s.setReg key v) :=
  h.updStores rfl rfl rfl rfl rfl (fun k => assocWf_set resetOf _ key v k)
    (fun k => by
      simp only [State.setReg, State.parAfter]
      split
      · exact k
      · exact assocWf_set (fun k => cfgParity k (resetOf k)) _ key _ k) id fun k _ => k

theorem Sound.setFld (h : Sound s0 s) (key hi lo v : Nat) : Sound s0 (s.setFld key hi lo v) := h.setReg key _

theorem Sound.bump (h : Sound s0 s) (key n : Nat) : Sound s0 (s.bump key n) :=
  h.updStores rfl rfl rfl rfl rfl id id (fun k => assocWf_set (fun _ => 0) _ key _ k) fun k _ => k

theorem Sound.setCtr (h : Sound s0 s) (key : Nat) (v : Word) : Sound s0 (s.setCtr key v) :=
  h.updStores rfl rfl rfl rfl rfl id id (fun k => assocWf_set (fun _ => 0) _ key _ k) fun k _ => k

theorem Sound.strike (h : Sound s0 s) (key : Nat) (i : Fin 33) : Sound s0 (s.strike key i) := by
  unfold State.strike
  split
  · split
    · exact h
    · exact h.updStores rfl rfl rfl rfl rfl id (fun k => assocWf_set (fun k => cfgParity k (resetOf k)) _ key _ k) id fun k _ => k
  · split
    · exact h.updStores rfl rfl rfl rfl rfl (fun k => assocWf_set resetOf _ key _ k) id id fun k _ => k
    · exact h

theorem Sound.dropRegs (h : Sound s0 s) (p : Nat → Bool) : Sound s0 (s.dropRegs p) :=
  h.updStores rfl rfl rfl rfl rfl (fun k => assocWf_filter _ _ _ k) (fun k => assocWf_filter _ _ _ k) id fun k _ => k

theorem Sound.tick (h : Sound s0 s) : Sound s0 s.tick := h.upd rfl rfl rfl rfl rfl rfl rfl rfl rfl rfl rfl rfl
theorem Sound.ticks (h : Sound s0 s) (n : Nat) : Sound s0 (s.ticks n) := h.upd rfl rfl rfl rfl rfl rfl rfl rfl rfl rfl rfl rfl

end

end Sys2Proof.Machine
end

