-- ==== Sys2Proof/Laws/SoundCells.lean ====
section
/-! SUPPORT. What the shared operations of cells, queues and engines keep (Laws/Sound.lean): one lemma per operation, by the file that defines it. -/

namespace Sys2Proof.Machine

/-! ## Machine/Ops.lean -/

theorem Sound.countWait {s0 s : State} (hs : Sound s0 s) (key : Nat) : Sound s0 (s.countWait key) := by
  unfold State.countWait
  repeat' with_reducible first | exact hs | apply Sound.tick | refine Sound.put ?_ rfl rfl rfl rfl rfl rfl

theorem Sound.countStall {s0 s : State} (hs : Sound s0 s) (c : Fin 256) (o : Nat) : Sound s0 (s.countStall c o) := by
  unfold State.countStall
  repeat' with_reducible first | exact hs | apply Sound.bump | apply Sound.countWait

theorem Sound.updAttn {s0 s : State} (hs : Sound s0 s) : Sound s0 (s.updAttn) := by
  unfold State.updAttn
  repeat' with_reducible first | exact hs | apply Sound.ite | refine Sound.put ?_ rfl rfl rfl rfl rfl rfl

theorem Sound.writeRing {s0 s : State} (hs : Sound s0 s) (h : Fin 2) (n : Nat) (words : List DWord) : Sound s0 (s.writeRing h n words) := by
  unfold State.writeRing
  dsimp -failIfUnchanged only
  repeat' with_reducible first
    | exact hs | apply Sound.modHost | apply Sound.updAttn | apply Sound.bump | apply Sound.setFld | apply Sound.ite
    | refine Sound.put ?_ rfl rfl rfl rfl rfl rfl

theorem Sound.putRecord {s0 s : State} (hs : Sound s0 s) (h : Fin 2) (n : Nat) (words : List DWord) : Sound s0 (s.putRecord h n words) := by
  unfold State.putRecord
  repeat' with_reducible first | exact hs | apply Sound.writeRing | apply Sound.modHost | apply Sound.ite

theorem Sound.drainOut {s0 s : State} (hs : Sound s0 s) (h : Fin 2) : Sound s0 (s.drainOut h) := by
  unfold State.drainOut
  repeat' with_reducible first
    | assumption | apply Sound.modHost | apply Sound.writeRing | refine Sound.each (fun _ _ _ => ?_) _ _ ?_ | apply Sound.ite

theorem Sound.postTo {s0 s : State} (hs : Sound s0 s) (h : Fin 2) (n kind : Nat) (words : List DWord) : Sound s0 (s.postTo h n kind words) := by
  unfold State.postTo
  repeat' with_reducible first | exact hs | apply Sound.putRecord | apply Sound.ite

theorem Sound.noticeTo {s0 s : State} (hs : Sound s0 s) (h : Fin 2) (type : Nat) (p0 p1 : DWord) : Sound s0 (s.noticeTo h type p0 p1) := by
  unfold State.noticeTo
  repeat' with_reducible first | exact hs | apply Sound.postTo

theorem Sound.notice {s0 s : State} (hs : Sound s0 s) (type : Nat) (p0 p1 : DWord) : Sound s0 (s.notice type p0 p1) := by
  unfold State.notice
  repeat' with_reducible first | exact hs | apply Sound.noticeTo

theorem Sound.routed {s0 s : State} (hs : Sound s0 s) (t : Nat) (words : List DWord) : Sound s0 (s.routed t words) := by
  unfold State.routed
  dsimp -failIfUnchanged only
  repeat' with_reducible first | assumption | apply Sound.putRecord | refine Sound.each (fun _ _ _ => ?_) _ _ ?_ | apply Sound.ite

theorem Sound.toTokenRing {s0 s : State} (hs : Sound s0 s) (words : List DWord) : Sound s0 (s.toTokenRing words) := by
  unfold State.toTokenRing
  repeat' first | with_reducible assumption | with_reducible apply Sound.putRecord | with_reducible refine Sound.each (fun _ _ _ => ?_) _ _ ?_ | split

theorem Sound.ungate {s0 s : State} (hs : Sound s0 s) (cl : Fin 16) : Sound s0 (s.ungate cl) := by
  unfold State.ungate
  repeat' with_reducible first | exact hs | apply Sound.modClutch

theorem Sound.dropZones {s0 s : State} (hs : Sound s0 s) : Sound s0 s.dropZones :=
  ⟨hs.pending, fun k => by
    have := hs.control k
    simp only [State.controlOk, Bool.and_eq_true] at this
    simp [State.controlOk, State.dropZones, this.1], hs.stores⟩

theorem Sound.driveFault {s0 s : State} (hs : Sound s0 s) : Sound s0 s.driveFault :=
  ⟨hs.pending, fun k => by
    have := hs.control k
    simp only [State.controlOk, Bool.and_eq_true] at this
    simp [State.controlOk, State.driveFault, this.1.1.1], hs.stores⟩

theorem Sound.driveNoFault {s0 s : State} (hs : Sound s0 s) : Sound s0 s.driveNoFault :=
  ⟨hs.pending, fun k => by
    have := hs.control k
    simp only [State.controlOk, Bool.and_eq_true, Bool.or_eq_true] at this
    simpa [State.controlOk, State.driveNoFault] using And.intro (by simpa using this.1.1.1) (this.2.imp (by simp) (by simp)), hs.stores⟩

theorem Sound.logFault {s0 s : State} (hs : Sound s0 s) (p0 detail : Word) : Sound s0 (s.logFault p0 detail) := by
  unfold State.logFault
  dsimp -failIfUnchanged only
  repeat' with_reducible first | exact hs | refine Sound.put ?_ rfl rfl rfl rfl rfl rfl

theorem Sound.faultNotice {s0 s : State} (hs : Sound s0 s) (p0 detail : Word) : Sound s0 (s.faultNotice p0 detail) := by
  unfold State.faultNotice
  repeat' with_reducible first | exact hs | apply Sound.notice

theorem Sound.cellFault {s0 s : State} (hs : Sound s0 s) (cause : Nat) (c : Fin 256) (detail : Word) : Sound s0 (s.cellFault cause c detail) := by
  unfold State.cellFault
  dsimp -failIfUnchanged only
  repeat' with_reducible first | exact hs | apply Sound.bump | apply Sound.logFault | apply Sound.faultNotice

theorem Sound.deviceFault {s0 s : State} (hs : Sound s0 s) (cause b unit ukind : Nat) (detail : Word) (stays : Bool) :
    Sound s0 (s.deviceFault cause b unit ukind detail stays) := by
  unfold State.deviceFault
  dsimp -failIfUnchanged only
  repeat' with_reducible first
    | exact hs | apply Sound.bump | apply Sound.logFault | apply Sound.faultNotice | apply Sound.driveFault | apply Sound.ite
    | refine Sound.put ?_ rfl rfl rfl rfl rfl rfl

theorem Sound.causeGone {s0 s : State} (hs : Sound s0 s) (b : Nat) : Sound s0 (s.causeGone b) := by
  unfold State.causeGone
  repeat' with_reducible first | exact hs | refine Sound.put ?_ rfl rfl rfl rfl rfl rfl

/-! ## Machine/Grid.lean -/

theorem Sound.setCellMeta {s0 s : State} (hs : Sound s0 s) (cell m : Nat) : Sound s0 (s.setCellMeta cell m) := by
  unfold State.setCellMeta
  repeat' with_reducible first | exact hs | refine Sound.put ?_ rfl rfl rfl rfl rfl rfl

theorem Sound.fusionEcc {s0 s : State} (hs : Sound s0 s) : Sound s0 (s.fusionEcc) := by
  unfold State.fusionEcc
  repeat' with_reducible first | exact hs | apply Sound.deviceFault | refine Sound.put ?_ rfl rfl rfl rfl rfl rfl

theorem Sound.fusionRead {s0 s : State} (hs : Sound s0 s) (e : Ecc) : Sound s0 (s.fusionRead e) := by
  unfold State.fusionRead
  repeat' first | with_reducible exact hs | with_reducible apply Sound.bump | with_reducible apply Sound.fusionEcc | split

theorem Sound.reservedRead {s0 s : State} (hs : Sound s0 s) (e : Ecc) : Sound s0 (s.reservedRead e) := by
  unfold State.reservedRead
  repeat' first | with_reducible exact hs | with_reducible apply Sound.bump | with_reducible apply Sound.deviceFault | split

theorem Sound.blend {s0 s : State} (hs : Sound s0 s) (l : List DWord) (cell : Nat) : Sound s0 (s.blend l cell).1 :=
  hs.put rfl rfl rfl rfl rfl rfl

theorem Sound.give {s0 s : State} (hs : Sound s0 s) (g : Given) : Sound s0 (s.give g).1 := by
  unfold State.give
  dsimp only
  split
  · split
    · exact hs.put rfl rfl rfl rfl rfl rfl
    · exact hs.blend ..
  · exact hs.put rfl rfl rfl rfl rfl rfl

theorem Sound.giveNew {s0 s : State} (hs : Sound s0 s) (g : Given) : Sound s0 (s.giveNew g) := by
  have h1 : Sound s0 { (s.give g).1 with fus := { (s.give g).1.fus with given := (s.give g).1.fus.given ++ [g] } } :=
    (hs.give g).put rfl rfl rfl rfl rfl rfl
  unfold State.giveNew
  exact .ite (h1.bump ..) h1

theorem Sound.settleFusion {s0 s : State} (hs : Sound s0 s) : Sound s0 (s.settleFusion) := by
  unfold State.settleFusion
  repeat' with_reducible first | exact hs | refine Sound.put ?_ rfl rfl rfl rfl rfl rfl

theorem Sound.takeBack {s0 s : State} (hs : Sound s0 s) (c : Fin 256) : Sound s0 (s.takeBack c) := by
  unfold State.takeBack
  exact .ite hs (Sound.each (fun _ _ h => h.give _) _ _ (hs.put rfl rfl rfl rfl rfl rfl))

/-! ## Machine/Routes.lean -/

theorem Sound.writeRoutes {s0 s : State} (hs : Sound s0 s) : Sound s0 (s.writeRoutes) := by
  unfold State.writeRoutes
  repeat' with_reducible first | exact hs | refine Sound.put ?_ rfl rfl rfl rfl rfl rfl

/-! ## Machine/CellOut.lean -/

theorem Sound.faultDisable {s0 s : State} (hs : Sound s0 s) (c : Fin 256) : Sound s0 (s.faultDisable c) := by
  unfold State.faultDisable
  repeat' with_reducible first | exact hs | apply Sound.setReg | refine Sound.modCell' ?_ _ _ fun _ => ⟨rfl, rfl⟩

theorem Sound.copyEnds {s0 s : State} (hs : Sound s0 s) (c : Fin 256) (t : Fin 16) (admitted noroute : Bool) :
    Sound s0 (s.copyEnds c t admitted noroute) := by
  unfold State.copyEnds
  dsimp -failIfUnchanged only
  repeat' first | with_reducible exact hs | with_reducible refine Sound.modCell' ?_ _ _ fun _ => ?_ | exact ⟨rfl, rfl⟩ | split

theorem Sound.discardRouteless {s0 s : State} (hs : Sound s0 s) (m : MeshItem) : Sound s0 (s.discardRouteless m) := by
  unfold State.discardRouteless
  dsimp -failIfUnchanged only
  repeat' first | with_reducible exact hs | with_reducible apply Sound.bump | with_reducible apply Sound.copyEnds | split

theorem Sound.dropMeshTo {s0 s : State} (hs : Sound s0 s) (c : Fin 256) : Sound s0 (s.dropMeshTo c) := by
  unfold State.dropMeshTo
  dsimp -failIfUnchanged only
  repeat' with_reducible first
    | assumption | apply Sound.discardRouteless | refine Sound.each (fun _ _ _ => ?_) _ _ ?_ | refine Sound.put ?_ rfl rfl rfl rfl rfl rfl

theorem Sound.dropRoute {s0 s : State} (hs : Sound s0 s) (c : Fin 256) : Sound s0 (s.dropRoute c) := by
  unfold State.dropRoute
  repeat' with_reducible first | exact hs | apply Sound.dropMeshTo | refine Sound.put ?_ rfl rfl rfl rfl rfl rfl

theorem Sound.enterRecovery {s0 s : State} (hs : Sound s0 s) : Sound s0 (s.enterRecovery) := by
  unfold State.enterRecovery
  repeat' with_reducible first | exact hs | apply Sound.bump | refine Sound.put ?_ rfl rfl rfl rfl rfl rfl

theorem Sound.keepRecovery {s0 s : State} (hs : Sound s0 s) : Sound s0 (s.keepRecovery) := by
  unfold State.keepRecovery
  repeat' with_reducible first | exact hs | refine Sound.put ?_ rfl rfl rfl rfl rfl rfl

theorem Sound.dropHeld {s0 s : State} (hs : Sound s0 s) (c : Fin 256) : Sound s0 (s.dropHeld c) := by
  unfold State.dropHeld
  repeat' with_reducible first | exact hs | refine Sound.put ?_ rfl rfl rfl rfl rfl rfl

theorem Sound.withdraw {s0 s : State} (hs : Sound s0 s) (c : Fin 256) : Sound s0 (s.withdraw c) := by
  unfold State.withdraw
  dsimp -failIfUnchanged only
  repeat' with_reducible first | exact hs | apply Sound.takeBack | refine Sound.put ?_ rfl rfl rfl rfl rfl rfl

theorem Sound.cellOut {s0 s : State} (hs : Sound s0 s) (c : Fin 256) : Sound s0 (s.cellOut c) := by
  unfold State.cellOut
  dsimp -failIfUnchanged only
  repeat' with_reducible first
    | exact hs | apply Sound.setReg | apply Sound.dropHeld | apply Sound.withdraw | apply Sound.dropRoute
    | refine Sound.modCell' ?_ _ _ fun _ => ⟨rfl, rfl⟩

theorem Sound.clutchOut {s0 s : State} (hs : Sound s0 s) (cl : Fin 16) : Sound s0 (s.clutchOut cl) := by
  unfold State.clutchOut
  dsimp -failIfUnchanged only
  repeat' with_reducible first
    | assumption | apply Sound.modClutch | apply Sound.cellOut | apply Sound.causeGone | apply Sound.deviceFault
    | refine Sound.each (fun _ _ _ => ?_) _ _ ?_ | apply Sound.ite

theorem Sound.positionFails {s0 s : State} (hs : Sound s0 s) (c : Fin 256) : Sound s0 (s.positionFails c) := by
  unfold State.positionFails
  repeat' with_reducible first | exact hs | refine Sound.put ?_ rfl rfl rfl rfl rfl rfl

theorem Sound.failCell {s0 s : State} (hs : Sound s0 s) (c : Fin 256) (health : Nat) (cause : Nat) (detail : Word) :
    Sound s0 (s.failCell c health cause detail) := by
  unfold State.failCell
  dsimp -failIfUnchanged only
  repeat' with_reducible first
    | exact hs | apply Sound.faultDisable | apply Sound.positionFails | apply Sound.dropHeld | apply Sound.withdraw | apply Sound.dropRoute
    | apply Sound.cellFault | apply Sound.enterRecovery | apply Sound.clutchOut | refine Sound.modCell' ?_ _ _ fun _ => ⟨rfl, rfl⟩ | apply Sound.ite

theorem Sound.meet {s0 s : State} (hs : Sound s0 s) (c : Fin 256) (u : Upset) : Sound s0 (s.meet c u).1 := by
  unfold State.meet
  split <;> first | exact hs.failCell .. | exact hs.bump .. | exact hs

theorem Sound.meetAll {s0 s : State} (hs : Sound s0 s) (ups : CellUpsets) : Sound s0 (s.meetAll ups) :=
  Sound.each (fun _ _ h => h.meet _ _) _ _ hs

theorem Sound.fatalFault {s0 s : State} (hs : Sound s0 s) (cause b unit ukind : Nat) (detail : Word) :
    Sound s0 (s.fatalFault cause b unit ukind detail) := by
  unfold State.fatalFault
  dsimp -failIfUnchanged only
  repeat' with_reducible first
    | assumption | apply Sound.bump | apply Sound.logFault | apply Sound.faultDisable | apply Sound.driveFault
    | refine Sound.each (fun _ _ _ => ?_) _ _ ?_ | apply Sound.ite | refine Sound.put ?_ rfl rfl rfl rfl rfl rfl

theorem Sound.rearm {s0 s : State} (hs : Sound s0 s) : Sound s0 (s.rearm) := by
  unfold State.rearm
  repeat' with_reducible first | exact hs | refine Sound.put ?_ rfl rfl rfl rfl rfl rfl

theorem Sound.postStatus {s0 s : State} (hs : Sound s0 s) (c : Fin 256) (kind arg : Nat) (data : Word) : Sound s0 (s.postStatus c kind arg data) := by
  unfold State.postStatus
  repeat' with_reducible first | exact hs | refine Sound.modCell' ?_ _ _ fun _ => ⟨rfl, rfl⟩

/-! ## Machine/Charge.lean -/

theorem Sound.addTotal {s0 s : State} (hs : Sound s0 s) (sel n : Nat) : Sound s0 (s.addTotal sel n) := by
  unfold State.addTotal
  repeat' with_reducible first | exact hs | refine Sound.put ?_ rfl rfl rfl rfl rfl rfl

theorem Sound.spend {s0 s : State} (hs : Sound s0 s) (c : Fin 256) (q : Nat) : Sound s0 (s.spend c q) := by
  unfold State.spend
  dsimp -failIfUnchanged only
  repeat' with_reducible first
    | exact hs | apply Sound.modClutch | apply Sound.bump | apply Sound.addTotal | refine Sound.setCell' ?_ _ _ rfl rfl | apply Sound.ite

theorem Sound.charge {s0 s : State} (hs : Sound s0 s) (c : Fin 256) (i n : Nat) : Sound s0 (s.charge c i n) := by
  unfold State.charge
  dsimp -failIfUnchanged only
  repeat' with_reducible first
    | exact hs | apply Sound.addTotal | apply Sound.spend | refine Sound.modCell' ?_ _ _ fun _ => ⟨rfl, rfl⟩ | apply Sound.ite

theorem Sound.chargeFree {s0 s : State} (hs : Sound s0 s) (c : Fin 256) (l : List Nat) : Sound s0 (s.chargeFree c l) := by
  unfold State.chargeFree
  repeat' with_reducible first | assumption | apply Sound.charge | apply Sound.tick | refine Sound.each (fun _ _ _ => ?_) _ _ ?_

theorem Sound.clocks {s0 s : State} (hs : Sound s0 s) (c : Fin 256) : Sound s0 (s.clocks c) := by
  unfold State.clocks
  repeat' with_reducible first | exact hs | apply Sound.chargeFree

/-! ## Machine/Queues.lean -/

theorem Sound.setQueue {s0 s : State} (hs : Sound s0 s) (c q : Fin 256) (x : Queue) : Sound s0 (s.setQueue c q x) := by
  unfold State.setQueue
  repeat' with_reducible first | exact hs | refine Sound.modCell' ?_ _ _ fun _ => ⟨rfl, rfl⟩

theorem Sound.putQueue {s0 s : State} (hs : Sound s0 s) (c q : Fin 256) (x : Queue) : Sound s0 (s.putQueue c q x) := by
  unfold State.putQueue
  repeat' with_reducible first | exact hs | apply Sound.setQueue

theorem Sound.landWords {s0 s : State} (hs : Sound s0 s) (c q : Fin 256) (ws : List QWord) : Sound s0 (s.landWords c q ws) := by
  unfold State.landWords
  dsimp -failIfUnchanged only
  repeat' with_reducible first | exact hs | apply Sound.bump | apply Sound.putQueue | apply Sound.ite

theorem Sound.ignoreAt {s0 s : State} (hs : Sound s0 s) (c q : Fin 256) : Sound s0 (s.ignoreAt c q) := by
  unfold State.ignoreAt
  repeat' with_reducible first | exact hs | apply Sound.bump | apply Sound.setQueue

theorem Sound.pushWord {s0 s : State} (hs : Sound s0 s) (c q : Fin 256) (w : QWord) : Sound s0 (s.pushWord c q w) := by
  unfold State.pushWord
  dsimp -failIfUnchanged only
  repeat' with_reducible first | exact hs | apply Sound.bump | apply Sound.setQueue | apply Sound.landWords | apply Sound.ite

theorem Sound.pushLocal {s0 s : State} (hs : Sound s0 s) (c q : Fin 256) (ws : List QWord) : Sound s0 (s.pushLocal c q ws) := by
  unfold State.pushLocal
  repeat' with_reducible first
    | assumption | apply Sound.pushWord | apply Sound.ignoreAt | refine Sound.each (fun _ _ _ => ?_) _ _ ?_ | apply Sound.ite

theorem Sound.queueUpsets {s0 s : State} (hs : Sound s0 s) (c q : Fin 256) (u : Upset) : Sound s0 (s.queueUpsets c q u) := by
  unfold State.queueUpsets
  repeat' first | with_reducible exact hs | with_reducible apply Sound.setQueue | with_reducible apply Sound.ticks | split

theorem Sound.flush {s0 s : State} (hs : Sound s0 s) (c q : Fin 256) : Sound s0 (s.flush c q) := by
  unfold State.flush
  repeat' with_reducible first | exact hs | apply Sound.putQueue

theorem Sound.chargeLanded {s0 t : State} (ht : Sound s0 t) (s : State) (c q : Fin 256) : Sound s0 (s.chargeLanded t c q) := ht.charge ..

theorem Sound.land {s0 s : State} (hs : Sound s0 s) (c q : Fin 256) (ws : List DWord) : Sound s0 (s.land c q ws) :=
  (hs.landWords ..).chargeLanded ..

theorem Sound.landItem {s0 s : State} (hs : Sound s0 s) (c q : Fin 256) (ws : List DWord) : Sound s0 (s.landItem c q ws) := by
  unfold State.landItem
  repeat' first
    | with_reducible exact hs | with_reducible apply Sound.land | with_reducible apply Sound.ignoreAt | with_reducible apply Sound.bump | split

theorem Sound.popWord {s0 s : State} (hs : Sound s0 s) (c q : Fin 256) : Sound s0 (s.popWord c q).2 := by
  unfold State.popWord
  dsimp only
  split
  · exact (hs.bump ..).setQueue ..
  · exact Sound.putQueue (.ite (hs.bump ..) hs) ..

theorem Sound.popWords {s0 s : State} (hs : Sound s0 s) (c q : Fin 256) (n : Nat) : Sound s0 (s.popWords c q n).2 := by
  induction n generalizing s with
  | zero => exact hs
  | succ k ih => exact ih (hs.popWord ..)

/-! ## Machine/CellMem.lean -/

/-- A memory of a sound cell is in canonical form. -/
theorem Cell.mem_wf {x : Cell} (h : x.stored = true) (m : Mem) : Memory.wf (x.mem m) = true := by
  simp only [Cell.stored, Bool.and_eq_true] at h
  cases m
  · exact h.1
  · exact h.2

theorem Cell.stored_setMem {x : Cell} (h : x.stored = true) (m : Mem) (v : Memory) (hv : Memory.wf v = true) : (x.setMem m v).stored = true := by
  simp only [Cell.stored, Bool.and_eq_true] at h ⊢
  cases m
  · exact ⟨hv, h.2⟩
  · exact ⟨h.1, hv⟩

theorem Sound.checkMem {s0 s : State} (hs : Sound s0 s) (c : Fin 256) (m : Mem) (a n : Nat) : Sound s0 (s.checkMem c m a n) := by
  unfold State.checkMem
  repeat' with_reducible first | exact hs | apply Sound.bump | apply Sound.ite

theorem Sound.storeMem {s0 s : State} (hs : Sound s0 s) (c : Fin 256) (m : Mem) (a : Nat) (bs : List Byte) : Sound s0 (s.storeMem c m a bs) := by
  unfold State.storeMem
  refine Sound.modCell ?_ _ _ fun x k => Cell.stored_setMem k _ _ (memWriteBytes_wf _ _ _ (Cell.mem_wf k m))
  exact hs

theorem Sound.writeMem {s0 s : State} (hs : Sound s0 s) (c : Fin 256) (m : Mem) (a : Nat) (bs : List Byte) : Sound s0 (s.writeMem c m a bs) := by
  unfold State.writeMem
  repeat' with_reducible first | exact hs | apply Sound.checkMem | apply Sound.storeMem

theorem clearLine_wf (t : Memory) (line eu : Nat) (all : Bool) (h : Memory.wf t = true) : Memory.wf (clearLine t line eu all).1 = true := by
  unfold clearLine
  suffices ∀ (l : List Nat) (r : Memory × Nat), Memory.wf r.1 = true → Memory.wf (l.foldl (fun r i =>
      let a := 64 * line + 2 * i
      let e := memNat r.1 a 2
      if bitAt e 15 && (all || decide (16384 ≤ stAge eu e)) then (memWriteNat r.1 a 2 (e - 32768), r.2 + 1) else r) r).1 = true from
    this _ (t, 0) h
  intro l
  induction l with
  | nil => exact fun _ h => h
  | cons i l ih => exact fun r h => ih _ (by dsimp only; split <;> first | exact memWriteNat_wf _ _ _ _ h | exact h)

theorem clearLines_wf (t : Memory) (limit : Nat) (l : List Nat) (eu : Nat) (all : Bool) (h : Memory.wf t = true) :
    Memory.wf (clearLines t limit l eu all).1 = true := by
  unfold clearLines
  suffices ∀ (l : List Nat) (r : Memory × Nat), Memory.wf r.1 = true →
      Memory.wf (l.foldl (fun r line => if limit ≤ line then r else let x := clearLine r.1 line eu all; (x.1, r.2 + x.2)) r).1 = true from this l (t, 0) h
  intro l
  induction l with
  | nil => exact fun _ h => h
  | cons a l ih => exact fun r h => ih _ (by dsimp only; split <;> first | exact h | exact clearLine_wf _ _ _ _ h)

theorem Sound.visitLines {s0 s : State} (hs : Sound s0 s) (c : Fin 256) (l : List Nat) (eu : Nat) (all : Bool) :
    Sound s0 (s.visitLines c l eu all).2 := by
  have h : Sound s0 (s.modCell c fun x => { x with thatch := (clearLines (s.cell c).thatch (s.memLimit c .thatch / 64) l eu all).1 }) :=
    Sound.setCell hs _ _ fun k => by rw [Cell.stored_iff] at k ⊢; exact ⟨clearLines_wf _ _ _ _ _ k.1, k.2⟩
  exact .ite h (h.bump ..)

/-! ## Machine/Operands.lean -/

/-! ## A cell's registers are not its memories -/

theorem Cell.setS_mems (x : Cell) (n : BitVec 5) (v : Word) : (x.setS n v).thatch = x.thatch ∧ (x.setS n v).cwm = x.cwm := by
  unfold Cell.setS; split <;> exact ⟨rfl, rfl⟩

theorem Cell.setP_mems (x : Cell) (n : BitVec 3) (v : Bool) : (x.setP n v).thatch = x.thatch ∧ (x.setP n v).cwm = x.cwm := by
  unfold Cell.setP; split <;> exact ⟨rfl, rfl⟩

theorem Cell.setV_mems (x : Cell) (n : BitVec 4) (v : VReg) : (x.setV n v).thatch = x.thatch ∧ (x.setV n v).cwm = x.cwm := ⟨rfl, rfl⟩
theorem Cell.setG_mems (x : Cell) (n : BitVec 3) (v : GReg) : (x.setG n v).thatch = x.thatch ∧ (x.setG n v).cwm = x.cwm := ⟨rfl, rfl⟩
theorem Cell.take_mems (x : Cell) (t : Nat) (o : PendingOp) : (x.take t o).thatch = x.thatch ∧ (x.take t o).cwm = x.cwm := ⟨rfl, rfl⟩
theorem Cell.advance_mems (x : Cell) : x.advance.thatch = x.thatch ∧ x.advance.cwm = x.cwm := ⟨rfl, rfl⟩
theorem Cell.jumpTo_mems (x : Cell) (t : BitVec 16) : (x.jumpTo t).thatch = x.thatch ∧ (x.jumpTo t).cwm = x.cwm := ⟨rfl, rfl⟩

/-- How an instruction ends keeps the relation where it ends in a state. -/
def Issue.sound (s0 : State) (r : Issue) : Prop :=
  match r with
  | .go t => Sound s0 t
  | .paid t => Sound s0 t
  | .jump t _ => Sound s0 t
  | .hold t => Sound s0 t
  | _ => True

theorem Issue.sound_go {s0 t : State} (h : Sound s0 t) : (Issue.go t).sound s0 := h
theorem Issue.sound_paid {s0 t : State} (h : Sound s0 t) : (Issue.paid t).sound s0 := h
theorem Issue.sound_hold {s0 t : State} (h : Sound s0 t) : (Issue.hold t).sound s0 := h
theorem Issue.sound_jump {s0 t : State} (h : Sound s0 t) (pc : BitVec 16) : (Issue.jump t pc).sound s0 := h
theorem Issue.sound_stall (s0 : State) (k : Nat) : (Issue.stall k).sound s0 := trivial
theorem Issue.sound_fault (s0 : State) (k : Nat) : (Issue.fault k).sound s0 := trivial
theorem Issue.sound_ite {s0 : State} {a b : Issue} {p : Prop} [Decidable p] (ha : a.sound s0) (hb : b.sound s0) : (if p then a else b).sound s0 := by
  split <;> assumption

theorem Sound.programFault {s0 s : State} (hs : Sound s0 s) (c : Fin 256) (code : Nat) : Sound s0 (s.programFault c code) := by
  unfold State.programFault
  dsimp -failIfUnchanged only
  repeat' with_reducible first | exact hs | apply Sound.failCell | refine Sound.modCell' ?_ _ _ fun _ => ⟨rfl, rfl⟩

theorem Sound.payIssue {s0 s : State} (hs : Sound s0 s) (c : Fin 256) : Sound s0 (s.payIssue c) := by
  unfold State.payIssue
  repeat' with_reducible first | exact hs | apply Sound.bump | apply Sound.charge | apply Sound.chargeFree | apply Sound.countWait

theorem Sound.goOn {s0 s : State} (hs : Sound s0 s) (c : Fin 256) (move : Cell → Cell)
    (hm : ∀ x, (move x).thatch = x.thatch ∧ (move x).cwm = x.cwm) : Sound s0 (s.goOn c move) := by
  unfold State.goOn
  exact .ite (hs.modCell' _ _ hm) hs

theorem Sound.stallIn {s0 s : State} (hs : Sound s0 s) (c : Fin 256) (o : Nat) : Sound s0 (s.stallIn c o) := by
  unfold State.stallIn
  repeat' with_reducible first | exact hs | apply Sound.countStall | apply Sound.clocks | refine Sound.modCell' ?_ _ _ fun _ => ⟨rfl, rfl⟩

theorem Sound.issue {s0 s : State} (hs : Sound s0 s) (c : Fin 256) (f : Fields) (form : Form) (odd : Bool) (uses : List Nat) (body : State → Issue)
    (hb : (body s).sound s0) : Sound s0 (s.issue c f form odd uses body) := by
  have hf : ∀ k, Sound s0 (s.programFault c k) := hs.programFault c
  unfold State.issue
  refine .ite hs (.ite (hf _) (.ite (hf _) (.ite hs (.ite ((hs.chargeFree _ _).goOn _ _ Cell.advance_mems) (.ite (hf _) (.ite hs ?_))))))
  split <;> rename_i h <;> rw [h] at hb
  · exact (Sound.payIssue hb c).goOn c _ Cell.advance_mems
  · exact Sound.goOn hb c _ Cell.advance_mems
  · exact (Sound.payIssue hb c).goOn c _ fun x => Cell.jumpTo_mems x _
  · exact hs.stallIn ..
  · exact Sound.clocks hb ..
  · exact hf _

theorem Sound.issueToken {s0 s : State} (hs : Sound s0 s) (c : Fin 256) (f : Fields) (form : Form) (odd : Bool) (uses : List Nat) (engine : Nat)
    (body : State → Issue) (hb : (body s).sound s0) : Sound s0 (s.issueToken c f form odd uses engine body) :=
  hs.issue _ _ _ _ _ _ (Issue.sound_ite (Issue.sound_stall ..) hb)

theorem Sound.underUpset {s0 s : State} (hs :
    Sound s0 s) (c : Fin 256) (u : Upset) (body : State → Issue) (hb : ∀ t, Sound s0 t → (body t).sound s0) :
    (s.underUpset c u body).sound s0 := Issue.sound_ite (hb _ (hs.meet ..)) (hs.meet ..)

/-! ## Machine/Fabric.lean -/

theorem Sound.itemEnds {s0 s : State} (hs : Sound s0 s) (m : MeshItem) (admitted : Bool) : Sound s0 (s.itemEnds m admitted) := by
  unfold State.itemEnds
  repeat' first | with_reducible exact hs | with_reducible apply Sound.copyEnds | split

theorem Sound.countDrop {s0 s : State} (hs : Sound s0 s) (r : Fin 4) (src : Source) : Sound s0 (s.countDrop r src) := by
  unfold State.countDrop
  dsimp -failIfUnchanged only
  repeat' first | with_reducible exact hs | with_reducible apply Sound.bump | split

theorem Sound.expireRegion {s0 s : State} (hs : Sound s0 s) (r : Fin 4) : Sound s0 (s.expireRegion r) := by
  unfold State.expireRegion
  dsimp -failIfUnchanged only
  repeat' with_reducible first
    | assumption | apply Sound.itemEnds | apply Sound.countDrop | refine Sound.each (fun _ _ _ => ?_) _ _ ?_
    | refine Sound.put ?_ rfl rfl rfl rfl rfl rfl

theorem Sound.weightRead {s0 s : State} (hs : Sound s0 s) (e : Ecc) : Sound s0 (s.weightRead e).1 := by
  unfold State.weightRead
  split <;> first | exact hs | exact hs.bump .. | exact hs.deviceFault ..

theorem Sound.broadcastTo {s0 s : State} (hs : Sound s0 s) (c : Fin 256) (src addr len : Nat) (u : Upset) :
    Sound s0 (s.broadcastTo c src addr len u) :=
  .ite (.ite ((((hs.meet ..).writeMem ..).charge ..).countWait _) (hs.meet ..)) hs

theorem Sound.hostQueue {s0 s : State} (hs : Sound s0 s) (d : Fin 256) (ci : CellImage) (q : Fin 256) : Sound s0 (s.hostQueue d ci q) := by
  unfold State.hostQueue
  dsimp -failIfUnchanged only
  repeat' with_reducible first
    | exact hs | apply Sound.setReg | apply Sound.setQueue | refine Sound.modCell' ?_ _ _ fun _ => ⟨rfl, rfl⟩ | apply Sound.ite

theorem Sound.hostShingle {s0 s : State} (hs : Sound s0 s) (c d : Fin 256) (ci : CellImage) (h : Shingle) : Sound s0 (s.hostShingle c d ci h) := by
  unfold State.hostShingle
  refine Sound.put (Sound.each (fun _ _ k => k.hostQueue _ _ _) _ _ (hs.modCell _ _ fun x k => ?_)) rfl rfl rfl rfl rfl rfl
  rw [Cell.stored_iff] at k ⊢
  exact ⟨memZero_wf _ _ _ k.1, memFold_wf _ _ (memZero_wf _ _ _ k.2)⟩

theorem Sound.dealShingles {s0 s : State} (hs : Sound s0 s) (c : Fin 256) (ci : CellImage) (sib : List (Fin 256)) (l : List Shingle) (i : Nat) :
    Sound s0 (s.dealShingles c ci sib l i) := by
  induction l generalizing s i with
  | nil => exact hs
  | cons h t ih => unfold State.dealShingles; split <;> first | exact ih (hs.hostShingle ..) _ | exact hs

theorem Sound.switchBank {s0 s : State} (hs : Sound s0 s) (c d : Fin 256) : Sound s0 (s.switchBank c d) := by
  unfold State.switchBank
  refine Sound.postStatus (hs.modCell _ _ fun x k => ?_) ..
  rw [Cell.stored_iff] at k ⊢
  exact ⟨memWriteBytes_wf _ _ _ k.1, k.2⟩

theorem Sound.restartShares {s0 s : State} (hs : Sound s0 s) (c : Fin 256) : Sound s0 (s.restartShares c) := by
  unfold State.restartShares
  dsimp -failIfUnchanged only
  repeat' with_reducible first | exact hs | apply Sound.bump | apply Sound.ite | refine Sound.put ?_ rfl rfl rfl rfl rfl rfl

theorem Sound.remap {s0 s : State} (hs : Sound s0 s) (c : Fin 256) : Sound s0 (s.remap c) := by
  unfold State.remap
  extract_lets sib s1 s2 d s3 s4
  have h1 : Sound s0 s1 := by
    show Sound s0 (match s.cellImage c with | some ci => s.dealShingles c ci sib (sortShingles ci.shingles) 0 | none => s)
    split
    · exact hs.dealShingles ..
    · exact hs
  have h2 : Sound s0 s2 := Sound.each (fun _ _ h => h.switchBank _ _) _ _ h1
  have h3 : Sound s0 s3 := Sound.setCell (h2.put rfl rfl rfl rfl rfl rfl) _ _ fun _ => rfl
  have h4 : Sound s0 s4 := ((h3.restartShares _).keepRecovery).writeRoutes
  exact .ite (.ite (h4.causeGone _) h4) hs

/-! ## Machine/CellCore.lean -/

theorem Sound.endWaitq {s0 s : State} (hs : Sound s0 s) (c : Fin 256) (d : Nat) (v : Nat) : Sound s0 (s.endWaitq c d v) := by
  unfold State.endWaitq
  repeat' first | with_reducible exact hs | with_reducible refine Sound.modCell' ?_ _ _ fun _ => ?_ | exact Cell.setS_mems ..

theorem Sound.endRidge {s0 s : State} (hs : Sound s0 s) (c : Fin 256) (d : Nat) : Sound s0 (s.endRidge c d) := by
  unfold State.endRidge
  dsimp -failIfUnchanged only
  repeat' first | with_reducible exact hs | with_reducible refine Sound.modCell' ?_ _ _ fun _ => ?_ | exact Cell.setS_mems ..

theorem Sound.alu {s0 s : State} (hs : Sound s0 s) (c : Fin 256) (imm : Bool) (f : Fields) (op : Word → Word → Word) :
    Sound s0 (s.alu c imm f op) := by
  unfold State.alu
  repeat' first
    | with_reducible exact hs | with_reducible apply Sound.issue | with_reducible apply Issue.sound_go
    | with_reducible refine Sound.modCell' ?_ _ _ fun _ => ?_ | with_reducible apply Sound.ite | exact Cell.setS_mems ..

theorem Sound.compare {s0 s : State} (hs : Sound s0 s) (c : Fin 256) (imm : Bool) (f : Fields) (cc : Word → Word → Bool) :
    Sound s0 (s.compare c imm f cc) := by
  unfold State.compare
  refine hs.issue _ _ _ _ _ _ ?_
  refine Sound.setCell hs _ _ fun k => ?_
  rw [Cell.stored_iff] at k ⊢
  split <;> simpa only [Cell.setP_mems] using k

theorem Sound.plogic {s0 s : State} (hs : Sound s0 s) (c : Fin 256) (f : Fields) (op : Bool → Bool → Bool) : Sound s0 (s.plogic c f op) := by
  unfold State.plogic
  repeat' first
    | with_reducible exact hs | with_reducible apply Sound.issue | with_reducible apply Issue.sound_go
    | with_reducible refine Sound.modCell' ?_ _ _ fun _ => ?_ | exact Cell.setP_mems ..

theorem Sound.load {s0 s : State} (hs : Sound s0 s) (c : Fin 256) (cwm : Bool) (f : Fields) (u : Upset) (n : Nat) (ext : Nat → Word) :
    Sound s0 (s.load c cwm f u n ext) := by
  unfold State.load
  dsimp -failIfUnchanged only
  repeat' first
    | with_reducible assumption | with_reducible apply Sound.issue | with_reducible apply Sound.checkMem | with_reducible apply Sound.charge
    | with_reducible apply Issue.sound_go | with_reducible refine Sound.underUpset ?_ _ _ _ fun _ _ => ?_
    | with_reducible refine Sound.modCell' ?_ _ _ fun _ => ?_ | exact Cell.setS_mems ..

theorem Sound.store {s0 s : State} (hs : Sound s0 s) (c : Fin 256) (cwm : Bool) (f : Fields) (u : Upset) (n : Nat) :
    Sound s0 (s.store c cwm f u n) := by
  unfold State.store
  dsimp -failIfUnchanged only
  repeat' with_reducible first
    | assumption | apply Sound.issue | apply Sound.writeMem | apply Sound.charge | apply Issue.sound_go
    | refine Sound.underUpset ?_ _ _ _ fun _ _ => ?_

theorem Sound.pushFits {s0 s : State} (hs : Sound s0 s) (c q : Fin 256) (l : List QWord) : Sound s0 (s.pushFits c q l).2 := by
  induction l generalizing s with
  | nil => exact hs
  | cons w t ih => unfold State.pushFits; split <;> first | exact hs | exact ih ((hs.landWords ..).chargeLanded ..)

theorem Sound.feedOne {s0 s : State} (hs : Sound s0 s) (c : Fin 256) (t : Fin 16) : Sound s0 (s.feedOne c t) := by
  unfold State.feedOne
  split
  · exact hs
  · split
    · exact hs
    · exact .ite hs ((hs.pushFits ..).modCell' _ _ fun _ => ⟨rfl, rfl⟩)

theorem Sound.feedHeld {s0 s : State} (hs : Sound s0 s) (c : Fin 256) : Sound s0 (s.feedHeld c) := by
  unfold State.feedHeld
  repeat' with_reducible first | assumption | apply Sound.feedOne | refine Sound.each (fun _ _ _ => ?_) _ _ ?_

theorem Sound.countSpikeWaits {s0 s : State} (hs : Sound s0 s) (c : Fin 256) (spike : Option (Fin 4 × Nat)) :
    Sound s0 (s.countSpikeWaits c spike) := by
  unfold State.countSpikeWaits
  dsimp -failIfUnchanged only
  repeat' with_reducible first | exact hs | apply Sound.countWait | apply Sound.ite

theorem Sound.sendItem {s0 s : State} (hs : Sound s0 s) (c : Fin 256) (t : Nat) (ws : List DWord) (q : Fin 256) (dests : List (Fin 256)) :
    Sound s0 (s.sendItem c t ws q dests) := by
  unfold State.sendItem
  dsimp -failIfUnchanged only
  repeat' first
    | with_reducible exact hs | with_reducible apply Sound.bump | with_reducible apply Sound.countDrop | with_reducible apply Sound.countSpikeWaits
    | with_reducible apply Sound.charge | with_reducible refine Sound.modCell' ?_ _ _ fun _ => ⟨rfl, rfl⟩ | split
    | with_reducible refine Sound.put ?_ rfl rfl rfl rfl rfl rfl

theorem Sound.deliverReduction {s0 s : State} (hs : Sound s0 s) (cl tag : Fin 16) (r : Reduction) (missing : Bool) :
    Sound s0 (s.deliverReduction cl tag r missing) := by
  unfold State.deliverReduction
  dsimp -failIfUnchanged only
  repeat' with_reducible first | exact hs | apply Sound.modClutch | refine Sound.put ?_ rfl rfl rfl rfl rfl rfl

theorem setFlags_mems (f : Fields) (soi poison : Bool) (x : Cell) :
    (setFlags f soi poison x).thatch = x.thatch ∧ (setFlags f soi poison x).cwm = x.cwm :=
  ⟨(Cell.setP_mems ..).1.trans (Cell.setP_mems ..).1, (Cell.setP_mems ..).2.trans (Cell.setP_mems ..).2⟩

theorem setBoth_mems (d : BitVec 5) (w : DWord) (x : Cell) : (setBoth d w x).thatch = x.thatch ∧ (setBoth d w x).cwm = x.cwm :=
  ⟨(Cell.setS_mems ..).1.trans (Cell.setS_mems ..).1, (Cell.setS_mems ..).2.trans (Cell.setS_mems ..).2⟩

theorem setPair_mems (d : BitVec 5) (w : DWord) (x : Cell) : (setPair d w x).thatch = x.thatch ∧ (setPair d w x).cwm = x.cwm := by
  unfold setPair
  split
  · exact ⟨rfl, rfl⟩
  · exact setBoth_mems ..

theorem foldCell_mems {β : Type} (g : Cell → β → Cell) (hg : ∀ x b, (g x b).thatch = x.thatch ∧ (g x b).cwm = x.cwm) (l : List β) (x : Cell) :
    (l.foldl g x).thatch = x.thatch ∧ (l.foldl g x).cwm = x.cwm := by
  induction l generalizing x with
  | nil => exact ⟨rfl, rfl⟩
  | cons b l ih => exact ⟨(ih _).1.trans (hg x b).1, (ih _).2.trans (hg x b).2⟩

theorem writeOwed_mems (o : PendingOp) (x : Cell) : (writeOwed o x).thatch = x.thatch ∧ (writeOwed o x).cwm = x.cwm := by
  have h1 := foldCell_mems (fun (y : Cell) (r : Nat × Word) => y.setS (BitVec.ofNat 5 r.1) r.2) (fun _ _ => Cell.setS_mems ..) o.sregs
  have h2 := foldCell_mems (fun (y : Cell) (r : Nat × VReg) => y.setV (BitVec.ofNat 4 r.1) r.2) (fun _ _ => Cell.setV_mems ..) o.vregs
  have h3 := foldCell_mems (fun (y : Cell) (r : Nat × Bool) => y.setP (BitVec.ofNat 3 r.1) r.2) (fun _ _ => Cell.setP_mems ..) o.pregs
  exact ⟨(h3 _).1.trans ((h2 _).1.trans (h1 x).1), (h3 _).2.trans ((h2 _).2.trans (h1 x).2)⟩

/-! ## Machine/EngineBase.lean -/

theorem Sound.setElem {s0 s : State} (hs : Sound s0 s) (cl : Fin 256) (d : Desc) (x y : Int) (ch n : Nat) (v : Nat) :
    Sound s0 (s.setElem cl d x y ch n v) := by
  unfold State.setElem
  repeat' with_reducible first | exact hs | apply Sound.storeMem | apply Sound.ite

theorem Sound.addrErr {s0 s : State} (hs : Sound s0 s) (c : Fin 256) (met : Bool) : Sound s0 (s.addrErr c met) := by
  unfold State.addrErr
  repeat' with_reducible first | exact hs | apply Sound.bump | apply Sound.tick | apply Sound.ite

theorem Sound.endNone {s0 s : State} (hs : Sound s0 s) (code : Nat) : Sound s0 (EngineEnd.none s code).s := hs

theorem Sound.engineDone {s0 s : State} {e : EngineEnd} (h : Sound s0 e.s) (c : Fin 256) (f : Fields) (engine : Nat) (classes : List Nat) :
    (s.engineDone c f engine classes e).sound s0 := by
  have h1 : ∀ m, Sound s0 ((e.s.addrErr c m).chargeFree c classes) := fun m => (h.addrErr c m).chargeFree c classes
  unfold State.engineDone
  dsimp only
  split
  · exact Issue.sound_go ((h1 _).modCell' _ _ fun _ => Cell.take_mems ..)
  · refine Issue.sound_ite ?_
      (Issue.sound_go (Sound.modCell' (Sound.each (fun _ _ h => h.ignoreAt ..) _ _ (h1 _)) _ _ fun _ => Cell.take_mems ..))
    have h2 := Sound.feedHeld ((h1 (e.codes.contains 2)).modCell' c (fun x => x.take (tokenOf f) { opOf engine (lowestCode e.codes) e.count with
      sregs := e.sregs, vregs := e.vregs, pregs := e.pregs, queue := e.queue, words := e.items.flatMap (asItem (s.cell c).step) }) fun _ => Cell.take_mems ..) c
    exact Issue.sound_go (.ite (h2.countStall ..) h2)

/-! ## Machine/Array.lean -/

theorem Sound.countSat {s0 s : State} (hs : Sound s0 s) (c : Fin 256) (n : Nat) : Sound s0 (s.countSat c n) := by
  unfold State.countSat
  repeat' with_reducible first | exact hs | apply Sound.bump | apply Sound.ite

theorem Sound.chargeArray {s0 s : State} (hs : Sound s0 s) (c : Fin 256) (af wf sites k n : Nat) : Sound s0 (s.chargeArray c af wf sites k n) := by
  unfold State.chargeArray
  dsimp -failIfUnchanged only
  repeat' with_reducible first | exact hs | apply Sound.charge

theorem Sound.writeOutputs {s0 s : State} (hs : Sound s0 s) (c : Fin 256) (gd : Desc) (fmt shift act free : Nat) (l : List (Accumulated × Nat)) :
    Sound s0 (s.writeOutputs c gd fmt shift act free l).1 := by
  unfold State.writeOutputs
  suffices ∀ (f : State × Nat → Accumulated × Nat → State × Nat), (∀ r a, Sound s0 r.1 → Sound s0 (f r a).1) →
      ∀ (l : List (Accumulated × Nat)) r, Sound s0 r.1 → Sound s0 (l.foldl f r).1 from
    this _ (fun r a hr => hr.setElem ..) _ _ hs
  intro f hf l
  induction l with
  | nil => exact fun _ h => h
  | cons c t ih => exact fun r hr => ih _ (hf r c hr)

theorem Sound.underResidue {s0 s : State} (hs : Sound s0 s) (c : Fin 256) (u : Upset) (saturates : Nat → Bool) (body : State → List Nat → Issue)
    (hb : ∀ t l, Sound s0 t → (body t l).sound s0) : (s.underResidue c u saturates body).sound s0 := by
  unfold State.underResidue
  dsimp only
  split
  · exact Issue.sound_ite (hb _ _ hs) (Issue.sound_ite (Issue.sound_go (Sound.failCell (hs.bump ..) ..)) (hb _ _ (hs.bump ..)))
  · exact hb _ _ hs

theorem Sound.arrayRun {s0 s : State} (hs :
    Sound s0 s) (c : Fin 256) (f : Fields) (ga gb gd : Desc) (dots : List Dot) (rows sites k n : Nat) (codes : List Nat) :
    (s.arrayRun c f ga gb gd dots rows sites k n codes).sound s0 := by
  unfold State.arrayRun
  apply Sound.engineDone
  refine Sound.ticks ?_ _
  refine Sound.modCell' ?_ _ _ fun _ => ⟨rfl, rfl⟩
  refine Sound.chargeArray (Sound.countSat ?_ ..) ..
  split
  · exact hs.writeOutputs ..
  · exact hs

/-! ## Machine/Neuron.lean -/

theorem Sound.addInput {s0 s : State} (hs : Sound s0 s) (c : Fin 256) (d : Desc) (x y ch : Nat) (v : Int) : Sound s0 (s.addInput c d x y ch v) := by
  unfold State.addInput
  dsimp -failIfUnchanged only
  repeat' with_reducible first | exact hs | apply Sound.setElem

/-! ## Machine/VectorEng.lean -/

theorem Sound.vecDone {s0 s : State} (hs : Sound s0 s) (c : Fin 256) (f : Fields) (v : VReg) (sat : Bool) : (s.vecDone c f v sat).sound s0 :=
  Sound.engineDone hs ..

theorem Sound.vecOp {s0 s : State} (hs : Sound s0 s) (c : Fin 256) (f : Fields) (u : Upset) (two shift intOnly : Bool)
    (op : Nat → Nat → Nat → Nat → Nat → Lane) : Sound s0 (s.vecOp c f u two shift intOnly op) := by
  unfold State.vecOp
  refine hs.issueToken _ _ _ _ _ _ _ (hs.underUpset _ _ _ fun t ht => Issue.sound_ite (Sound.engineDone ht ..) ((ht.ticks _).vecDone ..))

end Sys2Proof.Machine
end

