-- ==== Sys2Proof/Laws/SoundDevice.lean ====
section
/-! SUPPORT. What the shared operations of the ports, units, hosts and steps keep (Laws/Sound.lean): one lemma per operation, by the file that defines it. -/

namespace Sys2Proof.Machine

/-! ## Machine/Intake.lean -/

theorem Sound.header {s0 s : State} (hs : Sound s0 s) (p : Fin 16) (h : HeaderCond) : Sound.opt s0 (s.header p h) := by
  unfold State.header
  refine Sound.opt_ite ?_ (Sound.opt_none _)
  split
  · exact Sound.opt_some hs
  · exact Sound.opt_some (hs.bump ..)
  · exact Sound.opt_none _

theorem Sound.updFlow {s0 s : State} (hs : Sound s0 s) (p : Fin 16) : Sound s0 (s.updFlow p) := by
  unfold State.updFlow
  repeat' with_reducible first | exact hs | apply Sound.modPort

theorem Sound.updFlows {s0 s : State} (hs : Sound s0 s) : Sound s0 (s.updFlows) := by
  unfold State.updFlows
  repeat' with_reducible first | assumption | apply Sound.updFlow | refine Sound.each (fun _ _ _ => ?_) _ _ ?_

theorem Sound.judgePort {s0 s : State} (hs : Sound s0 s) (ref : Nat) (p : Fin 16) : Sound s0 (s.judgePort ref p) := by
  unfold State.judgePort
  dsimp -failIfUnchanged only
  repeat' first | with_reducible exact hs | with_reducible apply Sound.setPort | with_reducible apply Sound.notice | split

theorem Sound.coherenceOnce {s0 s : State} (hs : Sound s0 s) : Sound s0 (s.coherenceOnce) := by
  unfold State.coherenceOnce
  dsimp -failIfUnchanged only
  repeat' first
    | with_reducible assumption | with_reducible apply Sound.judgePort | with_reducible refine Sound.each (fun _ _ _ => ?_) _ _ ?_ | split
    | with_reducible refine Sound.put ?_ rfl rfl rfl rfl rfl rfl

theorem Sound.coherence {s0 s : State} (hs : Sound s0 s) : Sound s0 (s.coherence) := by
  unfold State.coherence
  repeat' with_reducible first | assumption | apply Sound.coherenceOnce | refine Sound.each (fun _ _ _ => ?_) _ _ ?_

theorem Sound.noteHorizon {s0 s : State} (hs : Sound s0 s) : Sound s0 (s.noteHorizon) := by
  unfold State.noteHorizon
  repeat' first | with_reducible exact hs | split | with_reducible refine Sound.put ?_ rfl rfl rfl rfl rfl rfl

theorem Sound.horizonMoved {s0 s : State} (hs : Sound s0 s) : Sound s0 (s.horizonMoved) := by
  unfold State.horizonMoved
  repeat' with_reducible first | exact hs | apply Sound.coherence | apply Sound.noteHorizon

theorem Sound.settleExclude {s0 s : State} (hs : Sound s0 s) : Sound s0 (s.settleExclude) := by
  unfold State.settleExclude
  dsimp -failIfUnchanged only
  repeat' with_reducible first | exact hs | apply Sound.horizonMoved | refine Sound.put ?_ rfl rfl rfl rfl rfl rfl

theorem Sound.portOff {s0 s : State} (hs : Sound s0 s) (p : Fin 16) : Sound s0 (s.portOff p) := by
  unfold State.portOff
  repeat' with_reducible first | exact hs | apply Sound.setFld | apply Sound.modPort | apply Sound.horizonMoved | apply Sound.ite

theorem Sound.portUp {s0 s : State} (hs : Sound s0 s) (p : Fin 16) : Sound s0 (s.portUp p) := by
  unfold State.portUp
  dsimp -failIfUnchanged only
  repeat' with_reducible first | exact hs | apply Sound.setFld | apply Sound.modPort | apply Sound.updFlow | apply Sound.ite

theorem Sound.intakeMismatch {s0 s : State} (hs : Sound s0 s) (p : Fin 16) (stage : Nat) : Sound s0 (s.intakeMismatch p stage) := by
  unfold State.intakeMismatch
  dsimp -failIfUnchanged only
  repeat' with_reducible first | exact hs | apply Sound.portOff | apply Sound.modPort | apply Sound.bump | apply Sound.deviceFault

theorem Sound.headerLost {s0 s : State} (hs : Sound s0 s) (p : Fin 16) (h : HeaderCond) : Sound s0 (s.headerLost p h) := by
  unfold State.headerLost
  repeat' with_reducible first | exact hs | apply Sound.bump | apply Sound.modPort | apply Sound.ite

theorem Sound.statusBlock {s0 s : State} (hs : Sound s0 s) (p : Fin 16) (payload : List Byte) : Sound s0 (s.statusBlock p payload) := by
  unfold State.statusBlock
  repeat' with_reducible first | assumption | apply Sound.setReg | refine Sound.each (fun _ _ _ => ?_) _ _ ?_

theorem Sound.eventPacket {s0 s : State} (hs : Sound s0 s) (p : Fin 16) (crcOk : Bool) (payload : List Byte) :
    Sound s0 (s.eventPacket p crcOk payload) := by
  unfold State.eventPacket
  dsimp -failIfUnchanged only
  repeat' with_reducible first | exact hs | apply Sound.bump | apply Sound.modPort | apply Sound.ite

theorem Sound.meetStamp {s0 s : State} (hs : Sound s0 s) (p : Fin 16) (stamp : Nat) : Sound s0 (s.meetStamp p stamp) := by
  unfold State.meetStamp
  dsimp -failIfUnchanged only
  repeat' first
    | with_reducible exact hs | with_reducible apply Sound.modPort | with_reducible apply Sound.bump | with_reducible apply Sound.horizonMoved
    | split

theorem Sound.refractory {s0 s : State} (hs : Sound s0 s) (p : Fin 16) (e : Event) : Sound s0 (s.refractory p e).1 := by
  unfold State.refractory
  dsimp only
  repeat' first | with_reducible exact hs | with_reducible apply Sound.bump | with_reducible apply Sound.modPort | split

theorem Sound.filterEvent {s0 s : State} (hs : Sound s0 s) (p : Fin 16) (e : Event) : Sound s0 (s.filterEvent p e) := by
  unfold State.filterEvent
  have h1 := (hs.bump (inkP p 0x040) 1).modPort p fun x => { x with events := x.events + 1 }
  exact .ite (h1.bump ..) (.ite ((h1.refractory ..).modPort ..) (h1.refractory ..))

theorem Sound.gate {s0 s : State} (hs : Sound s0 s) (p : Fin 16) (e : Event) : Sound s0 (s.gate p e) := by
  unfold State.gate
  dsimp -failIfUnchanged only
  repeat' with_reducible first | exact hs | apply Sound.modPort | apply Sound.bump | apply Sound.filterEvent | apply Sound.ite

theorem Sound.releasePort {s0 s : State} (hs : Sound s0 s) (p : Fin 16) : Sound s0 (s.releasePort p) := by
  unfold State.releasePort
  dsimp -failIfUnchanged only
  repeat' with_reducible first | assumption | apply Sound.modPort | apply Sound.gate | refine Sound.each (fun _ _ _ => ?_) _ _ ?_

theorem Sound.releaseHeld {s0 s : State} (hs : Sound s0 s) : Sound s0 (s.releaseHeld) := by
  unfold State.releaseHeld
  repeat' with_reducible first | assumption | apply Sound.releasePort | refine Sound.each (fun _ _ _ => ?_) _ _ ?_

theorem Sound.pix {s0 s : State} (hs : Sound s0 s) (p : Fin 16) (e : Event) : Sound s0 (s.pix p e) := by
  unfold State.pix
  repeat' with_reducible first | exact hs | apply Sound.bump | apply Sound.gate | apply Sound.ite

theorem Sound.intoLane {s0 s : State} (hs : Sound s0 s) (p : Fin 16) (l : List OutItem) : Sound s0 (s.intoLane p l) := by
  unfold State.intoLane
  repeat' with_reducible first | exact hs | apply Sound.modPort

theorem Sound.mapEvent {s0 s : State} (hs : Sound s0 s) (p : Fin 16) (e : Event) : Sound s0 (s.mapEvent p e) := by
  unfold State.mapEvent
  repeat' first | with_reducible exact hs | with_reducible apply Sound.bump | with_reducible apply Sound.intoLane | split

theorem Sound.takeReady {s0 s : State} (hs : Sound s0 s) (p : Fin 16) : Sound s0 (s.takeReady p) := by
  unfold State.takeReady
  dsimp -failIfUnchanged only
  repeat' first
    | with_reducible exact hs | with_reducible apply Sound.modPort | with_reducible apply Sound.mapEvent | with_reducible apply Sound.intoLane
    | split

theorem Sound.arbitrate {s0 s : State} (hs : Sound s0 s) : Sound s0 (s.arbitrate) := by
  unfold State.arbitrate
  dsimp -failIfUnchanged only
  repeat' first
    | with_reducible assumption | with_reducible apply Sound.takeReady | with_reducible apply Sound.bump
    | with_reducible refine Sound.each (fun _ _ _ => ?_) _ _ ?_ | split | with_reducible refine Sound.put ?_ rfl rfl rfl rfl rfl rfl

theorem Sound.pushItem {s0 s : State} (hs : Sound s0 s) (p : Fin 16) (o : OutItem) : Sound s0 (s.pushItem p o) := by
  unfold State.pushItem
  dsimp -failIfUnchanged only
  repeat' with_reducible first | exact hs | apply Sound.bump | apply Sound.ite | refine Sound.put ?_ rfl rfl rfl rfl rfl rfl

theorem Sound.pushHead {s0 s : State} (hs : Sound s0 s) (p : Fin 16) : Sound s0 (s.pushHead p) := by
  unfold State.pushHead
  repeat' first
    | with_reducible assumption | with_reducible apply Sound.modPort | with_reducible apply Sound.pushItem
    | with_reducible refine Sound.each (fun _ _ _ => ?_) _ _ ?_ | split

theorem Sound.readWords {s0 s : State} (hs : Sound s0 s) (p : Fin 16) (n : Nat) : Sound s0 (s.readWords p n) := by
  unfold State.readWords
  repeat' with_reducible first | exact hs | apply Sound.modPort | apply Sound.updFlow

theorem Sound.decoded {s0 s : State} (hs : Sound s0 s) (p : Fin 16) : Sound s0 (s.decoded p) := by
  unfold State.decoded
  repeat' with_reducible first | exact hs | apply Sound.modPort | apply Sound.horizonMoved | apply Sound.ite

theorem Sound.poisonItem {s0 s : State} (hs : Sound s0 s) (p : Fin 16) : Sound s0 (s.poisonItem p) := by
  unfold State.poisonItem
  dsimp -failIfUnchanged only
  repeat' with_reducible first | exact hs | apply Sound.readWords | apply Sound.bump | apply Sound.decoded | apply Sound.ite

theorem Sound.onWord {s0 s : State} (hs : Sound s0 s) (p : Fin 16) (f : WordFault) (types : Nat → Bool) (needsTb : Bool) (body : State → Word → State)
    (hb : ∀ t w, Sound s0 t → Sound s0 (body t w)) : Sound s0 (s.onWord p f types needsTb body) := by
  unfold State.onWord
  have h1 := hs.readWords p 1
  split
  · exact hs
  · split
    · exact hs.poisonItem p
    · exact hs.intakeMismatch p _
    · exact .ite (.ite (h1.bump ..) (hb _ _ h1)) (hb _ _ (h1.decoded p))

theorem Sound.routeTrigger {s0 s : State} (hs : Sound s0 s) (p : Fin 16) (stamp chan : Nat) : Sound s0 (s.routeTrigger p stamp chan) := by
  unfold State.routeTrigger
  repeat' with_reducible first | exact hs | apply Sound.intoLane | apply Sound.pushHead | apply Sound.modPort | apply Sound.ite

/-! ## Machine/Ego.lean -/

theorem Sound.reintegrate {s0 s : State} (hs : Sound s0 s) (j : Nat) : Sound s0 (s.reintegrate j) := by
  unfold State.reintegrate
  dsimp -failIfUnchanged only
  repeat' first | with_reducible exact hs | with_reducible apply Sound.tick | split | with_reducible refine Sound.put ?_ rfl rfl rfl rfl rfl rfl

theorem Sound.levelAt {s0 s : State} (hs : Sound s0 s) (j : Nat) (q : Quat) : Sound s0 (s.levelAt j q) := by
  unfold State.levelAt
  repeat' with_reducible first | exact hs | refine Sound.put ?_ rfl rfl rfl rfl rfl rfl

theorem Sound.tryLevel {s0 s : State} (hs : Sound s0 s) : Sound s0 (s.tryLevel) := by
  unfold State.tryLevel
  dsimp -failIfUnchanged only
  repeat' first | with_reducible exact hs | with_reducible apply Sound.levelAt | split

theorem Sound.acceptFrame {s0 s : State} (hs : Sound s0 s) (f : MotFrame) : Sound s0 (s.acceptFrame f) := by
  unfold State.acceptFrame
  dsimp -failIfUnchanged only
  repeat' with_reducible first
    | exact hs | apply Sound.bump | apply Sound.tryLevel | apply Sound.reintegrate | apply Sound.ite | refine Sound.put ?_ rfl rfl rfl rfl rfl rfl

/-! ## Machine/Fusion.lean -/

theorem Sound.readQueue {s0 s : State} (hs : Sound s0 s) (c q : Fin 256) (n : Nat) : Sound s0 (s.readQueue c q n).2 := by
  induction n generalizing s with
  | zero => exact hs
  | succ k ih => exact ih (hs.popWord ..)

theorem Sound.bridgeMeets {s0 s : State} (hs : Sound s0 s) (c q : Fin 256) (u : Upset) : Sound s0 (s.bridgeMeets c q u) := by
  unfold State.bridgeMeets
  split <;> first | exact hs.bump .. | exact hs.queueUpsets ..

theorem Sound.headItemOf {s0 s t : State} {i : BridgeItem} (hs : Sound s0 s) (c q : Fin 256) (u : Upset) (h : s.headItemOf c q u = some (i, t)) :
    Sound s0 t := by
  unfold State.headItemOf at h
  dsimp only at h
  split at h
  · cases h
  · split at h
    · cases h
    · cases h; exact (hs.bridgeMeets ..).readQueue ..

theorem Sound.bridgeItem {s0 s t : State} {i : BridgeItem} (hs : Sound s0 s) (c q : Fin 256) (u : Upset) (h : s.bridgeItem c q u = some (i, t)) :
    Sound s0 t := by
  unfold State.bridgeItem at h
  split at h
  · rename_i e
    split at h
    · cases h; exact hs.headItemOf _ _ _ e
    · cases h
  · cases h

theorem Sound.takeItem {s0 s t : State} {i : BridgeItem} {b : Bool} (hs : Sound s0 s) (kinds : Nat → Bool) (good : List DWord → Bool)
    (h : s.takeItem kinds good = some (i, b, t)) : Sound s0 t := by
  unfold State.takeItem at h
  dsimp only at h
  split at h
  · cases h
  · split at h
    · cases h; exact .ite (Sound.bump (hs.put rfl rfl rfl rfl rfl rfl) ..) (hs.put rfl rfl rfl rfl rfl rfl)
    · cases h

theorem Sound.chargeItem {s0 s : State} (hs : Sound s0 s) (c : Fin 256) (n : Nat) : Sound s0 (s.chargeItem c n) := by
  unfold State.chargeItem
  repeat' with_reducible first | exact hs | apply Sound.charge

theorem Sound.bufferObs {s0 s : State} (hs : Sound s0 s) (o : Obs) : Sound s0 (s.bufferObs o) := by
  unfold State.bufferObs
  dsimp -failIfUnchanged only
  repeat' with_reducible first | exact hs | apply Sound.bump | apply Sound.ite | refine Sound.put ?_ rfl rfl rfl rfl rfl rfl

/-! ## Machine/Tracking.lean -/

theorem Sound.birth {s0 s : State} (hs : Sound s0 s) (k : Nat) (o : Obs) : Sound s0 (s.birth k o) := by
  unfold State.birth
  dsimp -failIfUnchanged only
  repeat' first | with_reducible exact hs | with_reducible apply Sound.bump | split | with_reducible refine Sound.put ?_ rfl rfl rfl rfl rfl rfl

theorem Sound.dropObs {s0 s : State} (hs : Sound s0 s) (k : Nat) : Sound s0 (s.dropObs k) := by
  unfold State.dropObs
  repeat' with_reducible first | exact hs | refine Sound.put ?_ rfl rfl rfl rfl rfl rfl

theorem Sound.putJudged {s0 s : State} (hs : Sound s0 s) (l : List Judged) : Sound s0 (s.putJudged l) := by
  unfold State.putJudged
  repeat' with_reducible first | exact hs | apply Sound.bump | refine Sound.put ?_ rfl rfl rfl rfl rfl rfl

theorem Sound.solveAll {s0 s : State} (hs : Sound s0 s) (obs : List (Nat × Obs)) (l : List Pair) : Sound s0 (s.solveAll obs l).1 := by
  unfold State.solveAll
  dsimp only
  suffices h : ∀ (f : State × List Pair → List Pair → State × List Pair), (∀ r c, Sound s0 r.1 → Sound s0 (f r c).1) →
      ∀ (l : List (List Pair)) r, Sound s0 r.1 → Sound s0 (l.foldl f r).1 from
    h _ (fun r c hr => .ite (Sound.bump (.ite (hr.bump ..) hr) ..) (.ite (hr.bump ..) hr)) _ _ hs
  intro f hf l
  induction l with
  | nil => exact fun _ h => h
  | cons c t ih => exact fun r hr => ih _ (hf r c hr)

theorem Sound.assign {s0 s : State} (hs : Sound s0 s) (obs : List (Nat × Obs)) (pairs : List Pair) (recover : Bool) :
    Sound s0 (s.assign obs pairs recover).1 := by
  unfold State.assign
  split <;> first | exact hs.solveAll .. | exact hs

theorem Sound.associate {s0 s : State} (hs : Sound s0 s) (k te : Nat) (recover : Bool) : Sound s0 (s.associate k te recover) := by
  unfold State.associate
  refine Sound.dropObs (Sound.each (fun _ _ h => h.routed ..) _ _ (Sound.each (fun _ _ h => h.birth ..) _ _ (Sound.putJudged (Sound.assign ?_ ..) _))) _
  exact (hs.bump ..).ticks _

theorem Sound.trackEcc {s0 s : State} (hs : Sound s0 s) (e : Ecc) : Sound s0 (s.trackEcc e) := by
  unfold State.trackEcc
  dsimp -failIfUnchanged only
  repeat' first
    | with_reducible exact hs | with_reducible apply Sound.ticks | with_reducible apply Sound.fusionRead | split
    | with_reducible refine Sound.put ?_ rfl rfl rfl rfl rfl rfl

theorem Sound.discardOld {s0 s : State} (hs : Sound s0 s) (l : List (Nat × Nat)) : Sound s0 (s.discardOld l).1 := by
  induction l generalizing s with
  | nil => exact hs
  | cons k t ih => unfold State.discardOld; split <;> first | exact ih (((hs.bump ..).dropObs _).enterRecovery) | exact hs

/-! ## Machine/Motion.lean -/

theorem Sound.setFrames {s0 s : State} (hs : Sound s0 s) (m : Fin 4) (l : List FifoWord) : Sound s0 (s.setFrames m l) := by
  unfold State.setFrames
  repeat' with_reducible first | exact hs | apply Sound.setMot

theorem Sound.pushFrame {s0 s : State} (hs : Sound s0 s) (m : Fin 4) (l : List Byte) : Sound s0 (s.pushFrame m l) := by
  unfold State.pushFrame
  repeat' with_reducible first | exact hs | apply Sound.bump | apply Sound.setFrames | apply Sound.ite

theorem Sound.meetFrame {s0 s : State} (hs : Sound s0 s) (m : Fin 4) (l : List FifoWord) (ecc : Ecc) : Sound s0 (s.meetFrame m l ecc) := by
  unfold State.meetFrame
  dsimp -failIfUnchanged only
  repeat' with_reducible first | exact hs | apply Sound.acceptFrame | apply Sound.fusionRead | apply Sound.bump | apply Sound.ite

theorem Sound.takeFrame {s0 s : State} (hs : Sound s0 s) (m : Fin 4) (types : Nat → Bool) (bad : List (Fin 4)) (ecc : Ecc) :
    Sound s0 (s.takeFrame m types bad ecc) := by
  unfold State.takeFrame
  dsimp -failIfUnchanged only
  repeat' with_reducible first | exact hs | apply Sound.setFrames | apply Sound.meetFrame | apply Sound.ticks | apply Sound.ite

/-! ## Machine/Zones.lean -/

theorem Sound.judgeSensor {s0 s : State} (hs : Sound s0 s) (weak : List (Fin 16)) (n : Fin 16) : Sound s0 (s.judgeSensor weak n) := by
  unfold State.judgeSensor
  dsimp -failIfUnchanged only
  repeat' with_reducible first | exact hs | apply Sound.notice | apply Sound.ite | refine Sound.put ?_ rfl rfl rfl rfl rfl rfl

theorem Sound.flagDisputed {s0 s : State} (hs : Sound s0 s) (k te : Nat) (l : List (Nat × Nat)) : Sound s0 (s.flagDisputed k te l) := by
  unfold State.flagDisputed
  repeat' with_reducible first | assumption | apply Sound.setCellMeta | refine Sound.each (fun _ _ _ => ?_) _ _ ?_ | apply Sound.ite

theorem Sound.pushPqWord {s0 s : State} (hs : Sound s0 s) (z : Fin 16) (w : FifoWord) : Sound s0 (s.pushPqWord z w) := by
  unfold State.pushPqWord
  dsimp -failIfUnchanged only
  repeat' with_reducible first | exact hs | apply Sound.bump | apply Sound.notice | apply Sound.ite | refine Sound.put ?_ rfl rfl rfl rfl rfl rfl

theorem Sound.drainPq {s0 s : State} (hs : Sound s0 s) (bad : List (Fin 16 × Nat)) : Sound s0 (s.drainPq bad) := by
  unfold State.drainPq
  dsimp -failIfUnchanged only
  repeat' with_reducible first
    | assumption | apply Sound.routed | apply Sound.ticks | refine Sound.each (fun _ _ _ => ?_) _ _ ?_ | apply Sound.ite
    | refine Sound.put ?_ rfl rfl rfl rfl rfl rfl

theorem Sound.closeZone {s0 s : State} (hs : Sound s0 s) (k : Nat) (e : Evidence) (us : List (Fin 16)) (z : Fin 16) :
    Sound s0 (s.closeZone k e us z) := by
  unfold State.closeZone
  dsimp -failIfUnchanged only
  repeat' with_reducible first
    | assumption | apply Sound.pushPqWord | refine Sound.each (fun _ _ _ => ?_) _ _ ?_ | apply Sound.ite
    | refine Sound.put ?_ rfl rfl rfl rfl rfl rfl

/-- Zone pins may be high only at the no-fault levels while steps run. -/
theorem Sound.setZonePins {s0 s : State} (hs : Sound s0 s) (v : BitVec 16) (hv : v = 0 ∨ s.pins.faultA = true ∧ s.step.running = true) :
    Sound s0 (s.setZonePins v) :=
  ⟨hs.pending, fun k => by
    have := hs.control k
    simp only [State.controlOk, Bool.and_eq_true] at this
    simpa [State.controlOk, State.setZonePins, this.1] using hv, hs.stores⟩

theorem State.zoneLevels_cases (s : State) : s.zoneLevels = 0 ∨ s.pins.faultA = true ∧ s.step.running = true := by
  unfold State.zoneLevels
  split
  · rename_i h
    simp only [Bool.and_eq_true] at h
    exact .inr ⟨h.1.2, h.1.1⟩
  · exact .inl rfl

theorem Sound.closeDisputes {s0 s : State} (hs : Sound s0 s) (k te : Nat) (us : List (Fin 16)) : Sound s0 (s.closeDisputes k te us) := by
  unfold State.closeDisputes
  dsimp -failIfUnchanged only
  repeat' with_reducible first
    | assumption | apply Sound.bump | apply Sound.flagDisputed | apply Sound.judgeSensor | refine Sound.each (fun _ _ _ => ?_) _ _ ?_
    | refine Sound.put ?_ rfl rfl rfl rfl rfl rfl

theorem Sound.evaluateZones {s0 s : State} (hs : Sound s0 s) (k : Nat) (mismatch : Bool) : Sound s0 (s.evaluateZones k mismatch) := by
  unfold State.evaluateZones
  dsimp -failIfUnchanged only
  repeat' first
    | with_reducible assumption | with_reducible apply Sound.dropZones | with_reducible apply Sound.closeDisputes
    | with_reducible apply Sound.deviceFault | with_reducible apply Sound.closeZone | with_reducible apply Sound.setZonePins
    | with_reducible refine Sound.each (fun _ _ _ => ?_) _ _ ?_ | with_reducible apply Sound.ite | exact State.zoneLevels_cases _
    | with_reducible refine Sound.put ?_ rfl rfl rfl rfl rfl rfl

theorem Sound.decaySectors {s0 s : State} (hs : Sound s0 s) : Sound s0 (s.decaySectors) := by
  unfold State.decaySectors
  dsimp -failIfUnchanged only
  repeat' with_reducible first | exact hs | refine Sound.put ?_ rfl rfl rfl rfl rfl rfl

theorem Sound.scrollGrid {s0 s : State} (hs : Sound s0 s) (te : Nat) : Sound s0 (s.scrollGrid te) := by
  unfold State.scrollGrid
  dsimp -failIfUnchanged only
  repeat' with_reducible first | exact hs | refine Sound.put ?_ rfl rfl rfl rfl rfl rfl

theorem Sound.emitTiles {s0 s : State} (hs : Sound s0 s) (k : Nat) : Sound s0 (s.emitTiles k) := by
  unfold State.emitTiles
  dsimp -failIfUnchanged only
  repeat' with_reducible first
    | assumption | apply Sound.routed | refine Sound.each (fun _ _ _ => ?_) _ _ ?_ | apply Sound.ite | refine Sound.put ?_ rfl rfl rfl rfl rfl rfl

theorem Sound.judgeHeld {s0 s : State} (hs : Sound s0 s) (te : Nat) : Sound s0 (s.judgeHeld te) := by
  unfold State.judgeHeld
  dsimp -failIfUnchanged only
  repeat' with_reducible first | exact hs | apply Sound.bump | apply Sound.ite | refine Sound.put ?_ rfl rfl rfl rfl rfl rfl

theorem Sound.closeFusion {s0 s : State} (hs : Sound s0 s) (k : Nat) (mismatch : Bool) (bad : List (Fin 16 × Nat)) :
    Sound s0 (s.closeFusion k mismatch bad) := by
  unfold State.closeFusion
  dsimp -failIfUnchanged only
  repeat' with_reducible first
    | exact hs | apply Sound.evaluateZones | apply Sound.decaySectors | apply Sound.judgeHeld | apply Sound.scrollGrid | apply Sound.routed
    | apply Sound.emitTiles | apply Sound.ticks | apply Sound.drainPq | apply Sound.settleFusion | refine Sound.put ?_ rfl rfl rfl rfl rfl rfl

/-! ## Machine/Complete.lean -/

theorem Sound.completion {s0 s : State} (hs : Sound s0 s) (h : Fin 2) (op : Nat) (tag : BitVec 16) (status result result2 : Nat) :
    Sound s0 (s.completion h op tag status result result2) := by
  unfold State.completion
  repeat' with_reducible first | exact hs | apply Sound.setFld | apply Sound.bump | apply Sound.noticeTo

theorem Sound.complete {s0 s : State} (hs : Sound s0 s) (h : Fin 2) (status result result2 : Nat) :
    Sound s0 (s.complete h status result result2) := by
  unfold State.complete
  repeat' first | with_reducible exact hs | with_reducible apply Sound.modHost | with_reducible apply Sound.completion | split

theorem Sound.completeAll {s0 s : State} (hs : Sound s0 s) (op status result result2 : Nat) : Sound s0 (s.completeAll op status result result2) := by
  unfold State.completeAll
  repeat' with_reducible first | assumption | apply Sound.complete | refine Sound.each (fun _ _ _ => ?_) _ _ ?_ | apply Sound.ite

theorem Sound.commit {s0 s : State} (hs : Sound s0 s) (h : Fin 2) : Sound s0 (s.commit h) := by
  unfold State.commit
  repeat' with_reducible first | exact hs | apply Sound.modHost

/-- A step is open. -/
theorem Sound.stepsOpen {s0 s : State} (hs : Sound s0 s) (st : StepUnit) (hr : st.running = true) : Sound s0 { s with step := st } :=
  ⟨hs.pending, fun k => by
    have := hs.control k
    simp only [State.controlOk, Bool.and_eq_true, Bool.or_eq_true] at this
    simpa [State.controlOk, hr, this.1] using this.2.imp (by simp) And.left, hs.stores⟩

/-- The steps end: no ridge is due and the zone pins are low. -/
theorem Sound.stepsEnd {s0 s : State} (hs : Sound s0 s) (st : StepUnit) (mesh : List MeshItem) (hd : st.due = false) :
    Sound s0 { s.dropZones with step := st, mesh := mesh } :=
  ⟨hs.pending, fun k => by
    have := hs.control k
    simp only [State.controlOk, Bool.and_eq_true] at this
    simp [State.controlOk, State.dropZones, this.1, hd], hs.stores⟩

/-! ## Machine/Power.lean -/

theorem Sound.powerNotice {s0 s : State} (hs : Sound s0 s) (mask level point cause target data : Nat) :
    Sound s0 (s.powerNotice mask level point cause target data) := by
  unfold State.powerNotice
  repeat' with_reducible first | exact hs | apply Sound.notice

theorem Sound.putLevel {s0 s : State} (hs : Sound s0 s) (c : Fin 16) : Sound s0 (s.putLevel c) := by
  unfold State.putLevel
  dsimp -failIfUnchanged only
  repeat' with_reducible first
    | assumption | apply Sound.modClutch | apply Sound.bump | apply Sound.postStatus | refine Sound.each (fun _ _ _ => ?_) _ _ ?_

theorem Sound.settleLevels {s0 s : State} (hs : Sound s0 s) : Sound s0 (s.settleLevels) := by
  unfold State.settleLevels
  repeat' first | with_reducible assumption | with_reducible apply Sound.complete | with_reducible refine Sound.each (fun _ _ _ => ?_) _ _ ?_ | split

theorem Sound.applyRequests {s0 s : State} (hs : Sound s0 s) : Sound s0 (s.applyRequests) := by
  unfold State.applyRequests
  dsimp -failIfUnchanged only
  repeat' with_reducible first
    | assumption | apply Sound.modClutch | apply Sound.putLevel | apply Sound.powerNotice | apply Sound.settleLevels
    | refine Sound.each (fun _ _ _ => ?_) _ _ ?_ | apply Sound.ite

theorem Sound.moveCaps {s0 s : State} (hs : Sound s0 s) (up : Bool) : Sound s0 (s.moveCaps up) := by
  unfold State.moveCaps
  dsimp -failIfUnchanged only
  repeat' first
    | with_reducible assumption | with_reducible apply Sound.modClutch | with_reducible apply Sound.bump | with_reducible apply Sound.putLevel
    | with_reducible apply Sound.powerNotice | with_reducible apply Sound.settleLevels | with_reducible refine Sound.each (fun _ _ _ => ?_) _ _ ?_
    | split

theorem Sound.judgeTrip {s0 s : State} (hs : Sound s0 s) : Sound s0 (s.judgeTrip) := by
  unfold State.judgeTrip
  repeat' with_reducible first
    | exact hs | apply Sound.deviceFault | apply Sound.causeGone | apply Sound.ite | refine Sound.put ?_ rfl rfl rfl rfl rfl rfl

theorem Sound.gateBlocks {s0 s : State} (hs : Sound s0 s) : Sound s0 (s.gateBlocks) := by
  unfold State.gateBlocks
  repeat' with_reducible first | exact hs | refine Sound.put ?_ rfl rfl rfl rfl rfl rfl

theorem Sound.stopIntake {s0 s : State} (hs : Sound s0 s) : Sound s0 (s.stopIntake) := by
  unfold State.stopIntake
  repeat' with_reducible first | exact hs | apply Sound.updFlows | refine Sound.put ?_ rfl rfl rfl rfl rfl rfl

theorem Sound.openIntake {s0 s : State} (hs : Sound s0 s) : Sound s0 (s.openIntake) := by
  unfold State.openIntake
  repeat' with_reducible first | exact hs | apply Sound.releaseHeld | apply Sound.updFlows | refine Sound.put ?_ rfl rfl rfl rfl rfl rfl

theorem Sound.beginEntry {s0 s : State} (hs : Sound s0 s) (t : BitVec 2) (owner : Option (Fin 2)) (mask : BitVec 4) :
    Sound s0 (s.beginEntry t owner mask) := by
  unfold State.beginEntry
  dsimp -failIfUnchanged only
  repeat' with_reducible first | exact hs | apply Sound.stopIntake | apply Sound.ite | refine Sound.put ?_ rfl rfl rfl rfl rfl rfl

theorem Sound.abandonEntry {s0 s : State} (hs : Sound s0 s) (reason : Nat) : Sound s0 (s.abandonEntry reason) := by
  unfold State.abandonEntry
  dsimp -failIfUnchanged only
  repeat' first
    | with_reducible exact hs | with_reducible apply Sound.openIntake | with_reducible apply Sound.bump | with_reducible apply Sound.powerNotice
    | with_reducible apply Sound.complete | split | with_reducible refine Sound.put ?_ rfl rfl rfl rfl rfl rfl

theorem Sound.recordWake {s0 s : State} (hs : Sound s0 s) (exited : BitVec 2) (pins : BitVec 4) (src : BitVec 4) :
    Sound s0 (s.recordWake exited pins src) := by
  unfold State.recordWake
  dsimp -failIfUnchanged only
  repeat' with_reducible first
    | assumption | apply Sound.bump | apply Sound.postStatus | apply Sound.noticeTo | apply Sound.modHost
    | refine Sound.each (fun _ _ _ => ?_) _ _ ?_ | apply Sound.ite | refine Sound.put ?_ rfl rfl rfl rfl rfl rfl

theorem Sound.linksDown {s0 s : State} (hs : Sound s0 s) : Sound s0 (s.linksDown) := by
  unfold State.linksDown
  repeat' with_reducible first | assumption | apply Sound.modHost | refine Sound.each (fun _ _ _ => ?_) _ _ ?_

theorem Sound.dropQueued {s0 s : State} (hs : Sound s0 s) : Sound s0 (s.dropQueued) := by
  unfold State.dropQueued
  dsimp -failIfUnchanged only
  repeat' first | with_reducible exact hs | with_reducible apply Sound.complete | split | with_reducible refine Sound.put ?_ rfl rfl rfl rfl rfl rfl

theorem Sound.enqueuePower {s0 s : State} (hs : Sound s0 s) (t : BitVec 2) (owner : Option (Fin 2)) (mask : BitVec 4) :
    Sound s0 (s.enqueuePower t owner mask) := by
  unfold State.enqueuePower
  dsimp -failIfUnchanged only
  repeat' with_reducible first | exact hs | apply Sound.dropQueued | refine Sound.put ?_ rfl rfl rfl rfl rfl rfl

theorem Sound.wakeRequest {s0 s : State} (hs : Sound s0 s) (src : BitVec 4) (pins : BitVec 4) : Sound s0 (s.wakeRequest src pins) := by
  unfold State.wakeRequest
  dsimp -failIfUnchanged only
  repeat' with_reducible first
    | exact hs | apply Sound.enqueuePower | apply Sound.abandonEntry | apply Sound.dropQueued | apply Sound.ite
    | refine Sound.put ?_ rfl rfl rfl rfl rfl rfl

theorem Sound.commitEntry {s0 s : State} (hs : Sound s0 s) (t : BitVec 2) : Sound s0 (s.commitEntry t) := by
  unfold State.commitEntry
  dsimp -failIfUnchanged only
  repeat' first
    | with_reducible exact hs | with_reducible apply Sound.complete | with_reducible apply Sound.linksDown | split
    | with_reducible refine Sound.put ?_ rfl rfl rfl rfl rfl rfl

theorem Sound.beginExit {s0 s : State} (hs : Sound s0 s) (t : BitVec 2) : Sound s0 (s.beginExit t) := by
  unfold State.beginExit
  repeat' with_reducible first | exact hs | refine Sound.put ?_ rfl rfl rfl rfl rfl rfl

theorem Sound.actQueued {s0 s : State} (hs : Sound s0 s) : Sound s0 (s.actQueued) := by
  unfold State.actQueued
  dsimp -failIfUnchanged only
  repeat' first
    | with_reducible exact hs | with_reducible apply Sound.beginExit | with_reducible apply Sound.complete | with_reducible apply Sound.commitEntry
    | split | with_reducible refine Sound.put ?_ rfl rfl rfl rfl rfl rfl

theorem Sound.powerAsleep {s0 s : State} (hs : Sound s0 s) (h : Fin 2) (t : BitVec 2) (mask : BitVec 4) : Sound s0 (s.powerAsleep h t mask) := by
  unfold State.powerAsleep
  dsimp -failIfUnchanged only
  repeat' with_reducible first
    | exact hs | apply Sound.enqueuePower | apply Sound.dropQueued | apply Sound.beginExit | apply Sound.complete | apply Sound.commitEntry
    | apply Sound.ite | refine Sound.put ?_ rfl rfl rfl rfl rfl rfl

theorem Sound.powerAwake {s0 s : State} (hs : Sound s0 s) (h : Fin 2) (t : BitVec 2) (mask : BitVec 4) : Sound s0 (s.powerAwake h t mask) := by
  unfold State.powerAwake
  dsimp -failIfUnchanged only
  repeat' first
    | with_reducible exact hs | with_reducible apply Sound.abandonEntry | with_reducible apply Sound.complete
    | with_reducible apply Sound.beginEntry | split | with_reducible refine Sound.put ?_ rfl rfl rfl rfl rfl rfl

theorem Sound.powerRequest {s0 s : State} (hs : Sound s0 s) (h : Fin 2) (t : BitVec 2) (mask : BitVec 4) : Sound s0 (s.powerRequest h t mask) := by
  unfold State.powerRequest
  repeat' with_reducible first | exact hs | apply Sound.powerAwake | apply Sound.powerAsleep | apply Sound.ite

theorem Sound.scrubCell {s0 s : State} (hs : Sound s0 s) (w : WakeInputs) (d : Fin 256) : Sound s0 (s.scrubCell w d) := by
  have cut : ∀ {m : Memory} (p : Host.Cell → Bool), Memory.wf m = true → Memory.wf (m.filter p) = true := fun p => memFilter_wf _ p
  unfold State.scrubCell
  extract_lets lt lc n s0 s1 s2 mt mc
  have h0 : Sound _ s0 := .ite hs (hs.bump ..)
  refine .ite h0 (Sound.postStatus (Sound.modCell' (Sound.each (fun t b h => Sound.setCell h _ _ fun k => ?_) _ _
    (h0.modCell _ _ fun x k => ?_)) _ _ fun _ => ?_) ..)
  · rw [Cell.stored_iff] at k ⊢
    exact ⟨k.1, memFold_wf _ _ (cut _ k.2)⟩
  · rw [Cell.stored_iff] at k ⊢
    exact ⟨cut _ k.1, k.2⟩
  · exact ⟨rfl, rfl⟩

theorem Sound.chargeLeakage {s0 s : State} (hs : Sound s0 s) (n : Nat) : Sound s0 (s.chargeLeakage n) := by
  unfold State.chargeLeakage
  repeat' with_reducible first | assumption | apply Sound.addTotal | refine Sound.each (fun _ _ _ => ?_) _ _ ?_

theorem Sound.wakeUp {s0 s : State} (hs : Sound s0 s) (w : WakeInputs) (t : BitVec 2) : Sound s0 (s.wakeUp w t) := by
  unfold State.wakeUp
  dsimp -failIfUnchanged only
  repeat' with_reducible first
    | assumption | apply Sound.scrubCell | apply Sound.chargeLeakage | apply Sound.recordWake | apply Sound.openIntake | apply Sound.rearm
    | refine Sound.each (fun _ _ _ => ?_) _ _ ?_ | apply Sound.ite | refine Sound.put ?_ rfl rfl rfl rfl rfl rfl

theorem Sound.afterExit {s0 s : State} (hs : Sound s0 s) : Sound s0 (s.afterExit) := by
  unfold State.afterExit
  dsimp -failIfUnchanged only
  repeat' first
    | with_reducible exact hs | with_reducible apply Sound.beginEntry | with_reducible apply Sound.actQueued | split
    | with_reducible refine Sound.put ?_ rfl rfl rfl rfl rfl rfl

/-! ## Machine/Scene.lean -/

theorem Sound.writeToken {s0 s : State} (hs : Sound s0 s) (cell : Fin 256) (step b score : Nat) (words : Word → List DWord) :
    Sound s0 (s.writeToken cell step b score words) := by
  unfold State.writeToken
  dsimp -failIfUnchanged only
  repeat' with_reducible first | exact hs | apply Sound.bump | apply Sound.ite | refine Sound.put ?_ rfl rfl rfl rfl rfl rfl

theorem Sound.takeToken {s0 s : State} (hs : Sound s0 s) (i : BridgeItem) : Sound s0 (s.takeToken i) := by
  unfold State.takeToken
  dsimp -failIfUnchanged only
  repeat' first
    | with_reducible exact hs | with_reducible apply Sound.bump | with_reducible apply Sound.writeToken | split
    | with_reducible refine Sound.put ?_ rfl rfl rfl rfl rfl rfl

theorem Sound.tokenFrame {s0 s : State} (hs : Sound s0 s) (k : Nat) (lost : List Nat) : Sound s0 (s.tokenFrame k lost) := by
  unfold State.tokenFrame
  dsimp -failIfUnchanged only
  repeat' with_reducible first | exact hs | apply Sound.bump | apply Sound.toTokenRing | refine Sound.put ?_ rfl rfl rfl rfl rfl rfl

theorem Sound.setRets {s0 s : State} (hs : Sound s0 s) (l : List Retrieval) : Sound s0 (s.setRets l) := by
  unfold State.setRets
  repeat' with_reducible first | exact hs | refine Sound.put ?_ rfl rfl rfl rfl rfl rfl

theorem Sound.endRet {s0 s : State} (hs : Sound s0 s) (p : Retrieval → Bool) (r : Retrieval) (st : ResultStatus) (toks : List (List DWord × Word)) :
    Sound s0 (s.endRet p r st toks) := by
  unfold State.endRet
  repeat' with_reducible first | exact hs | apply Sound.setRets | apply Sound.bump

theorem Sound.closeScene {s0 s : State} (hs : Sound s0 s) (k : Nat) (lost : List Nat) : Sound s0 (s.closeScene k lost) := by
  unfold State.closeScene
  dsimp -failIfUnchanged only
  repeat' first
    | with_reducible assumption | with_reducible apply Sound.tokenFrame | with_reducible apply Sound.toTokenRing
    | with_reducible apply Sound.setRets | with_reducible apply Sound.bump | with_reducible refine Sound.each (fun _ _ _ => ?_) _ _ ?_ | split
    | with_reducible refine Sound.put ?_ rfl rfl rfl rfl rfl rfl

theorem Sound.doomAll {s0 s : State} (hs : Sound s0 s) (st : ResultStatus) : Sound s0 (s.doomAll st) := by
  unfold State.doomAll
  repeat' with_reducible first | exact hs | apply Sound.setRets

theorem Sound.emptyRegion {s0 s : State} (hs : Sound s0 s) : Sound s0 (s.emptyRegion) := by
  unfold State.emptyRegion
  repeat' with_reducible first | exact hs | refine Sound.put ?_ rfl rfl rfl rfl rfl rfl

theorem Sound.eraseRegion {s0 s : State} (hs : Sound s0 s) : Sound s0 (s.eraseRegion) := by
  unfold State.eraseRegion
  dsimp -failIfUnchanged only
  repeat' with_reducible first
    | exact hs | apply Sound.emptyRegion | apply Sound.bump | apply Sound.doomAll | refine Sound.put ?_ rfl rfl rfl rfl rfl rfl

theorem Sound.openScene {s0 s : State} (hs : Sound s0 s) (k : Nat) : Sound s0 (s.openScene k) := by
  unfold State.openScene
  repeat' with_reducible first | exact hs | refine Sound.put ?_ rfl rfl rfl rfl rfl rfl

theorem Sound.streamShare {s0 s : State} (fuel : Nat) (hs : Sound s0 s) (r : Retrieval) (h : Share) (lost : List Nat) :
    Sound s0 (s.streamShare fuel r h lost).1 := by
  induction fuel generalizing s h with
  | zero => exact hs
  | succ n ih =>
    rw [State.streamShare]
    split
    · exact hs
    · dsimp only
      split
      · exact hs
      · split
        · exact hs
        · with_reducible apply ih
          with_reducible apply Sound.landItem
          with_reducible exact Sound.ite (Sound.bump (hs.ticks _) ..) hs

/-! ## Machine/Load.lean -/

theorem Cell.settle_mems (x : Cell) : x.settle.thatch = x.thatch ∧ x.settle.cwm = x.cwm := by
  unfold Cell.settle; split <;> exact ⟨rfl, rfl⟩

theorem Sound.runCell {s0 s : State} (hs : Sound s0 s) (c : Fin 256) : Sound s0 (s.runCell c) := by
  unfold State.runCell
  dsimp -failIfUnchanged only
  repeat' with_reducible first | exact hs | apply Sound.setReg | refine Sound.modCell' ?_ _ _ fun _ => ⟨rfl, rfl⟩ | apply Sound.ite

theorem Sound.haltCell {s0 s : State} (hs : Sound s0 s) (c : Fin 256) : Sound s0 (s.haltCell c) := by
  unfold State.haltCell
  dsimp -failIfUnchanged only
  repeat' first
    | with_reducible exact hs | with_reducible apply Sound.setReg | with_reducible refine Sound.modCell' ?_ _ _ fun _ => ?_
    | with_reducible apply Sound.ite | exact Cell.settle_mems ..

theorem Sound.startAll {s0 s : State} (hs : Sound s0 s) : Sound s0 (s.startAll) := by
  unfold State.startAll
  repeat' with_reducible first
    | assumption | apply Sound.ungate | apply Sound.runCell | apply Sound.setReg | refine Sound.each (fun _ _ _ => ?_) _ _ ?_

theorem Sound.haltAll {s0 s : State} (hs : Sound s0 s) : Sound s0 (s.haltAll) := by
  unfold State.haltAll
  repeat' with_reducible first | assumption | apply Sound.haltCell | refine Sound.each (fun _ _ _ => ?_) _ _ ?_

theorem Sound.setM {s0 s : State} (hs : Sound s0 s) (i : Fin 6) (v : BitVec 256) : Sound s0 (s.setM i v) := by
  unfold State.setM
  repeat' with_reducible first | exact hs | refine Sound.put ?_ rfl rfl rfl rfl rfl rfl

theorem Sound.stewardCfg {s0 s : State} (hs : Sound s0 s) (key : Nat) (mask : Nat) (v : Word) : Sound s0 (s.stewardCfg key mask v) := by
  unfold State.stewardCfg
  repeat' with_reducible first | exact hs | apply Sound.setReg

theorem Sound.loadCell {s0 s : State} (hs : Sound s0 s) (c : Fin 256) : Sound s0 (s.loadCell c) := by
  unfold State.loadCell
  refine Sound.setCell (Sound.each (fun _ _ h => h.stewardCfg ..) _ _ ?_) _ _ fun _ => ?_
  · exact hs.dropRegs _
  · rw [Cell.stored_iff]
    exact ⟨memWriteBytes_wf _ _ _ (memFold_wf _ _ rfl), memFold_wf _ _ rfl⟩

theorem Sound.dealHosted {s0 s : State} (hs : Sound s0 s) (c : Fin 256) : Sound s0 (s.dealHosted c) := by
  unfold State.dealHosted
  repeat' first | with_reducible exact hs | with_reducible apply Sound.dealShingles | split

theorem Sound.fillBankA {s0 s : State} (hs : Sound s0 s) (d : Fin 256) : Sound s0 (s.fillBankA d) := by
  unfold State.fillBankA
  refine hs.modCell _ _ fun x k => ?_
  rw [Cell.stored_iff] at k ⊢
  exact ⟨memWriteBytes_wf _ _ _ k.1, k.2⟩

theorem Sound.loadClutch {s0 s : State} (hs : Sound s0 s) (cl : Fin 16) : Sound s0 (s.loadClutch cl) := by
  unfold State.loadClutch
  dsimp -failIfUnchanged only
  repeat' with_reducible first
    | assumption | apply Sound.ungate | apply Sound.loadCell | apply Sound.dealHosted | apply Sound.fillBankA | apply Sound.modClutch
    | refine Sound.each (fun _ _ _ => ?_) _ _ ?_ | refine Sound.put ?_ rfl rfl rfl rfl rfl rfl

theorem Sound.loadReg {s0 s : State} (hs : Sound s0 s) (key : Nat) (v : Word) : Sound s0 (s.loadReg key v) := by
  unfold State.loadReg
  dsimp -failIfUnchanged only
  repeat' first | with_reducible exact hs | with_reducible apply Sound.stewardCfg | with_reducible apply Sound.emptyRegion | split

theorem Sound.loadRegs {s0 s : State} (hs : Sound s0 s) (img : Image) : Sound s0 (s.loadRegs img) := by
  unfold State.loadRegs
  repeat' with_reducible first | assumption | apply Sound.dropRegs | apply Sound.loadReg | refine Sound.each (fun _ _ _ => ?_) _ _ ?_

theorem Sound.loadActive {s0 s : State} (hs : Sound s0 s) (ups : CellUpsets) : Sound s0 (s.loadActive ups) := by
  unfold State.loadActive
  dsimp -failIfUnchanged only
  repeat' first
    | with_reducible assumption | with_reducible apply Sound.meetAll | with_reducible apply Sound.loadClutch | with_reducible apply Sound.loadRegs
    | with_reducible refine Sound.each (fun _ _ _ => ?_) _ _ ?_ | split | with_reducible refine Sound.put ?_ rfl rfl rfl rfl rfl rfl

theorem Sound.burnImage {s0 s : State} (hs : Sound s0 s) (x : Slot) : Sound s0 (s.burnImage x) := by
  unfold State.burnImage
  dsimp -failIfUnchanged only
  repeat' first | with_reducible exact hs | with_reducible apply Sound.setM | split | with_reducible refine Sound.put ?_ rfl rfl rfl rfl rfl rfl

theorem Sound.swapSlots {s0 s : State} (hs : Sound s0 s) (ups : CellUpsets) : Sound s0 (s.swapSlots ups) := by
  unfold State.swapSlots
  dsimp -failIfUnchanged only
  repeat' first
    | with_reducible exact hs | with_reducible apply Sound.burnImage | with_reducible apply Sound.setM | with_reducible apply Sound.loadActive
    | split | with_reducible refine Sound.put ?_ rfl rfl rfl rfl rfl rfl

/-! ## Machine/Flags.lean -/

theorem Sound.goOnCounting {s0 s : State} (hs : Sound s0 s) (key : Nat) : Sound s0 (s.goOnCounting key) := by
  unfold State.goOnCounting
  repeat' with_reducible first | exact hs | apply Sound.countWait | apply Sound.ite

theorem Sound.loadCtr {s0 s : State} (hs : Sound s0 s) (key : Nat) (v : Word) : Sound s0 (s.loadCtr key v) := by
  unfold State.loadCtr
  repeat' with_reducible first | exact hs | apply Sound.setCtr | apply Sound.goOnCounting

/-! ## Machine/Host.lean -/

theorem Sound.takeSnapshot {s0 s : State} (hs : Sound s0 s) (h : Fin 2) (a : ActiveCmd) (k : Nat) : Sound s0 (s.takeSnapshot h a k) := by
  unfold State.takeSnapshot
  dsimp -failIfUnchanged only
  repeat' with_reducible first | exact hs | apply Sound.complete | refine Sound.put ?_ rfl rfl rfl rfl rfl rfl

theorem Sound.takeSnapshots {s0 s : State} (hs : Sound s0 s) (f : Nat → Bool) (k : Nat) : Sound s0 (s.takeSnapshots f k) := by
  unfold State.takeSnapshots
  repeat' first
    | with_reducible assumption | with_reducible apply Sound.takeSnapshot | with_reducible refine Sound.each (fun _ _ _ => ?_) _ _ ?_ | split

theorem Sound.associateNext {s0 s : State} (hs : Sound s0 s) (k te : Nat) (rest : List (Nat × Nat)) : Sound s0 (s.associateNext k te rest) := by
  unfold State.associateNext
  dsimp -failIfUnchanged only
  repeat' with_reducible first
    | exact hs | apply Sound.enterRecovery | apply Sound.associate | apply Sound.ite | refine Sound.put ?_ rfl rfl rfl rfl rfl rfl

theorem Sound.writeSem {s0 s : State} (hs : Sound s0 s) (hp : Fin 2) (n : Fin 64) (v : Word) : Sound s0 (s.writeSem hp n v) := by
  unfold State.writeSem
  dsimp -failIfUnchanged only
  repeat' with_reducible first | exact hs | apply Sound.setSem | apply Sound.bump | apply Sound.ite

theorem Sound.tickSems {s0 s : State} (hs : Sound s0 s) : Sound s0 (s.tickSems) := by
  unfold State.tickSems
  repeat' with_reducible first | exact hs | refine Sound.put ?_ rfl rfl rfl rfl rfl rfl

theorem Sound.clearHif {s0 s : State} (hs : Sound s0 s) (hp : Fin 2) : Sound s0 (s.clearHif hp) :=
  (hs.dropRegs (ownKey hp)).updStores rfl rfl rfl rfl rfl id id (assocWf_filter _ _ _) fun k _ => assocWf_filter _ _ _ k

theorem Sound.undoCmd {s0 s : State} (hs : Sound s0 s) (hp : Fin 2) : Sound s0 (s.undoCmd hp) := by
  unfold State.undoCmd
  repeat' first
    | with_reducible exact hs | with_reducible apply Sound.abandonEntry | split | with_reducible refine Sound.put ?_ rfl rfl rfl rfl rfl rfl

theorem Sound.payOwed {s0 s : State} (hs : Sound s0 s) (hp : Fin 2) : Sound s0 (s.payOwed hp) := by
  unfold State.payOwed
  dsimp -failIfUnchanged only
  repeat' with_reducible first | assumption | apply Sound.modHost | apply Sound.noticeTo | refine Sound.each (fun _ _ _ => ?_) _ _ ?_

theorem Sound.stageOn {s0 s : State} (hs : Sound s0 s) (h : Fin 2) (c : Fin 256) (ring : Nat) (late : Bool) (words : List DWord) :
    Sound s0 (s.stageOn h c ring late words) := by
  unfold State.stageOn
  dsimp -failIfUnchanged only
  repeat' with_reducible first | exact hs | apply Sound.bump | apply Sound.modHost | apply Sound.ite

theorem Sound.stageItem {s0 s : State} (hs : Sound s0 s) (i : BridgeItem) : Sound s0 (s.stageItem i) := by
  unfold State.stageItem
  dsimp -failIfUnchanged only
  repeat' with_reducible first | assumption | apply Sound.stageOn | apply Sound.bump | refine Sound.each (fun _ _ _ => ?_) _ _ ?_ | apply Sound.ite

theorem Sound.postRing {s0 s : State} (hs : Sound s0 s) (h : Fin 2) (n : Nat) (words : List DWord) : Sound s0 (s.postRing h n words) := by
  unfold State.postRing
  repeat' with_reducible first | exact hs | apply Sound.putRecord | apply Sound.ite

theorem Sound.writeStaged {s0 s : State} (hs : Sound s0 s) : Sound s0 (s.writeStaged) := by
  unfold State.writeStaged
  dsimp -failIfUnchanged only
  repeat' with_reducible first | assumption | apply Sound.modHost | apply Sound.postRing | refine Sound.each (fun _ _ _ => ?_) _ _ ?_

theorem Sound.selectMbx {s0 s : State} (hs : Sound s0 s) (hp : Fin 2) (sel : BitVec 16) : Sound s0 (s.selectMbx hp sel) := by
  unfold State.selectMbx
  repeat' with_reducible first | exact hs | apply Sound.modHost

/-! ## Machine/Boot.lean -/

theorem Sound.putData {s0 s : State} (hs : Sound s0 s) (h : Fin 2) (addr : Nat) (bytes : List Byte) : Sound s0 (s.putData h addr bytes) := by
  unfold State.putData
  repeat' with_reducible first | exact hs | refine Sound.put ?_ rfl rfl rfl rfl rfl rfl

theorem Sound.signReport {s0 s : State} (hs : Sound s0 s) (h : Fin 2) (a : ActiveCmd) : Sound s0 (s.signReport h a) := by
  unfold State.signReport
  repeat' with_reducible first | exact hs | apply Sound.complete | apply Sound.putData | apply Sound.tick | apply Sound.bump | apply Sound.ite

theorem Sound.discover {s0 s : State} (hs : Sound s0 s) : Sound s0 s.discover := by
  unfold State.discover
  refine Sound.putCells hs rfl rfl rfl rfl rfl rfl fun _ => stored_ofFn fun c => ?_
  unfold Discovery.cellFor
  dsimp only
  repeat' split
  all_goals rfl

theorem Sound.drawKeys {s0 s : State} (hs : Sound s0 s) : Sound s0 (s.drawKeys) := by
  unfold State.drawKeys
  repeat' with_reducible first | exact hs | apply Sound.ticks | refine Sound.put ?_ rfl rfl rfl rfl rfl rfl

theorem Sound.startFirmware {s0 s : State} (hs : Sound s0 s) (version : Word) (digest : BitVec 256) (advance : Bool) (svn : BitVec 6) :
    Sound s0 (s.startFirmware version digest advance svn) := by
  unfold State.startFirmware
  dsimp -failIfUnchanged only
  repeat' with_reducible first
    | exact hs | apply Sound.setM | apply Sound.drawKeys | apply Sound.discover | apply Sound.ite | refine Sound.put ?_ rfl rfl rfl rfl rfl rfl

theorem Sound.cleared {s0 s : State} (hs : Sound s0 s) (bootsel : BitVec 2) (tamper : Word) (b : BootInputs) :
    Sound s0 (s.cleared bootsel tamper b) := by
  refine ⟨hs.pending, fun _ => rfl, fun _ => ?_⟩
  simp only [State.storesWf, State.cleared, State.reset, Vector.toList_replicate, List.all_replicate]
  rfl

theorem Sound.romBoot {s0 s : State} (hs : Sound s0 s) (b : BootInputs) : Sound s0 (s.romBoot b) := by
  unfold State.romBoot
  dsimp -failIfUnchanged only
  repeat' first
    | with_reducible exact hs | with_reducible apply Sound.startFirmware | split | with_reducible refine Sound.put ?_ rfl rfl rfl rfl rfl rfl

theorem Sound.tamperReset {s0 s : State} (hs : Sound s0 s) (src : Nat) (b : BootInputs) : Sound s0 (s.tamperReset src b) := by
  unfold State.tamperReset
  repeat' with_reducible first | exact hs | apply Sound.cleared | apply Sound.romBoot

theorem Sound.setReady {s0 s : State} (hs : Sound s0 s) (i : Nat) : Sound s0 (s.setReady i) := by
  unfold State.setReady
  repeat' with_reducible first | exact hs | refine Sound.put ?_ rfl rfl rfl rfl rfl rfl

theorem Sound.startClutch {s0 s : State} (hs : Sound s0 s) (cl : Fin 16) : Sound s0 (s.startClutch cl) := by
  unfold State.startClutch
  repeat' with_reducible first | assumption | apply Sound.runCell | refine Sound.each (fun _ _ _ => ?_) _ _ ?_ | apply Sound.ite

theorem Sound.clutchIn {s0 s : State} (hs : Sound s0 s) (cl : Fin 16) (ups : CellUpsets) : Sound s0 (s.clutchIn cl ups) := by
  unfold State.clutchIn
  dsimp -failIfUnchanged only
  repeat' with_reducible first
    | exact hs | apply Sound.modClutch | apply Sound.writeRoutes | apply Sound.meetAll | apply Sound.loadClutch | apply Sound.startClutch
    | apply Sound.ite | refine Sound.put ?_ rfl rfl rfl rfl rfl rfl

/-! ## Machine/Guard.lean -/

theorem Sound.startSentinels {s0 s : State} (hs : Sound s0 s) : Sound s0 s.startSentinels := by
  unfold State.startSentinels
  refine .ite (Sound.each (fun _ _ h => h.ungate _) _ _ ?_) hs
  exact Sound.putCells hs rfl rfl rfl rfl rfl rfl (stored_map' _ fun _ => ⟨rfl, rfl⟩)

theorem Sound.routerDies {s0 s : State} (hs : Sound s0 s) (c : Fin 256) : Sound s0 (s.routerDies c) := by
  unfold State.routerDies
  repeat' first | with_reducible exact hs | split | with_reducible refine Sound.put ?_ rfl rfl rfl rfl rfl rfl

theorem Sound.loopbackFails {s0 s : State} (hs : Sound s0 s) (c : Fin 256) : Sound s0 (s.loopbackFails c) := by
  unfold State.loopbackFails
  repeat' with_reducible first | exact hs | apply Sound.bump | apply Sound.failCell | apply Sound.routerDies

theorem Sound.noteRun {s0 s : State} (hs : Sound s0 s) (c : Fin 256) : Sound s0 (s.noteRun c) := by
  unfold State.noteRun
  dsimp -failIfUnchanged only
  repeat' with_reducible first | exact hs | apply Sound.ite | refine Sound.put ?_ rfl rfl rfl rfl rfl rfl

theorem Sound.runEnds {s0 s : State} (hs : Sound s0 s) (c : Fin 256) (r : SentinelResult) : Sound s0 (s.runEnds c r) := by
  unfold State.runEnds
  repeat' first
    | with_reducible exact hs | with_reducible apply Sound.bump | with_reducible apply Sound.failCell | with_reducible apply Sound.loopbackFails
    | with_reducible apply Sound.clutchOut | split

theorem Sound.holdPin {s0 s : State} (hs : Sound s0 s) (pin : Fin 8) (level : Option Bool) : Sound s0 (s.holdPin pin level) := by
  unfold State.holdPin
  repeat' with_reducible first | exact hs | refine Sound.put ?_ rfl rfl rfl rfl rfl rfl

theorem Sound.releasePins {s0 s : State} (hs : Sound s0 s) : Sound s0 (s.releasePins) := by
  unfold State.releasePins
  dsimp -failIfUnchanged only
  repeat' with_reducible first | exact hs | apply Sound.driveNoFault | apply Sound.ite | refine Sound.put ?_ rfl rfl rfl rfl rfl rfl

/-! ## Machine/HostCmds.lean -/

theorem Sound.fetchAhead {s0 s : State} (hs : Sound s0 s) (h : Fin 2) : Sound s0 (s.fetchAhead h) := by
  unfold State.fetchAhead
  dsimp -failIfUnchanged only
  repeat' with_reducible first | exact hs | apply Sound.modHost | apply Sound.ite | refine Sound.put ?_ rfl rfl rfl rfl rfl rfl

theorem Sound.toNextCmd {s0 s : State} (hs : Sound s0 s) (h : Fin 2) : Sound s0 (s.toNextCmd h) := by
  unfold State.toNextCmd
  repeat' with_reducible first | exact hs | apply Sound.fetchAhead | apply Sound.modHost

theorem Sound.startCmd {s0 s : State} (hs : Sound s0 s) (h : Fin 2) (d : Descriptor) (data : List Byte) (load : Option (Option Container × Ecc)) :
    Sound s0 (s.startCmd h d data load) := by
  unfold State.startCmd
  repeat' with_reducible first | exact hs | apply Sound.modHost | apply Sound.fetchAhead

theorem Sound.hostCmd {s0 s : State} (hs : Sound s0 s) (h : Fin 2) (d : Descriptor) (data : List Byte) (load : Option (Option Container × Ecc))
    (f : CmdForm) (range : Bool) (body : State → State) (hb : ∀ t, Sound s0 t → Sound s0 (body t)) : Sound s0 (s.hostCmd h d data load f range body) := by
  unfold State.hostCmd
  have h0 := hs.toNextCmd h
  have ht := h0.startCmd h d data load
  exact .ite (.ite (ht.complete ..) (.ite ((ht.bump ..).complete ..) (.ite (ht.complete ..) (hb _ ht)))) h0

theorem Sound.dropStaged {s0 s : State} (hs : Sound s0 s) : Sound s0 (s.dropStaged) := by
  unfold State.dropStaged
  repeat' with_reducible first | exact hs | apply Sound.setM | refine Sound.put ?_ rfl rfl rfl rfl rfl rfl

theorem Sound.extendLife {s0 s : State} (hs : Sound s0 s) (c : Container) : Sound s0 (s.extendLife c) := by
  unfold State.extendLife
  repeat' with_reducible first | exact hs | apply Sound.setM

theorem Sound.enrol {s0 s : State} (hs : Sound s0 s) (slot op : Nat) (keyHash imgKey : BitVec 256) : Sound s0 (s.enrol slot op keyHash imgKey) := by
  unfold State.enrol
  dsimp -failIfUnchanged only
  repeat' with_reducible first | exact hs | apply Sound.ite | refine Sound.put ?_ rfl rfl rfl rfl rfl rfl

theorem Sound.stopNow {s0 s : State} (hs : Sound s0 s) : Sound s0 s.stopNow := by
  unfold State.stopNow
  refine Sound.releaseHeld (Sound.completeAll (Sound.stepsEnd ?_ _ _ rfl) ..)
  exact (Sound.each (fun _ _ h => h.haltCell _) _ _ hs).setReg ..

theorem Sound.wipeQueues {s0 s : State} (hs : Sound s0 s) : Sound s0 (s.wipeQueues) := by
  unfold State.wipeQueues
  dsimp -failIfUnchanged only
  repeat' with_reducible first
    | assumption | apply Sound.setFrames | apply Sound.updFlows | refine Sound.each (fun _ _ _ => ?_) _ _ ?_
    | refine Sound.put ?_ rfl rfl rfl rfl rfl rfl

theorem Sound.unlock {s0 s : State} (hs : Sound s0 s) (c : Container) (level : Byte) : Sound s0 (s.unlock c level) := by
  unfold State.unlock
  refine Sound.put (Sound.drawKeys (Sound.extendLife (Sound.setM ?_ ..) _)) rfl rfl rfl rfl rfl rfl
  exact Sound.putCells hs.stopNow.wipeQueues rfl rfl rfl rfl rfl rfl (stored_map _ fun _ _ => rfl)

theorem Sound.writeFlash {s0 s : State} (hs : Sound s0 s) (c : Container) (version : Word) : Sound s0 (s.writeFlash c version) := by
  unfold State.writeFlash
  dsimp -failIfUnchanged only
  repeat' with_reducible first | exact hs | apply Sound.tick | refine Sound.put ?_ rfl rfl rfl rfl rfl rfl

theorem Sound.accept {s0 s : State} (hs : Sound s0 s) (c : Container) : Sound s0 (s.accept c) := by
  unfold State.accept
  dsimp -failIfUnchanged only
  repeat' first
    | with_reducible exact hs | with_reducible apply Sound.setM | with_reducible apply Sound.enrol | with_reducible apply Sound.extendLife
    | with_reducible apply Sound.startFirmware | with_reducible apply Sound.writeFlash | with_reducible apply Sound.unlock | split
    | with_reducible refine Sound.put ?_ rfl rfl rfl rfl rfl rfl

theorem Sound.consume {s0 s : State} (hs : Sound s0 s) (c : Container) : Sound s0 (s.consume c) := by
  unfold State.consume
  repeat' with_reducible first | exact hs | apply Sound.ite | refine Sound.put ?_ rfl rfl rfl rfl rfl rfl

theorem Sound.loadContainer {s0 s : State} (hs : Sound s0 s) (h : Fin 2) (size : Nat) (img : Option Container) :
    Sound s0 (s.loadContainer h size img) := by
  unfold State.loadContainer
  repeat' first
    | with_reducible exact hs | with_reducible apply Sound.dropStaged | with_reducible apply Sound.complete | with_reducible apply Sound.consume
    | with_reducible apply Sound.bump | with_reducible apply Sound.accept | split

theorem Sound.loadNow {s0 s : State} (hs : Sound s0 s) (h : Fin 2) (a : ActiveCmd) : Sound s0 (s.loadNow h a) := by
  unfold State.loadNow
  repeat' first
    | with_reducible exact hs | with_reducible apply Sound.complete | with_reducible apply Sound.reservedRead
    | with_reducible apply Sound.loadContainer | split

theorem Sound.serveRsa {s0 s : State} (hs : Sound s0 s) (fuel : Nat) : Sound s0 (s.serveRsa fuel) := by
  induction fuel generalizing s with
  | zero => exact hs
  | succ n ih =>
    rw [State.serveRsa]
    split
    · exact hs
    · exact .ite (.ite hs (ih (hs.signReport ..))) (ih (hs.loadNow ..))

theorem Sound.serveQueries {s0 s : State} (hs : Sound s0 s) : Sound s0 (s.serveQueries) := by
  unfold State.serveQueries
  repeat' first
    | with_reducible assumption | with_reducible apply Sound.putData | with_reducible apply Sound.complete
    | with_reducible refine Sound.each (fun _ _ _ => ?_) _ _ ?_ | split

theorem Sound.serveMeasured {s0 s : State} (hs : Sound s0 s) : Sound s0 (s.serveMeasured) := by
  unfold State.serveMeasured
  repeat' with_reducible first | exact hs | apply Sound.serveRsa | apply Sound.serveQueries

theorem Sound.openLoaded {s0 s : State} (hs : Sound s0 s) (ecc : Ecc) : Sound s0 (s.openLoaded ecc) := by
  unfold State.openLoaded
  split
  · refine Sound.ticks (.ite (hs.put rfl rfl rfl rfl rfl rfl) (.ite (hs.modCell _ _ fun x k => ?_) (hs.modCell _ _ fun x k => ?_))) _
    · rw [Cell.stored_iff] at k ⊢; exact ⟨k.1, memWriteNat_wf _ _ _ _ k.2⟩
    · rw [Cell.stored_iff] at k ⊢; exact ⟨memWriteNat_wf _ _ _ _ k.1, k.2⟩
  · exact hs

theorem Sound.requestsWritten {s0 s : State} (hs : Sound s0 s) : Sound s0 (s.requestsWritten) := by
  unfold State.requestsWritten
  repeat' with_reducible first | exact hs | apply Sound.settleLevels | apply Sound.applyRequests | apply Sound.ite

/-! ## Machine/HostWrite.lean -/

theorem Sound.accErr {s0 s : State} (hs : Sound s0 s) (hp : Fin 2) (write : Bool) (off : Nat) (be : BitVec 4) :
    Sound s0 (s.accErr hp write off be) := by
  unfold State.accErr
  dsimp -failIfUnchanged only
  repeat' with_reducible first | exact hs | apply Sound.bump | refine Sound.put ?_ rfl rfl rfl rfl rfl rfl

theorem Sound.wign {s0 s : State} (hs : Sound s0 s) (hp : Fin 2) (off : Nat) : Sound s0 (s.wign hp off) := by
  unfold State.wign
  repeat' with_reducible first | exact hs | apply Sound.bump

theorem Sound.swapInk {s0 s : State} (hs : Sound s0 s) (mask : BitVec 16) : Sound s0 (s.swapInk mask) := by
  unfold State.swapInk
  dsimp -failIfUnchanged only
  repeat' with_reducible first
    | assumption | apply Sound.modPort | refine Sound.each (fun _ _ _ => ?_) _ _ ?_ | refine Sound.put ?_ rfl rfl rfl rfl rfl rfl

theorem Sound.swapFus {s0 s : State} (hs : Sound s0 s) (mask : BitVec 16) : Sound s0 (s.swapFus mask) := by
  unfold State.swapFus
  dsimp -failIfUnchanged only
  repeat' with_reducible first | exact hs | refine Sound.put ?_ rfl rfl rfl rfl rfl rfl

theorem Sound.armSwap {s0 s : State} (hs : Sound s0 s) (hp : Fin 2) (fusion : Bool) (v : Word) : Sound s0 (s.armSwap hp fusion v) := by
  unfold State.armSwap
  dsimp -failIfUnchanged only
  repeat' with_reducible first
    | exact hs | apply Sound.wign | apply Sound.swapFus | apply Sound.swapInk | apply Sound.ite | refine Sound.put ?_ rfl rfl rfl rfl rfl rfl

theorem Sound.writeRun {s0 s : State} (hs : Sound s0 s) (v : Word) : Sound s0 (s.writeRun v) := by
  unfold State.writeRun
  dsimp -failIfUnchanged only
  repeat' with_reducible first
    | exact hs | apply Sound.setReg | apply Sound.releaseHeld | apply Sound.ite | refine Sound.put ?_ rfl rfl rfl rfl rfl rfl

theorem Sound.writePenb {s0 s : State} (hs : Sound s0 s) (p : Fin 16) (v : Word) : Sound s0 (s.writePenb p v) := by
  unfold State.writePenb
  repeat' with_reducible first | exact hs | apply Sound.portUp | apply Sound.portOff | apply Sound.ite

theorem Sound.writeMotEnb {s0 s : State} (hs : Sound s0 s) (m : Fin 4) (v : Word) : Sound s0 (s.writeMotEnb m v) := by
  unfold State.writeMotEnb
  repeat' with_reducible first | exact hs | apply Sound.setReg | apply Sound.setFrames | apply Sound.ite

theorem Sound.writeSeq {s0 s : State} (hs : Sound s0 s) (c : Fin 256) (v : Word) : Sound s0 (s.writeSeq c v) := by
  unfold State.writeSeq
  repeat' with_reducible first | exact hs | apply Sound.runCell | apply Sound.haltCell | apply Sound.ite

theorem Sound.clearSensors {s0 s : State} (hs : Sound s0 s) (v : Word) : Sound s0 (s.clearSensors v) := by
  unfold State.clearSensors
  dsimp -failIfUnchanged only
  repeat' with_reducible first | assumption | refine Sound.each (fun _ _ _ => ?_) _ _ ?_ | refine Sound.put ?_ rfl rfl rfl rfl rfl rfl

theorem Sound.writeScmEnb {s0 s : State} (hs : Sound s0 s) (v : Word) : Sound s0 (s.writeScmEnb v) := by
  unfold State.writeScmEnb
  dsimp -failIfUnchanged only
  repeat' with_reducible first | exact hs | apply Sound.setReg | apply Sound.doomAll | apply Sound.ite | refine Sound.put ?_ rfl rfl rfl rfl rfl rfl

theorem Sound.writeErase {s0 s : State} (hs : Sound s0 s) (v : Word) : Sound s0 (s.writeErase v) := by
  unfold State.writeErase
  repeat' with_reducible first | exact hs | apply Sound.eraseRegion | apply Sound.ite

theorem Sound.writeArm {s0 s : State} (hs : Sound s0 s) (v : Word) : Sound s0 (s.writeArm v) := by
  unfold State.writeArm
  repeat' with_reducible first | exact hs | apply Sound.setReg | apply Sound.rearm | apply Sound.driveFault | apply Sound.ite

theorem Sound.clearFaults {s0 s : State} (hs : Sound s0 s) (hp : Fin 2) (v : Word) : Sound s0 (s.clearFaults hp v) := by
  unfold State.clearFaults
  dsimp -failIfUnchanged only
  repeat' with_reducible first | exact hs | apply Sound.wign | apply Sound.rearm | apply Sound.ite | refine Sound.put ?_ rfl rfl rfl rfl rfl rfl

theorem Sound.newChallenge {s0 s : State} (hs : Sound s0 s) (v : Word) : Sound s0 (s.newChallenge v) := by
  unfold State.newChallenge
  repeat' with_reducible first | exact hs | apply Sound.tick | apply Sound.ite | refine Sound.put ?_ rfl rfl rfl rfl rfl rfl

theorem Sound.doorbell {s0 s : State} (hs : Sound s0 s) (hp : Fin 2) (ring : Nat) (count : Word) : Sound s0 (s.doorbell hp ring count) := by
  unfold State.doorbell
  dsimp -failIfUnchanged only
  repeat' with_reducible first | exact hs | apply Sound.bump | apply Sound.setReg | apply Sound.fetchAhead | apply Sound.updAttn | apply Sound.ite

theorem Sound.celWritten {s0 s : State} (hs : Sound s0 s) (c : Fin 256) (o : Nat) (old : Nat) : Sound s0 (s.celWritten c o old) := by
  unfold State.celWritten
  dsimp -failIfUnchanged only
  repeat' with_reducible first | exact hs | apply Sound.putQueue | refine Sound.modCell' ?_ _ _ fun _ => ⟨rfl, rfl⟩ | apply Sound.ite

theorem Sound.written {s0 s : State} (hs : Sound s0 s) (hp : Fin 2) (off : Nat) (old : Nat) : Sound s0 (s.written hp off old) := by
  unfold State.written
  repeat' with_reducible first
    | exact hs | apply Sound.celWritten | apply Sound.emptyRegion | apply Sound.settleExclude | apply Sound.updFlow | apply Sound.setFrames
    | apply Sound.requestsWritten | apply Sound.fetchAhead | apply Sound.updAttn | apply Sound.ite

theorem Sound.storeReg {s0 s : State} (hs : Sound s0 s) (hp : Fin 2) (off : Nat) (r : RegRow) (v : Word) : Sound s0 (s.storeReg hp off r v) := by
  unfold State.storeReg
  dsimp -failIfUnchanged only
  repeat' with_reducible first | exact hs | apply Sound.wign | apply Sound.setReg | apply Sound.written | apply Sound.ite

theorem Sound.act {s0 s : State} (hs : Sound s0 s) (hp : Fin 2) (off : Nat) (v : Word) : Sound.opt s0 (s.act hp off v) := by
  unfold State.act
  repeat' first | with_reducible apply Sound.opt_ite | exact Sound.opt_none _
  all_goals apply Sound.opt_some
  · exact hs.writeRun _
  · exact hs.doorbell ..
  · exact hs.armSwap ..
  · exact hs.writePenb ..
  · exact hs.writeMotEnb ..
  · exact hs.armSwap ..
  · exact hs.clearSensors _
  · exact hs.writeScmEnb _
  · exact hs.writeErase _
  · exact .ite (hs.setReg ..) (hs.wign ..)
  · exact hs.writeArm _
  · exact hs.clearFaults ..
  · exact hs.newChallenge _
  · exact hs.writeSeq ..

theorem Sound.regWrite {s0 s : State} (hs : Sound s0 s) (hp : Fin 2) (off : Nat) (r : RegRow) (v : Word) : Sound s0 (s.regWrite hp off r v) := by
  unfold State.regWrite
  split
  · exact hs
  · exact hs.loadCtr ..
  · exact hs.writeSem ..
  · exact hs.selectMbx ..
  · refine .ite hs ?_
    split
    · exact hs.act _ _ _ _ ‹_›
    · exact hs.storeReg ..

theorem Sound.wakeWindow {s0 s : State} (hs : Sound s0 s) (off : Nat) : Sound s0 (s.wakeWindow off) := by
  unfold State.wakeWindow
  repeat' with_reducible first | exact hs | apply Sound.ungate | apply Sound.ite | refine Sound.put ?_ rfl rfl rfl rfl rfl rfl

theorem Sound.performWrite {s0 s : State} (hs : Sound s0 s) (hp : Fin 2) (off : Nat) (be : BitVec 4) (v : Word) :
    Sound s0 (s.performWrite hp off be v) := by
  unfold State.performWrite
  repeat' first
    | with_reducible exact hs | with_reducible apply Sound.accErr | with_reducible apply Sound.bump | with_reducible apply Sound.wakeWindow
    | with_reducible apply Sound.regWrite | split

theorem Sound.stallWrite {s0 s : State} (hs : Sound s0 s) (hp : Fin 2) (off : Nat) (be : BitVec 4) (v : Word) :
    Sound s0 (s.stallWrite hp off be v) := by
  unfold State.stallWrite
  repeat' with_reducible first | exact hs | apply Sound.modHost

theorem Sound.hostWrite {s0 s : State} (hs : Sound s0 s) (hp : Fin 2) (off : Nat) (be : BitVec 4) (v : Word) :
    Sound s0 (s.hostWrite hp off be v) := by
  unfold State.hostWrite
  dsimp -failIfUnchanged only
  repeat' with_reducible first | exact hs | apply Sound.wakeRequest | apply Sound.stallWrite | apply Sound.performWrite | apply Sound.ite

theorem Sound.lateWrites {s0 s : State} (hs : Sound s0 s) (hp : Fin 2) : Sound s0 (s.lateWrites hp) := by
  unfold State.lateWrites
  repeat' with_reducible first | assumption | apply Sound.modHost | apply Sound.performWrite | refine Sound.each (fun _ _ _ => ?_) _ _ ?_

theorem Sound.hostWrites {s0 s : State} (hs : Sound s0 s) (hp : Fin 2) (off : Nat) (l : List (BitVec 4 × Word)) :
    Sound s0 (s.hostWrites hp off l) := by
  unfold State.hostWrites
  repeat' with_reducible first | assumption | apply Sound.hostWrite | refine Sound.each (fun _ _ _ => ?_) _ _ ?_

theorem Sound.scanMismatch {s0 s : State} (hs : Sound s0 s) (off : Nat) : Sound s0 (s.scanMismatch off) := by
  unfold State.scanMismatch
  dsimp -failIfUnchanged only
  repeat' with_reducible first | exact hs | apply Sound.deviceFault | refine Sound.put ?_ rfl rfl rfl rfl rfl rfl

/-! ## Machine/Steps.lean -/

theorem stampOutputs_mems (k : Nat) (x : Cell) : (stampOutputs k x).thatch = x.thatch ∧ (stampOutputs k x).cwm = x.cwm := by
  unfold stampOutputs; exact ⟨rfl, rfl⟩

theorem Cell.joined_stored (job : List (Fin 256)) (k : Nat) (c : Fin 256) (x : Cell) (h : x.stored = true) : (joinCell job k c x).stored = true := h

theorem Sound.joinCells {s0 s : State} (hs : Sound s0 s) (k : Nat) : Sound s0 (s.joinCells k) := by
  unfold State.joinCells
  refine Sound.putCells hs rfl rfl rfl rfl rfl rfl fun h => ?_
  intro x m
  rw [Vector.toList_ofFn, List.mem_ofFn] at m
  obtain ⟨c, rfl⟩ := m
  exact Cell.joined_stored _ _ _ _ (h _ (by simp [State.cell]))

theorem Sound.firstAllowances {s0 s : State} (hs : Sound s0 s) (old : Nat) : Sound s0 (s.firstAllowances old) := by
  unfold State.firstAllowances
  dsimp -failIfUnchanged only
  repeat' with_reducible first | assumption | apply Sound.modClutch | refine Sound.each (fun _ _ _ => ?_) _ _ ?_

theorem Sound.nextAllowances {s0 s : State} (hs : Sound s0 s) (k d : Nat) : Sound s0 (s.nextAllowances k d) := by
  unfold State.nextAllowances
  repeat' with_reducible first | assumption | apply Sound.modClutch | refine Sound.each (fun _ _ _ => ?_) _ _ ?_

theorem Sound.governClutch {s0 s : State} (hs : Sound s0 s) (k : Nat) (c : Fin 16) : Sound s0 (s.governClutch k c) := by
  unfold State.governClutch
  dsimp -failIfUnchanged only
  repeat' with_reducible first | exact hs | apply Sound.setClutch | apply Sound.bump | apply Sound.ite

theorem Sound.closeLedger {s0 s : State} (hs : Sound s0 s) (k : Nat) (d : RidgeInputs) : Sound s0 (s.closeLedger k d) := by
  unfold State.closeLedger
  dsimp -failIfUnchanged only
  repeat' with_reducible first
    | assumption | apply Sound.bump | apply Sound.addTotal | apply Sound.governClutch | refine Sound.each (fun _ _ _ => ?_) _ _ ?_

theorem Sound.clearSurfaces {s0 s : State} (hs : Sound s0 s) (c : Fin 256) : Sound s0 (s.clearSurfaces c) :=
  .ite ((hs.visitLines ..).modCell' _ _ fun _ => ⟨rfl, rfl⟩) hs

theorem Sound.finishSwap {s0 s : State} (hs : Sound s0 s) (k : Nat) : Sound s0 (s.finishSwap k) := by
  unfold State.finishSwap
  dsimp -failIfUnchanged only
  repeat' with_reducible first | exact hs | apply Sound.completeAll | apply Sound.ite | refine Sound.put ?_ rfl rfl rfl rfl rfl rfl

theorem Sound.openFirst {s0 s : State} (hs : Sound s0 s) (k : Nat) (ups : CellUpsets) : Sound s0 (s.openFirst k ups) := by
  unfold State.openFirst
  refine Sound.releaseHeld (Sound.goOnCounting (Sound.finishSwap (Sound.firstAllowances (Sound.enterRecovery ?_) _) _) _)
  suffices h3 : _ from Sound.ite (Sound.each (fun _ _ h => Sound.clearSurfaces h _) _ _ (Sound.meetAll h3 _)) h3
  exact Sound.putCells (Sound.openScene (Sound.joinCells (hs.stepsOpen _ rfl) _) _) rfl rfl rfl rfl rfl rfl (stored_map' _ (stampOutputs_mems k))

theorem Sound.dueSwaps {s0 s : State} (hs : Sound s0 s) (k : Nat) : Sound s0 (s.dueSwaps k) := by
  unfold State.dueSwaps
  dsimp -failIfUnchanged only
  repeat' with_reducible first | exact hs | apply Sound.swapInk | apply Sound.swapFus | apply Sound.ite | refine Sound.put ?_ rfl rfl rfl rfl rfl rfl

theorem Sound.wakeClutches {s0 s : State} (hs : Sound s0 s) (k : Nat) : Sound s0 (s.wakeClutches k) := by
  unfold State.wakeClutches
  repeat' with_reducible first | assumption | apply Sound.ungate | refine Sound.each (fun _ _ _ => ?_) _ _ ?_

theorem Sound.countDue {s0 s : State} (hs : Sound s0 s) : Sound s0 (s.countDue) := by
  unfold State.countDue
  dsimp -failIfUnchanged only
  repeat' with_reducible first | exact hs | apply Sound.goOnCounting | apply Sound.countWait | apply Sound.ite

theorem Sound.becomeDue {s0 s : State} (hs : Sound s0 s) (hr : s.step.running = true) : Sound s0 s.becomeDue := by
  unfold State.becomeDue
  suffices h2 : _ from Sound.ite (Sound.stopIntake h2) (Sound.releaseHeld h2)
  refine Sound.countDue (Sound.wakeClutches (Sound.dueSwaps ?_ _) _)
  exact Sound.putCells (hs.stepsOpen { s.step with due := true } hr) rfl rfl rfl rfl rfl rfl (stored_map' _ fun _ => ⟨rfl, rfl⟩)

theorem Sound.latch {s0 s : State} (hs : Sound s0 s) (k : Nat) : Sound s0 (s.latch k) := by
  unfold State.latch
  refine Sound.put ?_ rfl rfl rfl rfl rfl rfl
  exact hs.updStores rfl rfl rfl rfl rfl id id (fun _ => rfl) fun _ k => k

theorem Sound.countOn {s0 s : State} (hs : Sound s0 s) : Sound s0 (s.countOn) := by
  unfold State.countOn
  repeat' with_reducible first | assumption | apply Sound.goOnCounting | refine Sound.each (fun _ _ _ => ?_) _ _ ?_

theorem Sound.missReductions {s0 s : State} (hs : Sound s0 s) (k : Nat) : Sound s0 (s.missReductions k) := by
  unfold State.missReductions
  repeat' first
    | with_reducible assumption | with_reducible apply Sound.deliverReduction | with_reducible refine Sound.each (fun _ _ _ => ?_) _ _ ?_ | split

theorem Sound.portReturns {s0 s : State} (hs : Sound s0 s) (p : Fin 16) : Sound s0 (s.portReturns p) := by
  unfold State.portReturns
  repeat' with_reducible first | exact hs | apply Sound.modPort | apply Sound.enterRecovery | apply Sound.ite

theorem Sound.closePorts {s0 s : State} (hs : Sound s0 s) : Sound s0 s.closePorts := by
  unfold State.closePorts
  extract_lets s1
  have h1 : Sound s0 s1 := Sound.each (fun _ _ h => h.portReturns _) _ _ hs
  exact Sound.horizonMoved (h1.putCells rfl rfl rfl rfl rfl rfl (stored_map' _ fun _ => ⟨rfl, rfl⟩))

theorem Sound.oweAssociation {s0 s : State} (hs : Sound s0 s) (k : Nat) : Sound s0 (s.oweAssociation k) := by
  unfold State.oweAssociation
  dsimp -failIfUnchanged only
  repeat' with_reducible first | exact hs | apply Sound.bump | apply Sound.ite | refine Sound.put ?_ rfl rfl rfl rfl rfl rfl

theorem Sound.closeFusion' {s0 s : State} (hs : Sound s0 s) (k : Nat) (d : RidgeInputs) : Sound s0 (s.closeFusion' k d) :=
  ((hs.fusionRead _).reservedRead _).closeFusion ..

theorem Sound.releaseRecords {s0 s : State} (hs : Sound s0 s) (k : Nat) (d : RidgeInputs) : Sound s0 (s.releaseRecords k d) := by
  unfold State.releaseRecords
  repeat' with_reducible first | exact hs | apply Sound.writeStaged | apply Sound.closeFusion' | apply Sound.closeScene | apply Sound.takeSnapshots

theorem Sound.reachE1 {s0 s : State} (hs : Sound s0 s) : Sound s0 (s.reachE1) := by
  unfold State.reachE1
  dsimp -failIfUnchanged only
  repeat' with_reducible first | exact hs | apply Sound.stopIntake | apply Sound.ite | refine Sound.put ?_ rfl rfl rfl rfl rfl rfl

theorem Sound.swapAtRidge {s0 s : State} (hs : Sound s0 s) (d : RidgeInputs) : Sound s0 (s.swapAtRidge d) := by
  unfold State.swapAtRidge
  dsimp -failIfUnchanged only
  repeat' first
    | with_reducible exact hs | with_reducible apply Sound.commit | with_reducible apply Sound.swapSlots | with_reducible apply Sound.openLoaded
    | with_reducible apply Sound.startAll | split | with_reducible refine Sound.put ?_ rfl rfl rfl rfl rfl rfl

theorem Sound.stopSteps {s0 s : State} (hs : Sound s0 s) (k : Nat) (halt swap : Bool) (d : RidgeInputs) : Sound s0 (s.stopSteps k halt swap d) := by
  unfold State.stopSteps
  refine Sound.releaseHeld ?_
  suffices h3 : _ from Sound.ite (Sound.swapAtRidge h3 _) h3
  refine Sound.completeAll ?_ ..
  suffices h1 : _ from Sound.ite (Sound.haltAll h1) h1
  exact Sound.stepsEnd hs _ _ rfl

theorem Sound.openNext {s0 s : State} (hs : Sound s0 s) (k : Nat) : Sound s0 (s.openNext k) := by
  unfold State.openNext
  dsimp -failIfUnchanged only
  repeat' with_reducible first | exact hs | apply Sound.joinCells | apply Sound.goOnCounting | apply Sound.releaseHeld | apply Sound.ite

/-- The next step opens, or none does and the zone pins are low. -/
theorem Sound.stepsGo {s0 s : State} (hs : Sound s0 s) (st : StepUnit) (last : Bool) (hd : st.due = false) (hr : st.running = !last) :
    Sound s0 { (if last then s.dropZones else s) with step := st } :=
  match last with
  | true => hs.stepsEnd st s.mesh hd
  | false => hs.stepsOpen st hr

theorem Sound.closeUnit {s0 s : State} (hs : Sound s0 s) (k : Nat) (last : Bool) (d : RidgeInputs) : Sound s0 (s.closeUnit k last d) := by
  unfold State.closeUnit
  extract_lets s0'
  have h1 : Sound s0 s0' := (((hs.closeLedger ..).nextAllowances ..).latch _).causeGone _
  refine Sound.countOn ?_
  have h2 := h1.stepsGo { (if last then s0'.dropZones else s0').step with
    running := !last, k := k + 1, due := false, expired := 0, ridges := (if last then s0'.dropZones else s0').step.ridges + 1
    hbPend := (if last then s0'.dropZones else s0').step.hbPend + 1, closed := some (k, s.endOf k), sinceLoad := some (s.endOf k) } last rfl rfl
  exact h2.putCells rfl rfl rfl rfl rfl rfl (stored_map' _ fun _ => ⟨rfl, rfl⟩)

theorem Sound.closeRidge {s0 s : State} (hs : Sound s0 s) (d : RidgeInputs) : Sound s0 (s.closeRidge d) := by
  unfold State.closeRidge
  dsimp -failIfUnchanged only
  repeat' with_reducible first
    | exact hs | apply Sound.closeUnit | apply Sound.releasePins | apply Sound.releaseRecords | apply Sound.missReductions | apply Sound.closePorts
    | apply Sound.tickSems | apply Sound.oweAssociation | apply Sound.applyRequests | apply Sound.startSentinels | apply Sound.stopSteps
    | apply Sound.openNext | apply Sound.reachE1 | apply Sound.ite

theorem Sound.watchdogFails {s0 s : State} (hs : Sound s0 s) (c : Fin 256) : Sound s0 (s.watchdogFails c) := by
  unfold State.watchdogFails
  repeat' with_reducible first | exact hs | apply Sound.bump | apply Sound.failCell

end Sys2Proof.Machine
end

