-- ==== Sys2Proof/Laws/State.lean ====
section
/-! SUPPORT. One lemma for each field of the state and each basic update: what the update leaves alone. Access after an update. -/

namespace Sys2Proof.Machine

/-! ## `setCell` changes `cells` only -/

@[simp] theorem State.setCell_pending (s : State) (c : Fin 256) (x : Cell) : (s.setCell c x).pending = s.pending := rfl
@[simp] theorem State.setCell_free (s : State) (c : Fin 256) (x : Cell) : (s.setCell c x).free = s.free := rfl
@[simp] theorem State.setCell_hostOut (s : State) (c : Fin 256) (x : Cell) : (s.setCell c x).hostOut = s.hostOut := rfl
@[simp] theorem State.setCell_regs (s : State) (c : Fin 256) (x : Cell) : (s.setCell c x).regs = s.regs := rfl
@[simp] theorem State.setCell_par (s : State) (c : Fin 256) (x : Cell) : (s.setCell c x).par = s.par := rfl
@[simp] theorem State.setCell_cnt (s : State) (c : Fin 256) (x : Cell) : (s.setCell c x).cnt = s.cnt := rfl
@[simp] theorem State.setCell_lat (s : State) (c : Fin 256) (x : Cell) : (s.setCell c x).lat = s.lat := rfl
@[simp] theorem State.setCell_waits (s : State) (c : Fin 256) (x : Cell) : (s.setCell c x).waits = s.waits := rfl
@[simp] theorem State.setCell_latWaits (s : State) (c : Fin 256) (x : Cell) : (s.setCell c x).latWaits = s.latWaits := rfl
@[simp] theorem State.setCell_step (s : State) (c : Fin 256) (x : Cell) : (s.setCell c x).step = s.step := rfl
@[simp] theorem State.setCell_ports (s : State) (c : Fin 256) (x : Cell) : (s.setCell c x).ports = s.ports := rfl
@[simp] theorem State.setCell_lastPort (s : State) (c : Fin 256) (x : Cell) : (s.setCell c x).lastPort = s.lastPort := rfl
@[simp] theorem State.setCell_inkSwap (s : State) (c : Fin 256) (x : Cell) : (s.setCell c x).inkSwap = s.inkSwap := rfl
@[simp] theorem State.setCell_fusSwap (s : State) (c : Fin 256) (x : Cell) : (s.setCell c x).fusSwap = s.fusSwap := rfl
@[simp] theorem State.setCell_mesh (s : State) (c : Fin 256) (x : Cell) : (s.setCell c x).mesh = s.mesh := rfl
@[simp] theorem State.setCell_weights (s : State) (c : Fin 256) (x : Cell) : (s.setCell c x).weights = s.weights := rfl
@[simp] theorem State.setCell_clutches (s : State) (c : Fin 256) (x : Cell) : (s.setCell c x).clutches = s.clutches := rfl
@[simp] theorem State.setCell_motion (s : State) (c : Fin 256) (x : Cell) : (s.setCell c x).motion = s.motion := rfl
@[simp] theorem State.setCell_ego (s : State) (c : Fin 256) (x : Cell) : (s.setCell c x).ego = s.ego := rfl
@[simp] theorem State.setCell_fus (s : State) (c : Fin 256) (x : Cell) : (s.setCell c x).fus = s.fus := rfl
@[simp] theorem State.setCell_pq (s : State) (c : Fin 256) (x : Cell) : (s.setCell c x).pq = s.pq := rfl
@[simp] theorem State.setCell_pqOvr (s : State) (c : Fin 256) (x : Cell) : (s.setCell c x).pqOvr = s.pqOvr := rfl
@[simp] theorem State.setCell_trk (s : State) (c : Fin 256) (x : Cell) : (s.setCell c x).trk = s.trk := rfl
@[simp] theorem State.setCell_scm (s : State) (c : Fin 256) (x : Cell) : (s.setCell c x).scm = s.scm := rfl
@[simp] theorem State.setCell_hosts (s : State) (c : Fin 256) (x : Cell) : (s.setCell c x).hosts = s.hosts := rfl
@[simp] theorem State.setCell_sems (s : State) (c : Fin 256) (x : Cell) : (s.setCell c x).sems = s.sems := rfl
@[simp] theorem State.setCell_slots (s : State) (c : Fin 256) (x : Cell) : (s.setCell c x).slots = s.slots := rfl
@[simp] theorem State.setCell_pwr (s : State) (c : Fin 256) (x : Cell) : (s.setCell c x).pwr = s.pwr := rfl
@[simp] theorem State.setCell_led (s : State) (c : Fin 256) (x : Cell) : (s.setCell c x).led = s.led := rfl
@[simp] theorem State.setCell_saf (s : State) (c : Fin 256) (x : Cell) : (s.setCell c x).saf = s.saf := rfl
@[simp] theorem State.setCell_sec (s : State) (c : Fin 256) (x : Cell) : (s.setCell c x).sec = s.sec := rfl
@[simp] theorem State.setCell_disc (s : State) (c : Fin 256) (x : Cell) : (s.setCell c x).disc = s.disc := rfl
@[simp] theorem State.setCell_pins (s : State) (c : Fin 256) (x : Cell) : (s.setCell c x).pins = s.pins := rfl

/-! ## `modCell` changes `cells` only -/

@[simp] theorem State.modCell_pending (s : State) (c : Fin 256) (f : Cell → Cell) : (s.modCell c f).pending = s.pending := rfl
@[simp] theorem State.modCell_free (s : State) (c : Fin 256) (f : Cell → Cell) : (s.modCell c f).free = s.free := rfl
@[simp] theorem State.modCell_hostOut (s : State) (c : Fin 256) (f : Cell → Cell) : (s.modCell c f).hostOut = s.hostOut := rfl
@[simp] theorem State.modCell_regs (s : State) (c : Fin 256) (f : Cell → Cell) : (s.modCell c f).regs = s.regs := rfl
@[simp] theorem State.modCell_par (s : State) (c : Fin 256) (f : Cell → Cell) : (s.modCell c f).par = s.par := rfl
@[simp] theorem State.modCell_cnt (s : State) (c : Fin 256) (f : Cell → Cell) : (s.modCell c f).cnt = s.cnt := rfl
@[simp] theorem State.modCell_lat (s : State) (c : Fin 256) (f : Cell → Cell) : (s.modCell c f).lat = s.lat := rfl
@[simp] theorem State.modCell_waits (s : State) (c : Fin 256) (f : Cell → Cell) : (s.modCell c f).waits = s.waits := rfl
@[simp] theorem State.modCell_latWaits (s : State) (c : Fin 256) (f : Cell → Cell) : (s.modCell c f).latWaits = s.latWaits := rfl
@[simp] theorem State.modCell_step (s : State) (c : Fin 256) (f : Cell → Cell) : (s.modCell c f).step = s.step := rfl
@[simp] theorem State.modCell_ports (s : State) (c : Fin 256) (f : Cell → Cell) : (s.modCell c f).ports = s.ports := rfl
@[simp] theorem State.modCell_lastPort (s : State) (c : Fin 256) (f : Cell → Cell) : (s.modCell c f).lastPort = s.lastPort := rfl
@[simp] theorem State.modCell_inkSwap (s : State) (c : Fin 256) (f : Cell → Cell) : (s.modCell c f).inkSwap = s.inkSwap := rfl
@[simp] theorem State.modCell_fusSwap (s : State) (c : Fin 256) (f : Cell → Cell) : (s.modCell c f).fusSwap = s.fusSwap := rfl
@[simp] theorem State.modCell_mesh (s : State) (c : Fin 256) (f : Cell → Cell) : (s.modCell c f).mesh = s.mesh := rfl
@[simp] theorem State.modCell_weights (s : State) (c : Fin 256) (f : Cell → Cell) : (s.modCell c f).weights = s.weights := rfl
@[simp] theorem State.modCell_clutches (s : State) (c : Fin 256) (f : Cell → Cell) : (s.modCell c f).clutches = s.clutches := rfl
@[simp] theorem State.modCell_motion (s : State) (c : Fin 256) (f : Cell → Cell) : (s.modCell c f).motion = s.motion := rfl
@[simp] theorem State.modCell_ego (s : State) (c : Fin 256) (f : Cell → Cell) : (s.modCell c f).ego = s.ego := rfl
@[simp] theorem State.modCell_fus (s : State) (c : Fin 256) (f : Cell → Cell) : (s.modCell c f).fus = s.fus := rfl
@[simp] theorem State.modCell_pq (s : State) (c : Fin 256) (f : Cell → Cell) : (s.modCell c f).pq = s.pq := rfl
@[simp] theorem State.modCell_pqOvr (s : State) (c : Fin 256) (f : Cell → Cell) : (s.modCell c f).pqOvr = s.pqOvr := rfl
@[simp] theorem State.modCell_trk (s : State) (c : Fin 256) (f : Cell → Cell) : (s.modCell c f).trk = s.trk := rfl
@[simp] theorem State.modCell_scm (s : State) (c : Fin 256) (f : Cell → Cell) : (s.modCell c f).scm = s.scm := rfl
@[simp] theorem State.modCell_hosts (s : State) (c : Fin 256) (f : Cell → Cell) : (s.modCell c f).hosts = s.hosts := rfl
@[simp] theorem State.modCell_sems (s : State) (c : Fin 256) (f : Cell → Cell) : (s.modCell c f).sems = s.sems := rfl
@[simp] theorem State.modCell_slots (s : State) (c : Fin 256) (f : Cell → Cell) : (s.modCell c f).slots = s.slots := rfl
@[simp] theorem State.modCell_pwr (s : State) (c : Fin 256) (f : Cell → Cell) : (s.modCell c f).pwr = s.pwr := rfl
@[simp] theorem State.modCell_led (s : State) (c : Fin 256) (f : Cell → Cell) : (s.modCell c f).led = s.led := rfl
@[simp] theorem State.modCell_saf (s : State) (c : Fin 256) (f : Cell → Cell) : (s.modCell c f).saf = s.saf := rfl
@[simp] theorem State.modCell_sec (s : State) (c : Fin 256) (f : Cell → Cell) : (s.modCell c f).sec = s.sec := rfl
@[simp] theorem State.modCell_disc (s : State) (c : Fin 256) (f : Cell → Cell) : (s.modCell c f).disc = s.disc := rfl
@[simp] theorem State.modCell_pins (s : State) (c : Fin 256) (f : Cell → Cell) : (s.modCell c f).pins = s.pins := rfl

/-! ## `setPort` changes `ports` only -/

@[simp] theorem State.setPort_pending (s : State) (p : Fin 16) (x : Port) : (s.setPort p x).pending = s.pending := rfl
@[simp] theorem State.setPort_free (s : State) (p : Fin 16) (x : Port) : (s.setPort p x).free = s.free := rfl
@[simp] theorem State.setPort_hostOut (s : State) (p : Fin 16) (x : Port) : (s.setPort p x).hostOut = s.hostOut := rfl
@[simp] theorem State.setPort_regs (s : State) (p : Fin 16) (x : Port) : (s.setPort p x).regs = s.regs := rfl
@[simp] theorem State.setPort_par (s : State) (p : Fin 16) (x : Port) : (s.setPort p x).par = s.par := rfl
@[simp] theorem State.setPort_cnt (s : State) (p : Fin 16) (x : Port) : (s.setPort p x).cnt = s.cnt := rfl
@[simp] theorem State.setPort_lat (s : State) (p : Fin 16) (x : Port) : (s.setPort p x).lat = s.lat := rfl
@[simp] theorem State.setPort_waits (s : State) (p : Fin 16) (x : Port) : (s.setPort p x).waits = s.waits := rfl
@[simp] theorem State.setPort_latWaits (s : State) (p : Fin 16) (x : Port) : (s.setPort p x).latWaits = s.latWaits := rfl
@[simp] theorem State.setPort_step (s : State) (p : Fin 16) (x : Port) : (s.setPort p x).step = s.step := rfl
@[simp] theorem State.setPort_lastPort (s : State) (p : Fin 16) (x : Port) : (s.setPort p x).lastPort = s.lastPort := rfl
@[simp] theorem State.setPort_inkSwap (s : State) (p : Fin 16) (x : Port) : (s.setPort p x).inkSwap = s.inkSwap := rfl
@[simp] theorem State.setPort_fusSwap (s : State) (p : Fin 16) (x : Port) : (s.setPort p x).fusSwap = s.fusSwap := rfl
@[simp] theorem State.setPort_mesh (s : State) (p : Fin 16) (x : Port) : (s.setPort p x).mesh = s.mesh := rfl
@[simp] theorem State.setPort_cells (s : State) (p : Fin 16) (x : Port) : (s.setPort p x).cells = s.cells := rfl
@[simp] theorem State.setPort_weights (s : State) (p : Fin 16) (x : Port) : (s.setPort p x).weights = s.weights := rfl
@[simp] theorem State.setPort_clutches (s : State) (p : Fin 16) (x : Port) : (s.setPort p x).clutches = s.clutches := rfl
@[simp] theorem State.setPort_motion (s : State) (p : Fin 16) (x : Port) : (s.setPort p x).motion = s.motion := rfl
@[simp] theorem State.setPort_ego (s : State) (p : Fin 16) (x : Port) : (s.setPort p x).ego = s.ego := rfl
@[simp] theorem State.setPort_fus (s : State) (p : Fin 16) (x : Port) : (s.setPort p x).fus = s.fus := rfl
@[simp] theorem State.setPort_pq (s : State) (p : Fin 16) (x : Port) : (s.setPort p x).pq = s.pq := rfl
@[simp] theorem State.setPort_pqOvr (s : State) (p : Fin 16) (x : Port) : (s.setPort p x).pqOvr = s.pqOvr := rfl
@[simp] theorem State.setPort_trk (s : State) (p : Fin 16) (x : Port) : (s.setPort p x).trk = s.trk := rfl
@[simp] theorem State.setPort_scm (s : State) (p : Fin 16) (x : Port) : (s.setPort p x).scm = s.scm := rfl
@[simp] theorem State.setPort_hosts (s : State) (p : Fin 16) (x : Port) : (s.setPort p x).hosts = s.hosts := rfl
@[simp] theorem State.setPort_sems (s : State) (p : Fin 16) (x : Port) : (s.setPort p x).sems = s.sems := rfl
@[simp] theorem State.setPort_slots (s : State) (p : Fin 16) (x : Port) : (s.setPort p x).slots = s.slots := rfl
@[simp] theorem State.setPort_pwr (s : State) (p : Fin 16) (x : Port) : (s.setPort p x).pwr = s.pwr := rfl
@[simp] theorem State.setPort_led (s : State) (p : Fin 16) (x : Port) : (s.setPort p x).led = s.led := rfl
@[simp] theorem State.setPort_saf (s : State) (p : Fin 16) (x : Port) : (s.setPort p x).saf = s.saf := rfl
@[simp] theorem State.setPort_sec (s : State) (p : Fin 16) (x : Port) : (s.setPort p x).sec = s.sec := rfl
@[simp] theorem State.setPort_disc (s : State) (p : Fin 16) (x : Port) : (s.setPort p x).disc = s.disc := rfl
@[simp] theorem State.setPort_pins (s : State) (p : Fin 16) (x : Port) : (s.setPort p x).pins = s.pins := rfl

/-! ## `modPort` changes `ports` only -/

@[simp] theorem State.modPort_pending (s : State) (p : Fin 16) (f : Port → Port) : (s.modPort p f).pending = s.pending := rfl
@[simp] theorem State.modPort_free (s : State) (p : Fin 16) (f : Port → Port) : (s.modPort p f).free = s.free := rfl
@[simp] theorem State.modPort_hostOut (s : State) (p : Fin 16) (f : Port → Port) : (s.modPort p f).hostOut = s.hostOut := rfl
@[simp] theorem State.modPort_regs (s : State) (p : Fin 16) (f : Port → Port) : (s.modPort p f).regs = s.regs := rfl
@[simp] theorem State.modPort_par (s : State) (p : Fin 16) (f : Port → Port) : (s.modPort p f).par = s.par := rfl
@[simp] theorem State.modPort_cnt (s : State) (p : Fin 16) (f : Port → Port) : (s.modPort p f).cnt = s.cnt := rfl
@[simp] theorem State.modPort_lat (s : State) (p : Fin 16) (f : Port → Port) : (s.modPort p f).lat = s.lat := rfl
@[simp] theorem State.modPort_waits (s : State) (p : Fin 16) (f : Port → Port) : (s.modPort p f).waits = s.waits := rfl
@[simp] theorem State.modPort_latWaits (s : State) (p : Fin 16) (f : Port → Port) : (s.modPort p f).latWaits = s.latWaits := rfl
@[simp] theorem State.modPort_step (s : State) (p : Fin 16) (f : Port → Port) : (s.modPort p f).step = s.step := rfl
@[simp] theorem State.modPort_lastPort (s : State) (p : Fin 16) (f : Port → Port) : (s.modPort p f).lastPort = s.lastPort := rfl
@[simp] theorem State.modPort_inkSwap (s : State) (p : Fin 16) (f : Port → Port) : (s.modPort p f).inkSwap = s.inkSwap := rfl
@[simp] theorem State.modPort_fusSwap (s : State) (p : Fin 16) (f : Port → Port) : (s.modPort p f).fusSwap = s.fusSwap := rfl
@[simp] theorem State.modPort_mesh (s : State) (p : Fin 16) (f : Port → Port) : (s.modPort p f).mesh = s.mesh := rfl
@[simp] theorem State.modPort_cells (s : State) (p : Fin 16) (f : Port → Port) : (s.modPort p f).cells = s.cells := rfl
@[simp] theorem State.modPort_weights (s : State) (p : Fin 16) (f : Port → Port) : (s.modPort p f).weights = s.weights := rfl
@[simp] theorem State.modPort_clutches (s : State) (p : Fin 16) (f : Port → Port) : (s.modPort p f).clutches = s.clutches := rfl
@[simp] theorem State.modPort_motion (s : State) (p : Fin 16) (f : Port → Port) : (s.modPort p f).motion = s.motion := rfl
@[simp] theorem State.modPort_ego (s : State) (p : Fin 16) (f : Port → Port) : (s.modPort p f).ego = s.ego := rfl
@[simp] theorem State.modPort_fus (s : State) (p : Fin 16) (f : Port → Port) : (s.modPort p f).fus = s.fus := rfl
@[simp] theorem State.modPort_pq (s : State) (p : Fin 16) (f : Port → Port) : (s.modPort p f).pq = s.pq := rfl
@[simp] theorem State.modPort_pqOvr (s : State) (p : Fin 16) (f : Port → Port) : (s.modPort p f).pqOvr = s.pqOvr := rfl
@[simp] theorem State.modPort_trk (s : State) (p : Fin 16) (f : Port → Port) : (s.modPort p f).trk = s.trk := rfl
@[simp] theorem State.modPort_scm (s : State) (p : Fin 16) (f : Port → Port) : (s.modPort p f).scm = s.scm := rfl
@[simp] theorem State.modPort_hosts (s : State) (p : Fin 16) (f : Port → Port) : (s.modPort p f).hosts = s.hosts := rfl
@[simp] theorem State.modPort_sems (s : State) (p : Fin 16) (f : Port → Port) : (s.modPort p f).sems = s.sems := rfl
@[simp] theorem State.modPort_slots (s : State) (p : Fin 16) (f : Port → Port) : (s.modPort p f).slots = s.slots := rfl
@[simp] theorem State.modPort_pwr (s : State) (p : Fin 16) (f : Port → Port) : (s.modPort p f).pwr = s.pwr := rfl
@[simp] theorem State.modPort_led (s : State) (p : Fin 16) (f : Port → Port) : (s.modPort p f).led = s.led := rfl
@[simp] theorem State.modPort_saf (s : State) (p : Fin 16) (f : Port → Port) : (s.modPort p f).saf = s.saf := rfl
@[simp] theorem State.modPort_sec (s : State) (p : Fin 16) (f : Port → Port) : (s.modPort p f).sec = s.sec := rfl
@[simp] theorem State.modPort_disc (s : State) (p : Fin 16) (f : Port → Port) : (s.modPort p f).disc = s.disc := rfl
@[simp] theorem State.modPort_pins (s : State) (p : Fin 16) (f : Port → Port) : (s.modPort p f).pins = s.pins := rfl

/-! ## `setClutch` changes `clutches` only -/

@[simp] theorem State.setClutch_pending (s : State) (c : Fin 16) (x : Clutch) : (s.setClutch c x).pending = s.pending := rfl
@[simp] theorem State.setClutch_free (s : State) (c : Fin 16) (x : Clutch) : (s.setClutch c x).free = s.free := rfl
@[simp] theorem State.setClutch_hostOut (s : State) (c : Fin 16) (x : Clutch) : (s.setClutch c x).hostOut = s.hostOut := rfl
@[simp] theorem State.setClutch_regs (s : State) (c : Fin 16) (x : Clutch) : (s.setClutch c x).regs = s.regs := rfl
@[simp] theorem State.setClutch_par (s : State) (c : Fin 16) (x : Clutch) : (s.setClutch c x).par = s.par := rfl
@[simp] theorem State.setClutch_cnt (s : State) (c : Fin 16) (x : Clutch) : (s.setClutch c x).cnt = s.cnt := rfl
@[simp] theorem State.setClutch_lat (s : State) (c : Fin 16) (x : Clutch) : (s.setClutch c x).lat = s.lat := rfl
@[simp] theorem State.setClutch_waits (s : State) (c : Fin 16) (x : Clutch) : (s.setClutch c x).waits = s.waits := rfl
@[simp] theorem State.setClutch_latWaits (s : State) (c : Fin 16) (x : Clutch) : (s.setClutch c x).latWaits = s.latWaits := rfl
@[simp] theorem State.setClutch_step (s : State) (c : Fin 16) (x : Clutch) : (s.setClutch c x).step = s.step := rfl
@[simp] theorem State.setClutch_ports (s : State) (c : Fin 16) (x : Clutch) : (s.setClutch c x).ports = s.ports := rfl
@[simp] theorem State.setClutch_lastPort (s : State) (c : Fin 16) (x : Clutch) : (s.setClutch c x).lastPort = s.lastPort := rfl
@[simp] theorem State.setClutch_inkSwap (s : State) (c : Fin 16) (x : Clutch) : (s.setClutch c x).inkSwap = s.inkSwap := rfl
@[simp] theorem State.setClutch_fusSwap (s : State) (c : Fin 16) (x : Clutch) : (s.setClutch c x).fusSwap = s.fusSwap := rfl
@[simp] theorem State.setClutch_mesh (s : State) (c : Fin 16) (x : Clutch) : (s.setClutch c x).mesh = s.mesh := rfl
@[simp] theorem State.setClutch_cells (s : State) (c : Fin 16) (x : Clutch) : (s.setClutch c x).cells = s.cells := rfl
@[simp] theorem State.setClutch_weights (s : State) (c : Fin 16) (x : Clutch) : (s.setClutch c x).weights = s.weights := rfl
@[simp] theorem State.setClutch_motion (s : State) (c : Fin 16) (x : Clutch) : (s.setClutch c x).motion = s.motion := rfl
@[simp] theorem State.setClutch_ego (s : State) (c : Fin 16) (x : Clutch) : (s.setClutch c x).ego = s.ego := rfl
@[simp] theorem State.setClutch_fus (s : State) (c : Fin 16) (x : Clutch) : (s.setClutch c x).fus = s.fus := rfl
@[simp] theorem State.setClutch_pq (s : State) (c : Fin 16) (x : Clutch) : (s.setClutch c x).pq = s.pq := rfl
@[simp] theorem State.setClutch_pqOvr (s : State) (c : Fin 16) (x : Clutch) : (s.setClutch c x).pqOvr = s.pqOvr := rfl
@[simp] theorem State.setClutch_trk (s : State) (c : Fin 16) (x : Clutch) : (s.setClutch c x).trk = s.trk := rfl
@[simp] theorem State.setClutch_scm (s : State) (c : Fin 16) (x : Clutch) : (s.setClutch c x).scm = s.scm := rfl
@[simp] theorem State.setClutch_hosts (s : State) (c : Fin 16) (x : Clutch) : (s.setClutch c x).hosts = s.hosts := rfl
@[simp] theorem State.setClutch_sems (s : State) (c : Fin 16) (x : Clutch) : (s.setClutch c x).sems = s.sems := rfl
@[simp] theorem State.setClutch_slots (s : State) (c : Fin 16) (x : Clutch) : (s.setClutch c x).slots = s.slots := rfl
@[simp] theorem State.setClutch_pwr (s : State) (c : Fin 16) (x : Clutch) : (s.setClutch c x).pwr = s.pwr := rfl
@[simp] theorem State.setClutch_led (s : State) (c : Fin 16) (x : Clutch) : (s.setClutch c x).led = s.led := rfl
@[simp] theorem State.setClutch_saf (s : State) (c : Fin 16) (x : Clutch) : (s.setClutch c x).saf = s.saf := rfl
@[simp] theorem State.setClutch_sec (s : State) (c : Fin 16) (x : Clutch) : (s.setClutch c x).sec = s.sec := rfl
@[simp] theorem State.setClutch_disc (s : State) (c : Fin 16) (x : Clutch) : (s.setClutch c x).disc = s.disc := rfl
@[simp] theorem State.setClutch_pins (s : State) (c : Fin 16) (x : Clutch) : (s.setClutch c x).pins = s.pins := rfl

/-! ## `modClutch` changes `clutches` only -/

@[simp] theorem State.modClutch_pending (s : State) (c : Fin 16) (f : Clutch → Clutch) : (s.modClutch c f).pending = s.pending := rfl
@[simp] theorem State.modClutch_free (s : State) (c : Fin 16) (f : Clutch → Clutch) : (s.modClutch c f).free = s.free := rfl
@[simp] theorem State.modClutch_hostOut (s : State) (c : Fin 16) (f : Clutch → Clutch) : (s.modClutch c f).hostOut = s.hostOut := rfl
@[simp] theorem State.modClutch_regs (s : State) (c : Fin 16) (f : Clutch → Clutch) : (s.modClutch c f).regs = s.regs := rfl
@[simp] theorem State.modClutch_par (s : State) (c : Fin 16) (f : Clutch → Clutch) : (s.modClutch c f).par = s.par := rfl
@[simp] theorem State.modClutch_cnt (s : State) (c : Fin 16) (f : Clutch → Clutch) : (s.modClutch c f).cnt = s.cnt := rfl
@[simp] theorem State.modClutch_lat (s : State) (c : Fin 16) (f : Clutch → Clutch) : (s.modClutch c f).lat = s.lat := rfl
@[simp] theorem State.modClutch_waits (s : State) (c : Fin 16) (f : Clutch → Clutch) : (s.modClutch c f).waits = s.waits := rfl
@[simp] theorem State.modClutch_latWaits (s : State) (c : Fin 16) (f : Clutch → Clutch) : (s.modClutch c f).latWaits = s.latWaits := rfl
@[simp] theorem State.modClutch_step (s : State) (c : Fin 16) (f : Clutch → Clutch) : (s.modClutch c f).step = s.step := rfl
@[simp] theorem State.modClutch_ports (s : State) (c : Fin 16) (f : Clutch → Clutch) : (s.modClutch c f).ports = s.ports := rfl
@[simp] theorem State.modClutch_lastPort (s : State) (c : Fin 16) (f : Clutch → Clutch) : (s.modClutch c f).lastPort = s.lastPort := rfl
@[simp] theorem State.modClutch_inkSwap (s : State) (c : Fin 16) (f : Clutch → Clutch) : (s.modClutch c f).inkSwap = s.inkSwap := rfl
@[simp] theorem State.modClutch_fusSwap (s : State) (c : Fin 16) (f : Clutch → Clutch) : (s.modClutch c f).fusSwap = s.fusSwap := rfl
@[simp] theorem State.modClutch_mesh (s : State) (c : Fin 16) (f : Clutch → Clutch) : (s.modClutch c f).mesh = s.mesh := rfl
@[simp] theorem State.modClutch_cells (s : State) (c : Fin 16) (f : Clutch → Clutch) : (s.modClutch c f).cells = s.cells := rfl
@[simp] theorem State.modClutch_weights (s : State) (c : Fin 16) (f : Clutch → Clutch) : (s.modClutch c f).weights = s.weights := rfl
@[simp] theorem State.modClutch_motion (s : State) (c : Fin 16) (f : Clutch → Clutch) : (s.modClutch c f).motion = s.motion := rfl
@[simp] theorem State.modClutch_ego (s : State) (c : Fin 16) (f : Clutch → Clutch) : (s.modClutch c f).ego = s.ego := rfl
@[simp] theorem State.modClutch_fus (s : State) (c : Fin 16) (f : Clutch → Clutch) : (s.modClutch c f).fus = s.fus := rfl
@[simp] theorem State.modClutch_pq (s : State) (c : Fin 16) (f : Clutch → Clutch) : (s.modClutch c f).pq = s.pq := rfl
@[simp] theorem State.modClutch_pqOvr (s : State) (c : Fin 16) (f : Clutch → Clutch) : (s.modClutch c f).pqOvr = s.pqOvr := rfl
@[simp] theorem State.modClutch_trk (s : State) (c : Fin 16) (f : Clutch → Clutch) : (s.modClutch c f).trk = s.trk := rfl
@[simp] theorem State.modClutch_scm (s : State) (c : Fin 16) (f : Clutch → Clutch) : (s.modClutch c f).scm = s.scm := rfl
@[simp] theorem State.modClutch_hosts (s : State) (c : Fin 16) (f : Clutch → Clutch) : (s.modClutch c f).hosts = s.hosts := rfl
@[simp] theorem State.modClutch_sems (s : State) (c : Fin 16) (f : Clutch → Clutch) : (s.modClutch c f).sems = s.sems := rfl
@[simp] theorem State.modClutch_slots (s : State) (c : Fin 16) (f : Clutch → Clutch) : (s.modClutch c f).slots = s.slots := rfl
@[simp] theorem State.modClutch_pwr (s : State) (c : Fin 16) (f : Clutch → Clutch) : (s.modClutch c f).pwr = s.pwr := rfl
@[simp] theorem State.modClutch_led (s : State) (c : Fin 16) (f : Clutch → Clutch) : (s.modClutch c f).led = s.led := rfl
@[simp] theorem State.modClutch_saf (s : State) (c : Fin 16) (f : Clutch → Clutch) : (s.modClutch c f).saf = s.saf := rfl
@[simp] theorem State.modClutch_sec (s : State) (c : Fin 16) (f : Clutch → Clutch) : (s.modClutch c f).sec = s.sec := rfl
@[simp] theorem State.modClutch_disc (s : State) (c : Fin 16) (f : Clutch → Clutch) : (s.modClutch c f).disc = s.disc := rfl
@[simp] theorem State.modClutch_pins (s : State) (c : Fin 16) (f : Clutch → Clutch) : (s.modClutch c f).pins = s.pins := rfl

/-! ## `setHost` changes `hosts` only -/

@[simp] theorem State.setHost_pending (s : State) (h : Fin 2) (x : HostPort) : (s.setHost h x).pending = s.pending := rfl
@[simp] theorem State.setHost_free (s : State) (h : Fin 2) (x : HostPort) : (s.setHost h x).free = s.free := rfl
@[simp] theorem State.setHost_hostOut (s : State) (h : Fin 2) (x : HostPort) : (s.setHost h x).hostOut = s.hostOut := rfl
@[simp] theorem State.setHost_regs (s : State) (h : Fin 2) (x : HostPort) : (s.setHost h x).regs = s.regs := rfl
@[simp] theorem State.setHost_par (s : State) (h : Fin 2) (x : HostPort) : (s.setHost h x).par = s.par := rfl
@[simp] theorem State.setHost_cnt (s : State) (h : Fin 2) (x : HostPort) : (s.setHost h x).cnt = s.cnt := rfl
@[simp] theorem State.setHost_lat (s : State) (h : Fin 2) (x : HostPort) : (s.setHost h x).lat = s.lat := rfl
@[simp] theorem State.setHost_waits (s : State) (h : Fin 2) (x : HostPort) : (s.setHost h x).waits = s.waits := rfl
@[simp] theorem State.setHost_latWaits (s : State) (h : Fin 2) (x : HostPort) : (s.setHost h x).latWaits = s.latWaits := rfl
@[simp] theorem State.setHost_step (s : State) (h : Fin 2) (x : HostPort) : (s.setHost h x).step = s.step := rfl
@[simp] theorem State.setHost_ports (s : State) (h : Fin 2) (x : HostPort) : (s.setHost h x).ports = s.ports := rfl
@[simp] theorem State.setHost_lastPort (s : State) (h : Fin 2) (x : HostPort) : (s.setHost h x).lastPort = s.lastPort := rfl
@[simp] theorem State.setHost_inkSwap (s : State) (h : Fin 2) (x : HostPort) : (s.setHost h x).inkSwap = s.inkSwap := rfl
@[simp] theorem State.setHost_fusSwap (s : State) (h : Fin 2) (x : HostPort) : (s.setHost h x).fusSwap = s.fusSwap := rfl
@[simp] theorem State.setHost_mesh (s : State) (h : Fin 2) (x : HostPort) : (s.setHost h x).mesh = s.mesh := rfl
@[simp] theorem State.setHost_cells (s : State) (h : Fin 2) (x : HostPort) : (s.setHost h x).cells = s.cells := rfl
@[simp] theorem State.setHost_weights (s : State) (h : Fin 2) (x : HostPort) : (s.setHost h x).weights = s.weights := rfl
@[simp] theorem State.setHost_clutches (s : State) (h : Fin 2) (x : HostPort) : (s.setHost h x).clutches = s.clutches := rfl
@[simp] theorem State.setHost_motion (s : State) (h : Fin 2) (x : HostPort) : (s.setHost h x).motion = s.motion := rfl
@[simp] theorem State.setHost_ego (s : State) (h : Fin 2) (x : HostPort) : (s.setHost h x).ego = s.ego := rfl
@[simp] theorem State.setHost_fus (s : State) (h : Fin 2) (x : HostPort) : (s.setHost h x).fus = s.fus := rfl
@[simp] theorem State.setHost_pq (s : State) (h : Fin 2) (x : HostPort) : (s.setHost h x).pq = s.pq := rfl
@[simp] theorem State.setHost_pqOvr (s : State) (h : Fin 2) (x : HostPort) : (s.setHost h x).pqOvr = s.pqOvr := rfl
@[simp] theorem State.setHost_trk (s : State) (h : Fin 2) (x : HostPort) : (s.setHost h x).trk = s.trk := rfl
@[simp] theorem State.setHost_scm (s : State) (h : Fin 2) (x : HostPort) : (s.setHost h x).scm = s.scm := rfl
@[simp] theorem State.setHost_sems (s : State) (h : Fin 2) (x : HostPort) : (s.setHost h x).sems = s.sems := rfl
@[simp] theorem State.setHost_slots (s : State) (h : Fin 2) (x : HostPort) : (s.setHost h x).slots = s.slots := rfl
@[simp] theorem State.setHost_pwr (s : State) (h : Fin 2) (x : HostPort) : (s.setHost h x).pwr = s.pwr := rfl
@[simp] theorem State.setHost_led (s : State) (h : Fin 2) (x : HostPort) : (s.setHost h x).led = s.led := rfl
@[simp] theorem State.setHost_saf (s : State) (h : Fin 2) (x : HostPort) : (s.setHost h x).saf = s.saf := rfl
@[simp] theorem State.setHost_sec (s : State) (h : Fin 2) (x : HostPort) : (s.setHost h x).sec = s.sec := rfl
@[simp] theorem State.setHost_disc (s : State) (h : Fin 2) (x : HostPort) : (s.setHost h x).disc = s.disc := rfl
@[simp] theorem State.setHost_pins (s : State) (h : Fin 2) (x : HostPort) : (s.setHost h x).pins = s.pins := rfl

/-! ## `modHost` changes `hosts` only -/

@[simp] theorem State.modHost_pending (s : State) (h : Fin 2) (f : HostPort → HostPort) : (s.modHost h f).pending = s.pending := rfl
@[simp] theorem State.modHost_free (s : State) (h : Fin 2) (f : HostPort → HostPort) : (s.modHost h f).free = s.free := rfl
@[simp] theorem State.modHost_hostOut (s : State) (h : Fin 2) (f : HostPort → HostPort) : (s.modHost h f).hostOut = s.hostOut := rfl
@[simp] theorem State.modHost_regs (s : State) (h : Fin 2) (f : HostPort → HostPort) : (s.modHost h f).regs = s.regs := rfl
@[simp] theorem State.modHost_par (s : State) (h : Fin 2) (f : HostPort → HostPort) : (s.modHost h f).par = s.par := rfl
@[simp] theorem State.modHost_cnt (s : State) (h : Fin 2) (f : HostPort → HostPort) : (s.modHost h f).cnt = s.cnt := rfl
@[simp] theorem State.modHost_lat (s : State) (h : Fin 2) (f : HostPort → HostPort) : (s.modHost h f).lat = s.lat := rfl
@[simp] theorem State.modHost_waits (s : State) (h : Fin 2) (f : HostPort → HostPort) : (s.modHost h f).waits = s.waits := rfl
@[simp] theorem State.modHost_latWaits (s : State) (h : Fin 2) (f : HostPort → HostPort) : (s.modHost h f).latWaits = s.latWaits := rfl
@[simp] theorem State.modHost_step (s : State) (h : Fin 2) (f : HostPort → HostPort) : (s.modHost h f).step = s.step := rfl
@[simp] theorem State.modHost_ports (s : State) (h : Fin 2) (f : HostPort → HostPort) : (s.modHost h f).ports = s.ports := rfl
@[simp] theorem State.modHost_lastPort (s : State) (h : Fin 2) (f : HostPort → HostPort) : (s.modHost h f).lastPort = s.lastPort := rfl
@[simp] theorem State.modHost_inkSwap (s : State) (h : Fin 2) (f : HostPort → HostPort) : (s.modHost h f).inkSwap = s.inkSwap := rfl
@[simp] theorem State.modHost_fusSwap (s : State) (h : Fin 2) (f : HostPort → HostPort) : (s.modHost h f).fusSwap = s.fusSwap := rfl
@[simp] theorem State.modHost_mesh (s : State) (h : Fin 2) (f : HostPort → HostPort) : (s.modHost h f).mesh = s.mesh := rfl
@[simp] theorem State.modHost_cells (s : State) (h : Fin 2) (f : HostPort → HostPort) : (s.modHost h f).cells = s.cells := rfl
@[simp] theorem State.modHost_weights (s : State) (h : Fin 2) (f : HostPort → HostPort) : (s.modHost h f).weights = s.weights := rfl
@[simp] theorem State.modHost_clutches (s : State) (h : Fin 2) (f : HostPort → HostPort) : (s.modHost h f).clutches = s.clutches := rfl
@[simp] theorem State.modHost_motion (s : State) (h : Fin 2) (f : HostPort → HostPort) : (s.modHost h f).motion = s.motion := rfl
@[simp] theorem State.modHost_ego (s : State) (h : Fin 2) (f : HostPort → HostPort) : (s.modHost h f).ego = s.ego := rfl
@[simp] theorem State.modHost_fus (s : State) (h : Fin 2) (f : HostPort → HostPort) : (s.modHost h f).fus = s.fus := rfl
@[simp] theorem State.modHost_pq (s : State) (h : Fin 2) (f : HostPort → HostPort) : (s.modHost h f).pq = s.pq := rfl
@[simp] theorem State.modHost_pqOvr (s : State) (h : Fin 2) (f : HostPort → HostPort) : (s.modHost h f).pqOvr = s.pqOvr := rfl
@[simp] theorem State.modHost_trk (s : State) (h : Fin 2) (f : HostPort → HostPort) : (s.modHost h f).trk = s.trk := rfl
@[simp] theorem State.modHost_scm (s : State) (h : Fin 2) (f : HostPort → HostPort) : (s.modHost h f).scm = s.scm := rfl
@[simp] theorem State.modHost_sems (s : State) (h : Fin 2) (f : HostPort → HostPort) : (s.modHost h f).sems = s.sems := rfl
@[simp] theorem State.modHost_slots (s : State) (h : Fin 2) (f : HostPort → HostPort) : (s.modHost h f).slots = s.slots := rfl
@[simp] theorem State.modHost_pwr (s : State) (h : Fin 2) (f : HostPort → HostPort) : (s.modHost h f).pwr = s.pwr := rfl
@[simp] theorem State.modHost_led (s : State) (h : Fin 2) (f : HostPort → HostPort) : (s.modHost h f).led = s.led := rfl
@[simp] theorem State.modHost_saf (s : State) (h : Fin 2) (f : HostPort → HostPort) : (s.modHost h f).saf = s.saf := rfl
@[simp] theorem State.modHost_sec (s : State) (h : Fin 2) (f : HostPort → HostPort) : (s.modHost h f).sec = s.sec := rfl
@[simp] theorem State.modHost_disc (s : State) (h : Fin 2) (f : HostPort → HostPort) : (s.modHost h f).disc = s.disc := rfl
@[simp] theorem State.modHost_pins (s : State) (h : Fin 2) (f : HostPort → HostPort) : (s.modHost h f).pins = s.pins := rfl

/-! ## `setSem` changes `sems` only -/

@[simp] theorem State.setSem_pending (s : State) (n : Fin 64) (x : Sem) : (s.setSem n x).pending = s.pending := rfl
@[simp] theorem State.setSem_free (s : State) (n : Fin 64) (x : Sem) : (s.setSem n x).free = s.free := rfl
@[simp] theorem State.setSem_hostOut (s : State) (n : Fin 64) (x : Sem) : (s.setSem n x).hostOut = s.hostOut := rfl
@[simp] theorem State.setSem_regs (s : State) (n : Fin 64) (x : Sem) : (s.setSem n x).regs = s.regs := rfl
@[simp] theorem State.setSem_par (s : State) (n : Fin 64) (x : Sem) : (s.setSem n x).par = s.par := rfl
@[simp] theorem State.setSem_cnt (s : State) (n : Fin 64) (x : Sem) : (s.setSem n x).cnt = s.cnt := rfl
@[simp] theorem State.setSem_lat (s : State) (n : Fin 64) (x : Sem) : (s.setSem n x).lat = s.lat := rfl
@[simp] theorem State.setSem_waits (s : State) (n : Fin 64) (x : Sem) : (s.setSem n x).waits = s.waits := rfl
@[simp] theorem State.setSem_latWaits (s : State) (n : Fin 64) (x : Sem) : (s.setSem n x).latWaits = s.latWaits := rfl
@[simp] theorem State.setSem_step (s : State) (n : Fin 64) (x : Sem) : (s.setSem n x).step = s.step := rfl
@[simp] theorem State.setSem_ports (s : State) (n : Fin 64) (x : Sem) : (s.setSem n x).ports = s.ports := rfl
@[simp] theorem State.setSem_lastPort (s : State) (n : Fin 64) (x : Sem) : (s.setSem n x).lastPort = s.lastPort := rfl
@[simp] theorem State.setSem_inkSwap (s : State) (n : Fin 64) (x : Sem) : (s.setSem n x).inkSwap = s.inkSwap := rfl
@[simp] theorem State.setSem_fusSwap (s : State) (n : Fin 64) (x : Sem) : (s.setSem n x).fusSwap = s.fusSwap := rfl
@[simp] theorem State.setSem_mesh (s : State) (n : Fin 64) (x : Sem) : (s.setSem n x).mesh = s.mesh := rfl
@[simp] theorem State.setSem_cells (s : State) (n : Fin 64) (x : Sem) : (s.setSem n x).cells = s.cells := rfl
@[simp] theorem State.setSem_weights (s : State) (n : Fin 64) (x : Sem) : (s.setSem n x).weights = s.weights := rfl
@[simp] theorem State.setSem_clutches (s : State) (n : Fin 64) (x : Sem) : (s.setSem n x).clutches = s.clutches := rfl
@[simp] theorem State.setSem_motion (s : State) (n : Fin 64) (x : Sem) : (s.setSem n x).motion = s.motion := rfl
@[simp] theorem State.setSem_ego (s : State) (n : Fin 64) (x : Sem) : (s.setSem n x).ego = s.ego := rfl
@[simp] theorem State.setSem_fus (s : State) (n : Fin 64) (x : Sem) : (s.setSem n x).fus = s.fus := rfl
@[simp] theorem State.setSem_pq (s : State) (n : Fin 64) (x : Sem) : (s.setSem n x).pq = s.pq := rfl
@[simp] theorem State.setSem_pqOvr (s : State) (n : Fin 64) (x : Sem) : (s.setSem n x).pqOvr = s.pqOvr := rfl
@[simp] theorem State.setSem_trk (s : State) (n : Fin 64) (x : Sem) : (s.setSem n x).trk = s.trk := rfl
@[simp] theorem State.setSem_scm (s : State) (n : Fin 64) (x : Sem) : (s.setSem n x).scm = s.scm := rfl
@[simp] theorem State.setSem_hosts (s : State) (n : Fin 64) (x : Sem) : (s.setSem n x).hosts = s.hosts := rfl
@[simp] theorem State.setSem_slots (s : State) (n : Fin 64) (x : Sem) : (s.setSem n x).slots = s.slots := rfl
@[simp] theorem State.setSem_pwr (s : State) (n : Fin 64) (x : Sem) : (s.setSem n x).pwr = s.pwr := rfl
@[simp] theorem State.setSem_led (s : State) (n : Fin 64) (x : Sem) : (s.setSem n x).led = s.led := rfl
@[simp] theorem State.setSem_saf (s : State) (n : Fin 64) (x : Sem) : (s.setSem n x).saf = s.saf := rfl
@[simp] theorem State.setSem_sec (s : State) (n : Fin 64) (x : Sem) : (s.setSem n x).sec = s.sec := rfl
@[simp] theorem State.setSem_disc (s : State) (n : Fin 64) (x : Sem) : (s.setSem n x).disc = s.disc := rfl
@[simp] theorem State.setSem_pins (s : State) (n : Fin 64) (x : Sem) : (s.setSem n x).pins = s.pins := rfl

/-! ## `setMot` changes `motion` only -/

@[simp] theorem State.setMot_pending (s : State) (m : Fin 4) (x : MotionPort) : (s.setMot m x).pending = s.pending := rfl
@[simp] theorem State.setMot_free (s : State) (m : Fin 4) (x : MotionPort) : (s.setMot m x).free = s.free := rfl
@[simp] theorem State.setMot_hostOut (s : State) (m : Fin 4) (x : MotionPort) : (s.setMot m x).hostOut = s.hostOut := rfl
@[simp] theorem State.setMot_regs (s : State) (m : Fin 4) (x : MotionPort) : (s.setMot m x).regs = s.regs := rfl
@[simp] theorem State.setMot_par (s : State) (m : Fin 4) (x : MotionPort) : (s.setMot m x).par = s.par := rfl
@[simp] theorem State.setMot_cnt (s : State) (m : Fin 4) (x : MotionPort) : (s.setMot m x).cnt = s.cnt := rfl
@[simp] theorem State.setMot_lat (s : State) (m : Fin 4) (x : MotionPort) : (s.setMot m x).lat = s.lat := rfl
@[simp] theorem State.setMot_waits (s : State) (m : Fin 4) (x : MotionPort) : (s.setMot m x).waits = s.waits := rfl
@[simp] theorem State.setMot_latWaits (s : State) (m : Fin 4) (x : MotionPort) : (s.setMot m x).latWaits = s.latWaits := rfl
@[simp] theorem State.setMot_step (s : State) (m : Fin 4) (x : MotionPort) : (s.setMot m x).step = s.step := rfl
@[simp] theorem State.setMot_ports (s : State) (m : Fin 4) (x : MotionPort) : (s.setMot m x).ports = s.ports := rfl
@[simp] theorem State.setMot_lastPort (s : State) (m : Fin 4) (x : MotionPort) : (s.setMot m x).lastPort = s.lastPort := rfl
@[simp] theorem State.setMot_inkSwap (s : State) (m : Fin 4) (x : MotionPort) : (s.setMot m x).inkSwap = s.inkSwap := rfl
@[simp] theorem State.setMot_fusSwap (s : State) (m : Fin 4) (x : MotionPort) : (s.setMot m x).fusSwap = s.fusSwap := rfl
@[simp] theorem State.setMot_mesh (s : State) (m : Fin 4) (x : MotionPort) : (s.setMot m x).mesh = s.mesh := rfl
@[simp] theorem State.setMot_cells (s : State) (m : Fin 4) (x : MotionPort) : (s.setMot m x).cells = s.cells := rfl
@[simp] theorem State.setMot_weights (s : State) (m : Fin 4) (x : MotionPort) : (s.setMot m x).weights = s.weights := rfl
@[simp] theorem State.setMot_clutches (s : State) (m : Fin 4) (x : MotionPort) : (s.setMot m x).clutches = s.clutches := rfl
@[simp] theorem State.setMot_ego (s : State) (m : Fin 4) (x : MotionPort) : (s.setMot m x).ego = s.ego := rfl
@[simp] theorem State.setMot_fus (s : State) (m : Fin 4) (x : MotionPort) : (s.setMot m x).fus = s.fus := rfl
@[simp] theorem State.setMot_pq (s : State) (m : Fin 4) (x : MotionPort) : (s.setMot m x).pq = s.pq := rfl
@[simp] theorem State.setMot_pqOvr (s : State) (m : Fin 4) (x : MotionPort) : (s.setMot m x).pqOvr = s.pqOvr := rfl
@[simp] theorem State.setMot_trk (s : State) (m : Fin 4) (x : MotionPort) : (s.setMot m x).trk = s.trk := rfl
@[simp] theorem State.setMot_scm (s : State) (m : Fin 4) (x : MotionPort) : (s.setMot m x).scm = s.scm := rfl
@[simp] theorem State.setMot_hosts (s : State) (m : Fin 4) (x : MotionPort) : (s.setMot m x).hosts = s.hosts := rfl
@[simp] theorem State.setMot_sems (s : State) (m : Fin 4) (x : MotionPort) : (s.setMot m x).sems = s.sems := rfl
@[simp] theorem State.setMot_slots (s : State) (m : Fin 4) (x : MotionPort) : (s.setMot m x).slots = s.slots := rfl
@[simp] theorem State.setMot_pwr (s : State) (m : Fin 4) (x : MotionPort) : (s.setMot m x).pwr = s.pwr := rfl
@[simp] theorem State.setMot_led (s : State) (m : Fin 4) (x : MotionPort) : (s.setMot m x).led = s.led := rfl
@[simp] theorem State.setMot_saf (s : State) (m : Fin 4) (x : MotionPort) : (s.setMot m x).saf = s.saf := rfl
@[simp] theorem State.setMot_sec (s : State) (m : Fin 4) (x : MotionPort) : (s.setMot m x).sec = s.sec := rfl
@[simp] theorem State.setMot_disc (s : State) (m : Fin 4) (x : MotionPort) : (s.setMot m x).disc = s.disc := rfl
@[simp] theorem State.setMot_pins (s : State) (m : Fin 4) (x : MotionPort) : (s.setMot m x).pins = s.pins := rfl

/-! ## `setReg` changes `regs` and `par` only -/

@[simp] theorem State.setReg_pending (s : State) (k : Nat) (v : Word) : (s.setReg k v).pending = s.pending := rfl
@[simp] theorem State.setReg_free (s : State) (k : Nat) (v : Word) : (s.setReg k v).free = s.free := rfl
@[simp] theorem State.setReg_hostOut (s : State) (k : Nat) (v : Word) : (s.setReg k v).hostOut = s.hostOut := rfl
@[simp] theorem State.setReg_cnt (s : State) (k : Nat) (v : Word) : (s.setReg k v).cnt = s.cnt := rfl
@[simp] theorem State.setReg_lat (s : State) (k : Nat) (v : Word) : (s.setReg k v).lat = s.lat := rfl
@[simp] theorem State.setReg_waits (s : State) (k : Nat) (v : Word) : (s.setReg k v).waits = s.waits := rfl
@[simp] theorem State.setReg_latWaits (s : State) (k : Nat) (v : Word) : (s.setReg k v).latWaits = s.latWaits := rfl
@[simp] theorem State.setReg_step (s : State) (k : Nat) (v : Word) : (s.setReg k v).step = s.step := rfl
@[simp] theorem State.setReg_ports (s : State) (k : Nat) (v : Word) : (s.setReg k v).ports = s.ports := rfl
@[simp] theorem State.setReg_lastPort (s : State) (k : Nat) (v : Word) : (s.setReg k v).lastPort = s.lastPort := rfl
@[simp] theorem State.setReg_inkSwap (s : State) (k : Nat) (v : Word) : (s.setReg k v).inkSwap = s.inkSwap := rfl
@[simp] theorem State.setReg_fusSwap (s : State) (k : Nat) (v : Word) : (s.setReg k v).fusSwap = s.fusSwap := rfl
@[simp] theorem State.setReg_mesh (s : State) (k : Nat) (v : Word) : (s.setReg k v).mesh = s.mesh := rfl
@[simp] theorem State.setReg_cells (s : State) (k : Nat) (v : Word) : (s.setReg k v).cells = s.cells := rfl
@[simp] theorem State.setReg_weights (s : State) (k : Nat) (v : Word) : (s.setReg k v).weights = s.weights := rfl
@[simp] theorem State.setReg_clutches (s : State) (k : Nat) (v : Word) : (s.setReg k v).clutches = s.clutches := rfl
@[simp] theorem State.setReg_motion (s : State) (k : Nat) (v : Word) : (s.setReg k v).motion = s.motion := rfl
@[simp] theorem State.setReg_ego (s : State) (k : Nat) (v : Word) : (s.setReg k v).ego = s.ego := rfl
@[simp] theorem State.setReg_fus (s : State) (k : Nat) (v : Word) : (s.setReg k v).fus = s.fus := rfl
@[simp] theorem State.setReg_pq (s : State) (k : Nat) (v : Word) : (s.setReg k v).pq = s.pq := rfl
@[simp] theorem State.setReg_pqOvr (s : State) (k : Nat) (v : Word) : (s.setReg k v).pqOvr = s.pqOvr := rfl
@[simp] theorem State.setReg_trk (s : State) (k : Nat) (v : Word) : (s.setReg k v).trk = s.trk := rfl
@[simp] theorem State.setReg_scm (s : State) (k : Nat) (v : Word) : (s.setReg k v).scm = s.scm := rfl
@[simp] theorem State.setReg_hosts (s : State) (k : Nat) (v : Word) : (s.setReg k v).hosts = s.hosts := rfl
@[simp] theorem State.setReg_sems (s : State) (k : Nat) (v : Word) : (s.setReg k v).sems = s.sems := rfl
@[simp] theorem State.setReg_slots (s : State) (k : Nat) (v : Word) : (s.setReg k v).slots = s.slots := rfl
@[simp] theorem State.setReg_pwr (s : State) (k : Nat) (v : Word) : (s.setReg k v).pwr = s.pwr := rfl
@[simp] theorem State.setReg_led (s : State) (k : Nat) (v : Word) : (s.setReg k v).led = s.led := rfl
@[simp] theorem State.setReg_saf (s : State) (k : Nat) (v : Word) : (s.setReg k v).saf = s.saf := rfl
@[simp] theorem State.setReg_sec (s : State) (k : Nat) (v : Word) : (s.setReg k v).sec = s.sec := rfl
@[simp] theorem State.setReg_disc (s : State) (k : Nat) (v : Word) : (s.setReg k v).disc = s.disc := rfl
@[simp] theorem State.setReg_pins (s : State) (k : Nat) (v : Word) : (s.setReg k v).pins = s.pins := rfl

/-! ## `setFld` changes `regs` and `par` only -/

@[simp] theorem State.setFld_pending (s : State) (k hi lo v : Nat) : (s.setFld k hi lo v).pending = s.pending := rfl
@[simp] theorem State.setFld_free (s : State) (k hi lo v : Nat) : (s.setFld k hi lo v).free = s.free := rfl
@[simp] theorem State.setFld_hostOut (s : State) (k hi lo v : Nat) : (s.setFld k hi lo v).hostOut = s.hostOut := rfl
@[simp] theorem State.setFld_cnt (s : State) (k hi lo v : Nat) : (s.setFld k hi lo v).cnt = s.cnt := rfl
@[simp] theorem State.setFld_lat (s : State) (k hi lo v : Nat) : (s.setFld k hi lo v).lat = s.lat := rfl
@[simp] theorem State.setFld_waits (s : State) (k hi lo v : Nat) : (s.setFld k hi lo v).waits = s.waits := rfl
@[simp] theorem State.setFld_latWaits (s : State) (k hi lo v : Nat) : (s.setFld k hi lo v).latWaits = s.latWaits := rfl
@[simp] theorem State.setFld_step (s : State) (k hi lo v : Nat) : (s.setFld k hi lo v).step = s.step := rfl
@[simp] theorem State.setFld_ports (s : State) (k hi lo v : Nat) : (s.setFld k hi lo v).ports = s.ports := rfl
@[simp] theorem State.setFld_lastPort (s : State) (k hi lo v : Nat) : (s.setFld k hi lo v).lastPort = s.lastPort := rfl
@[simp] theorem State.setFld_inkSwap (s : State) (k hi lo v : Nat) : (s.setFld k hi lo v).inkSwap = s.inkSwap := rfl
@[simp] theorem State.setFld_fusSwap (s : State) (k hi lo v : Nat) : (s.setFld k hi lo v).fusSwap = s.fusSwap := rfl
@[simp] theorem State.setFld_mesh (s : State) (k hi lo v : Nat) : (s.setFld k hi lo v).mesh = s.mesh := rfl
@[simp] theorem State.setFld_cells (s : State) (k hi lo v : Nat) : (s.setFld k hi lo v).cells = s.cells := rfl
@[simp] theorem State.setFld_weights (s : State) (k hi lo v : Nat) : (s.setFld k hi lo v).weights = s.weights := rfl
@[simp] theorem State.setFld_clutches (s : State) (k hi lo v : Nat) : (s.setFld k hi lo v).clutches = s.clutches := rfl
@[simp] theorem State.setFld_motion (s : State) (k hi lo v : Nat) : (s.setFld k hi lo v).motion = s.motion := rfl
@[simp] theorem State.setFld_ego (s : State) (k hi lo v : Nat) : (s.setFld k hi lo v).ego = s.ego := rfl
@[simp] theorem State.setFld_fus (s : State) (k hi lo v : Nat) : (s.setFld k hi lo v).fus = s.fus := rfl
@[simp] theorem State.setFld_pq (s : State) (k hi lo v : Nat) : (s.setFld k hi lo v).pq = s.pq := rfl
@[simp] theorem State.setFld_pqOvr (s : State) (k hi lo v : Nat) : (s.setFld k hi lo v).pqOvr = s.pqOvr := rfl
@[simp] theorem State.setFld_trk (s : State) (k hi lo v : Nat) : (s.setFld k hi lo v).trk = s.trk := rfl
@[simp] theorem State.setFld_scm (s : State) (k hi lo v : Nat) : (s.setFld k hi lo v).scm = s.scm := rfl
@[simp] theorem State.setFld_hosts (s : State) (k hi lo v : Nat) : (s.setFld k hi lo v).hosts = s.hosts := rfl
@[simp] theorem State.setFld_sems (s : State) (k hi lo v : Nat) : (s.setFld k hi lo v).sems = s.sems := rfl
@[simp] theorem State.setFld_slots (s : State) (k hi lo v : Nat) : (s.setFld k hi lo v).slots = s.slots := rfl
@[simp] theorem State.setFld_pwr (s : State) (k hi lo v : Nat) : (s.setFld k hi lo v).pwr = s.pwr := rfl
@[simp] theorem State.setFld_led (s : State) (k hi lo v : Nat) : (s.setFld k hi lo v).led = s.led := rfl
@[simp] theorem State.setFld_saf (s : State) (k hi lo v : Nat) : (s.setFld k hi lo v).saf = s.saf := rfl
@[simp] theorem State.setFld_sec (s : State) (k hi lo v : Nat) : (s.setFld k hi lo v).sec = s.sec := rfl
@[simp] theorem State.setFld_disc (s : State) (k hi lo v : Nat) : (s.setFld k hi lo v).disc = s.disc := rfl
@[simp] theorem State.setFld_pins (s : State) (k hi lo v : Nat) : (s.setFld k hi lo v).pins = s.pins := rfl

/-! ## `bump` changes `cnt` only -/

@[simp] theorem State.bump_pending (s : State) (k n : Nat) : (s.bump k n).pending = s.pending := rfl
@[simp] theorem State.bump_free (s : State) (k n : Nat) : (s.bump k n).free = s.free := rfl
@[simp] theorem State.bump_hostOut (s : State) (k n : Nat) : (s.bump k n).hostOut = s.hostOut := rfl
@[simp] theorem State.bump_regs (s : State) (k n : Nat) : (s.bump k n).regs = s.regs := rfl
@[simp] theorem State.bump_par (s : State) (k n : Nat) : (s.bump k n).par = s.par := rfl
@[simp] theorem State.bump_lat (s : State) (k n : Nat) : (s.bump k n).lat = s.lat := rfl
@[simp] theorem State.bump_waits (s : State) (k n : Nat) : (s.bump k n).waits = s.waits := rfl
@[simp] theorem State.bump_latWaits (s : State) (k n : Nat) : (s.bump k n).latWaits = s.latWaits := rfl
@[simp] theorem State.bump_step (s : State) (k n : Nat) : (s.bump k n).step = s.step := rfl
@[simp] theorem State.bump_ports (s : State) (k n : Nat) : (s.bump k n).ports = s.ports := rfl
@[simp] theorem State.bump_lastPort (s : State) (k n : Nat) : (s.bump k n).lastPort = s.lastPort := rfl
@[simp] theorem State.bump_inkSwap (s : State) (k n : Nat) : (s.bump k n).inkSwap = s.inkSwap := rfl
@[simp] theorem State.bump_fusSwap (s : State) (k n : Nat) : (s.bump k n).fusSwap = s.fusSwap := rfl
@[simp] theorem State.bump_mesh (s : State) (k n : Nat) : (s.bump k n).mesh = s.mesh := rfl
@[simp] theorem State.bump_cells (s : State) (k n : Nat) : (s.bump k n).cells = s.cells := rfl
@[simp] theorem State.bump_weights (s : State) (k n : Nat) : (s.bump k n).weights = s.weights := rfl
@[simp] theorem State.bump_clutches (s : State) (k n : Nat) : (s.bump k n).clutches = s.clutches := rfl
@[simp] theorem State.bump_motion (s : State) (k n : Nat) : (s.bump k n).motion = s.motion := rfl
@[simp] theorem State.bump_ego (s : State) (k n : Nat) : (s.bump k n).ego = s.ego := rfl
@[simp] theorem State.bump_fus (s : State) (k n : Nat) : (s.bump k n).fus = s.fus := rfl
@[simp] theorem State.bump_pq (s : State) (k n : Nat) : (s.bump k n).pq = s.pq := rfl
@[simp] theorem State.bump_pqOvr (s : State) (k n : Nat) : (s.bump k n).pqOvr = s.pqOvr := rfl
@[simp] theorem State.bump_trk (s : State) (k n : Nat) : (s.bump k n).trk = s.trk := rfl
@[simp] theorem State.bump_scm (s : State) (k n : Nat) : (s.bump k n).scm = s.scm := rfl
@[simp] theorem State.bump_hosts (s : State) (k n : Nat) : (s.bump k n).hosts = s.hosts := rfl
@[simp] theorem State.bump_sems (s : State) (k n : Nat) : (s.bump k n).sems = s.sems := rfl
@[simp] theorem State.bump_slots (s : State) (k n : Nat) : (s.bump k n).slots = s.slots := rfl
@[simp] theorem State.bump_pwr (s : State) (k n : Nat) : (s.bump k n).pwr = s.pwr := rfl
@[simp] theorem State.bump_led (s : State) (k n : Nat) : (s.bump k n).led = s.led := rfl
@[simp] theorem State.bump_saf (s : State) (k n : Nat) : (s.bump k n).saf = s.saf := rfl
@[simp] theorem State.bump_sec (s : State) (k n : Nat) : (s.bump k n).sec = s.sec := rfl
@[simp] theorem State.bump_disc (s : State) (k n : Nat) : (s.bump k n).disc = s.disc := rfl
@[simp] theorem State.bump_pins (s : State) (k n : Nat) : (s.bump k n).pins = s.pins := rfl

/-! ## `setCtr` changes `cnt` and `waits` only -/

@[simp] theorem State.setCtr_pending (s : State) (k : Nat) (v : Word) : (s.setCtr k v).pending = s.pending := rfl
@[simp] theorem State.setCtr_free (s : State) (k : Nat) (v : Word) : (s.setCtr k v).free = s.free := rfl
@[simp] theorem State.setCtr_hostOut (s : State) (k : Nat) (v : Word) : (s.setCtr k v).hostOut = s.hostOut := rfl
@[simp] theorem State.setCtr_regs (s : State) (k : Nat) (v : Word) : (s.setCtr k v).regs = s.regs := rfl
@[simp] theorem State.setCtr_par (s : State) (k : Nat) (v : Word) : (s.setCtr k v).par = s.par := rfl
@[simp] theorem State.setCtr_lat (s : State) (k : Nat) (v : Word) : (s.setCtr k v).lat = s.lat := rfl
@[simp] theorem State.setCtr_latWaits (s : State) (k : Nat) (v : Word) : (s.setCtr k v).latWaits = s.latWaits := rfl
@[simp] theorem State.setCtr_step (s : State) (k : Nat) (v : Word) : (s.setCtr k v).step = s.step := rfl
@[simp] theorem State.setCtr_ports (s : State) (k : Nat) (v : Word) : (s.setCtr k v).ports = s.ports := rfl
@[simp] theorem State.setCtr_lastPort (s : State) (k : Nat) (v : Word) : (s.setCtr k v).lastPort = s.lastPort := rfl
@[simp] theorem State.setCtr_inkSwap (s : State) (k : Nat) (v : Word) : (s.setCtr k v).inkSwap = s.inkSwap := rfl
@[simp] theorem State.setCtr_fusSwap (s : State) (k : Nat) (v : Word) : (s.setCtr k v).fusSwap = s.fusSwap := rfl
@[simp] theorem State.setCtr_mesh (s : State) (k : Nat) (v : Word) : (s.setCtr k v).mesh = s.mesh := rfl
@[simp] theorem State.setCtr_cells (s : State) (k : Nat) (v : Word) : (s.setCtr k v).cells = s.cells := rfl
@[simp] theorem State.setCtr_weights (s : State) (k : Nat) (v : Word) : (s.setCtr k v).weights = s.weights := rfl
@[simp] theorem State.setCtr_clutches (s : State) (k : Nat) (v : Word) : (s.setCtr k v).clutches = s.clutches := rfl
@[simp] theorem State.setCtr_motion (s : State) (k : Nat) (v : Word) : (s.setCtr k v).motion = s.motion := rfl
@[simp] theorem State.setCtr_ego (s : State) (k : Nat) (v : Word) : (s.setCtr k v).ego = s.ego := rfl
@[simp] theorem State.setCtr_fus (s : State) (k : Nat) (v : Word) : (s.setCtr k v).fus = s.fus := rfl
@[simp] theorem State.setCtr_pq (s : State) (k : Nat) (v : Word) : (s.setCtr k v).pq = s.pq := rfl
@[simp] theorem State.setCtr_pqOvr (s : State) (k : Nat) (v : Word) : (s.setCtr k v).pqOvr = s.pqOvr := rfl
@[simp] theorem State.setCtr_trk (s : State) (k : Nat) (v : Word) : (s.setCtr k v).trk = s.trk := rfl
@[simp] theorem State.setCtr_scm (s : State) (k : Nat) (v : Word) : (s.setCtr k v).scm = s.scm := rfl
@[simp] theorem State.setCtr_hosts (s : State) (k : Nat) (v : Word) : (s.setCtr k v).hosts = s.hosts := rfl
@[simp] theorem State.setCtr_sems (s : State) (k : Nat) (v : Word) : (s.setCtr k v).sems = s.sems := rfl
@[simp] theorem State.setCtr_slots (s : State) (k : Nat) (v : Word) : (s.setCtr k v).slots = s.slots := rfl
@[simp] theorem State.setCtr_pwr (s : State) (k : Nat) (v : Word) : (s.setCtr k v).pwr = s.pwr := rfl
@[simp] theorem State.setCtr_led (s : State) (k : Nat) (v : Word) : (s.setCtr k v).led = s.led := rfl
@[simp] theorem State.setCtr_saf (s : State) (k : Nat) (v : Word) : (s.setCtr k v).saf = s.saf := rfl
@[simp] theorem State.setCtr_sec (s : State) (k : Nat) (v : Word) : (s.setCtr k v).sec = s.sec := rfl
@[simp] theorem State.setCtr_disc (s : State) (k : Nat) (v : Word) : (s.setCtr k v).disc = s.disc := rfl
@[simp] theorem State.setCtr_pins (s : State) (k : Nat) (v : Word) : (s.setCtr k v).pins = s.pins := rfl

/-! ## `tick` changes `free` only -/

@[simp] theorem State.tick_pending (s : State) : (s.tick).pending = s.pending := rfl
@[simp] theorem State.tick_hostOut (s : State) : (s.tick).hostOut = s.hostOut := rfl
@[simp] theorem State.tick_regs (s : State) : (s.tick).regs = s.regs := rfl
@[simp] theorem State.tick_par (s : State) : (s.tick).par = s.par := rfl
@[simp] theorem State.tick_cnt (s : State) : (s.tick).cnt = s.cnt := rfl
@[simp] theorem State.tick_lat (s : State) : (s.tick).lat = s.lat := rfl
@[simp] theorem State.tick_waits (s : State) : (s.tick).waits = s.waits := rfl
@[simp] theorem State.tick_latWaits (s : State) : (s.tick).latWaits = s.latWaits := rfl
@[simp] theorem State.tick_step (s : State) : (s.tick).step = s.step := rfl
@[simp] theorem State.tick_ports (s : State) : (s.tick).ports = s.ports := rfl
@[simp] theorem State.tick_lastPort (s : State) : (s.tick).lastPort = s.lastPort := rfl
@[simp] theorem State.tick_inkSwap (s : State) : (s.tick).inkSwap = s.inkSwap := rfl
@[simp] theorem State.tick_fusSwap (s : State) : (s.tick).fusSwap = s.fusSwap := rfl
@[simp] theorem State.tick_mesh (s : State) : (s.tick).mesh = s.mesh := rfl
@[simp] theorem State.tick_cells (s : State) : (s.tick).cells = s.cells := rfl
@[simp] theorem State.tick_weights (s : State) : (s.tick).weights = s.weights := rfl
@[simp] theorem State.tick_clutches (s : State) : (s.tick).clutches = s.clutches := rfl
@[simp] theorem State.tick_motion (s : State) : (s.tick).motion = s.motion := rfl
@[simp] theorem State.tick_ego (s : State) : (s.tick).ego = s.ego := rfl
@[simp] theorem State.tick_fus (s : State) : (s.tick).fus = s.fus := rfl
@[simp] theorem State.tick_pq (s : State) : (s.tick).pq = s.pq := rfl
@[simp] theorem State.tick_pqOvr (s : State) : (s.tick).pqOvr = s.pqOvr := rfl
@[simp] theorem State.tick_trk (s : State) : (s.tick).trk = s.trk := rfl
@[simp] theorem State.tick_scm (s : State) : (s.tick).scm = s.scm := rfl
@[simp] theorem State.tick_hosts (s : State) : (s.tick).hosts = s.hosts := rfl
@[simp] theorem State.tick_sems (s : State) : (s.tick).sems = s.sems := rfl
@[simp] theorem State.tick_slots (s : State) : (s.tick).slots = s.slots := rfl
@[simp] theorem State.tick_pwr (s : State) : (s.tick).pwr = s.pwr := rfl
@[simp] theorem State.tick_led (s : State) : (s.tick).led = s.led := rfl
@[simp] theorem State.tick_saf (s : State) : (s.tick).saf = s.saf := rfl
@[simp] theorem State.tick_sec (s : State) : (s.tick).sec = s.sec := rfl
@[simp] theorem State.tick_disc (s : State) : (s.tick).disc = s.disc := rfl
@[simp] theorem State.tick_pins (s : State) : (s.tick).pins = s.pins := rfl

/-! ## `ticks` changes `free` only -/

@[simp] theorem State.ticks_pending (s : State) (n : Nat) : (s.ticks n).pending = s.pending := rfl
@[simp] theorem State.ticks_hostOut (s : State) (n : Nat) : (s.ticks n).hostOut = s.hostOut := rfl
@[simp] theorem State.ticks_regs (s : State) (n : Nat) : (s.ticks n).regs = s.regs := rfl
@[simp] theorem State.ticks_par (s : State) (n : Nat) : (s.ticks n).par = s.par := rfl
@[simp] theorem State.ticks_cnt (s : State) (n : Nat) : (s.ticks n).cnt = s.cnt := rfl
@[simp] theorem State.ticks_lat (s : State) (n : Nat) : (s.ticks n).lat = s.lat := rfl
@[simp] theorem State.ticks_waits (s : State) (n : Nat) : (s.ticks n).waits = s.waits := rfl
@[simp] theorem State.ticks_latWaits (s : State) (n : Nat) : (s.ticks n).latWaits = s.latWaits := rfl
@[simp] theorem State.ticks_step (s : State) (n : Nat) : (s.ticks n).step = s.step := rfl
@[simp] theorem State.ticks_ports (s : State) (n : Nat) : (s.ticks n).ports = s.ports := rfl
@[simp] theorem State.ticks_lastPort (s : State) (n : Nat) : (s.ticks n).lastPort = s.lastPort := rfl
@[simp] theorem State.ticks_inkSwap (s : State) (n : Nat) : (s.ticks n).inkSwap = s.inkSwap := rfl
@[simp] theorem State.ticks_fusSwap (s : State) (n : Nat) : (s.ticks n).fusSwap = s.fusSwap := rfl
@[simp] theorem State.ticks_mesh (s : State) (n : Nat) : (s.ticks n).mesh = s.mesh := rfl
@[simp] theorem State.ticks_cells (s : State) (n : Nat) : (s.ticks n).cells = s.cells := rfl
@[simp] theorem State.ticks_weights (s : State) (n : Nat) : (s.ticks n).weights = s.weights := rfl
@[simp] theorem State.ticks_clutches (s : State) (n : Nat) : (s.ticks n).clutches = s.clutches := rfl
@[simp] theorem State.ticks_motion (s : State) (n : Nat) : (s.ticks n).motion = s.motion := rfl
@[simp] theorem State.ticks_ego (s : State) (n : Nat) : (s.ticks n).ego = s.ego := rfl
@[simp] theorem State.ticks_fus (s : State) (n : Nat) : (s.ticks n).fus = s.fus := rfl
@[simp] theorem State.ticks_pq (s : State) (n : Nat) : (s.ticks n).pq = s.pq := rfl
@[simp] theorem State.ticks_pqOvr (s : State) (n : Nat) : (s.ticks n).pqOvr = s.pqOvr := rfl
@[simp] theorem State.ticks_trk (s : State) (n : Nat) : (s.ticks n).trk = s.trk := rfl
@[simp] theorem State.ticks_scm (s : State) (n : Nat) : (s.ticks n).scm = s.scm := rfl
@[simp] theorem State.ticks_hosts (s : State) (n : Nat) : (s.ticks n).hosts = s.hosts := rfl
@[simp] theorem State.ticks_sems (s : State) (n : Nat) : (s.ticks n).sems = s.sems := rfl
@[simp] theorem State.ticks_slots (s : State) (n : Nat) : (s.ticks n).slots = s.slots := rfl
@[simp] theorem State.ticks_pwr (s : State) (n : Nat) : (s.ticks n).pwr = s.pwr := rfl
@[simp] theorem State.ticks_led (s : State) (n : Nat) : (s.ticks n).led = s.led := rfl
@[simp] theorem State.ticks_saf (s : State) (n : Nat) : (s.ticks n).saf = s.saf := rfl
@[simp] theorem State.ticks_sec (s : State) (n : Nat) : (s.ticks n).sec = s.sec := rfl
@[simp] theorem State.ticks_disc (s : State) (n : Nat) : (s.ticks n).disc = s.disc := rfl
@[simp] theorem State.ticks_pins (s : State) (n : Nat) : (s.ticks n).pins = s.pins := rfl

/-! ## `countWait` changes `waits` and `free` only -/

@[simp] theorem State.countWait_pending (s : State) (k : Nat) : (s.countWait k).pending = s.pending := rfl
@[simp] theorem State.countWait_hostOut (s : State) (k : Nat) : (s.countWait k).hostOut = s.hostOut := rfl
@[simp] theorem State.countWait_regs (s : State) (k : Nat) : (s.countWait k).regs = s.regs := rfl
@[simp] theorem State.countWait_par (s : State) (k : Nat) : (s.countWait k).par = s.par := rfl
@[simp] theorem State.countWait_cnt (s : State) (k : Nat) : (s.countWait k).cnt = s.cnt := rfl
@[simp] theorem State.countWait_lat (s : State) (k : Nat) : (s.countWait k).lat = s.lat := rfl
@[simp] theorem State.countWait_latWaits (s : State) (k : Nat) : (s.countWait k).latWaits = s.latWaits := rfl
@[simp] theorem State.countWait_step (s : State) (k : Nat) : (s.countWait k).step = s.step := rfl
@[simp] theorem State.countWait_ports (s : State) (k : Nat) : (s.countWait k).ports = s.ports := rfl
@[simp] theorem State.countWait_lastPort (s : State) (k : Nat) : (s.countWait k).lastPort = s.lastPort := rfl
@[simp] theorem State.countWait_inkSwap (s : State) (k : Nat) : (s.countWait k).inkSwap = s.inkSwap := rfl
@[simp] theorem State.countWait_fusSwap (s : State) (k : Nat) : (s.countWait k).fusSwap = s.fusSwap := rfl
@[simp] theorem State.countWait_mesh (s : State) (k : Nat) : (s.countWait k).mesh = s.mesh := rfl
@[simp] theorem State.countWait_cells (s : State) (k : Nat) : (s.countWait k).cells = s.cells := rfl
@[simp] theorem State.countWait_weights (s : State) (k : Nat) : (s.countWait k).weights = s.weights := rfl
@[simp] theorem State.countWait_clutches (s : State) (k : Nat) : (s.countWait k).clutches = s.clutches := rfl
@[simp] theorem State.countWait_motion (s : State) (k : Nat) : (s.countWait k).motion = s.motion := rfl
@[simp] theorem State.countWait_ego (s : State) (k : Nat) : (s.countWait k).ego = s.ego := rfl
@[simp] theorem State.countWait_fus (s : State) (k : Nat) : (s.countWait k).fus = s.fus := rfl
@[simp] theorem State.countWait_pq (s : State) (k : Nat) : (s.countWait k).pq = s.pq := rfl
@[simp] theorem State.countWait_pqOvr (s : State) (k : Nat) : (s.countWait k).pqOvr = s.pqOvr := rfl
@[simp] theorem State.countWait_trk (s : State) (k : Nat) : (s.countWait k).trk = s.trk := rfl
@[simp] theorem State.countWait_scm (s : State) (k : Nat) : (s.countWait k).scm = s.scm := rfl
@[simp] theorem State.countWait_hosts (s : State) (k : Nat) : (s.countWait k).hosts = s.hosts := rfl
@[simp] theorem State.countWait_sems (s : State) (k : Nat) : (s.countWait k).sems = s.sems := rfl
@[simp] theorem State.countWait_slots (s : State) (k : Nat) : (s.countWait k).slots = s.slots := rfl
@[simp] theorem State.countWait_pwr (s : State) (k : Nat) : (s.countWait k).pwr = s.pwr := rfl
@[simp] theorem State.countWait_led (s : State) (k : Nat) : (s.countWait k).led = s.led := rfl
@[simp] theorem State.countWait_saf (s : State) (k : Nat) : (s.countWait k).saf = s.saf := rfl
@[simp] theorem State.countWait_sec (s : State) (k : Nat) : (s.countWait k).sec = s.sec := rfl
@[simp] theorem State.countWait_disc (s : State) (k : Nat) : (s.countWait k).disc = s.disc := rfl
@[simp] theorem State.countWait_pins (s : State) (k : Nat) : (s.countWait k).pins = s.pins := rfl

/-! ## Access after an update -/

theorem State.cell_setCell (s : State) (c d : Fin 256) (x : Cell) : (s.setCell c x).cell d = if d = c then x else s.cell d := by
  by_cases h : d = c
  · subst h; simp [State.cell, State.setCell]
  · have : c.val ≠ d.val := fun e => h (Fin.ext e.symm)
    simp [State.cell, State.setCell, this, h]

theorem State.port_setPort (s : State) (c d : Fin 16) (x : Port) : (s.setPort c x).port d = if d = c then x else s.port d := by
  by_cases h : d = c
  · subst h; simp [State.port, State.setPort]
  · have : c.val ≠ d.val := fun e => h (Fin.ext e.symm)
    simp [State.port, State.setPort, this, h]

theorem State.clutch_setClutch (s : State) (c d : Fin 16) (x : Clutch) : (s.setClutch c x).clutch d = if d = c then x else s.clutch d := by
  by_cases h : d = c
  · subst h; simp [State.clutch, State.setClutch]
  · have : c.val ≠ d.val := fun e => h (Fin.ext e.symm)
    simp [State.clutch, State.setClutch, this, h]

theorem State.host_setHost (s : State) (c d : Fin 2) (x : HostPort) : (s.setHost c x).host d = if d = c then x else s.host d := by
  by_cases h : d = c
  · subst h; simp [State.host, State.setHost]
  · have : c.val ≠ d.val := fun e => h (Fin.ext e.symm)
    simp [State.host, State.setHost, this, h]

theorem State.sem_setSem (s : State) (c d : Fin 64) (x : Sem) : (s.setSem c x).sem d = if d = c then x else s.sem d := by
  by_cases h : d = c
  · subst h; simp [State.sem, State.setSem]
  · have : c.val ≠ d.val := fun e => h (Fin.ext e.symm)
    simp [State.sem, State.setSem, this, h]

theorem State.mot_setMot (s : State) (c d : Fin 4) (x : MotionPort) : (s.setMot c x).mot d = if d = c then x else s.mot d := by
  by_cases h : d = c
  · subst h; simp [State.mot, State.setMot]
  · have : c.val ≠ d.val := fun e => h (Fin.ext e.symm)
    simp [State.mot, State.setMot, this, h]

theorem State.cell_modCell (s : State) (c d : Fin 256) (f : Cell → Cell) : (s.modCell c f).cell d = if d = c then f (s.cell c) else s.cell d :=
  State.cell_setCell s c d _

theorem State.port_modPort (s : State) (c d : Fin 16) (f : Port → Port) : (s.modPort c f).port d = if d = c then f (s.port c) else s.port d :=
  State.port_setPort s c d _

theorem State.clutch_modClutch (s : State) (c d : Fin 16) (f : Clutch → Clutch) : (s.modClutch c f).clutch d = if d = c then f (s.clutch c) else s.clutch d :=
  State.clutch_setClutch s c d _

theorem State.host_modHost (s : State) (c d : Fin 2) (f : HostPort → HostPort) : (s.modHost c f).host d = if d = c then f (s.host c) else s.host d :=
  State.host_setHost s c d _

@[simp] theorem State.setCell_port' (s : State) (c : Fin 256) (x : Cell) : (s.setCell c x).port = s.port := rfl
@[simp] theorem State.setCell_clutch' (s : State) (c : Fin 256) (x : Cell) : (s.setCell c x).clutch = s.clutch := rfl
@[simp] theorem State.setCell_host' (s : State) (c : Fin 256) (x : Cell) : (s.setCell c x).host = s.host := rfl
@[simp] theorem State.setCell_reg (s : State) (c : Fin 256) (x : Cell) : (s.setCell c x).reg = s.reg := rfl
@[simp] theorem State.setCell_ctr (s : State) (c : Fin 256) (x : Cell) : (s.setCell c x).ctr = s.ctr := rfl
@[simp] theorem State.modCell_port' (s : State) (c : Fin 256) (f : Cell → Cell) : (s.modCell c f).port = s.port := rfl
@[simp] theorem State.modCell_clutch' (s : State) (c : Fin 256) (f : Cell → Cell) : (s.modCell c f).clutch = s.clutch := rfl
@[simp] theorem State.modCell_host' (s : State) (c : Fin 256) (f : Cell → Cell) : (s.modCell c f).host = s.host := rfl
@[simp] theorem State.modCell_reg (s : State) (c : Fin 256) (f : Cell → Cell) : (s.modCell c f).reg = s.reg := rfl
@[simp] theorem State.modCell_ctr (s : State) (c : Fin 256) (f : Cell → Cell) : (s.modCell c f).ctr = s.ctr := rfl
@[simp] theorem State.setPort_cell' (s : State) (p : Fin 16) (x : Port) : (s.setPort p x).cell = s.cell := rfl
@[simp] theorem State.setPort_clutch' (s : State) (p : Fin 16) (x : Port) : (s.setPort p x).clutch = s.clutch := rfl
@[simp] theorem State.setPort_host' (s : State) (p : Fin 16) (x : Port) : (s.setPort p x).host = s.host := rfl
@[simp] theorem State.setPort_reg (s : State) (p : Fin 16) (x : Port) : (s.setPort p x).reg = s.reg := rfl
@[simp] theorem State.setPort_ctr (s : State) (p : Fin 16) (x : Port) : (s.setPort p x).ctr = s.ctr := rfl
@[simp] theorem State.modPort_cell' (s : State) (p : Fin 16) (f : Port → Port) : (s.modPort p f).cell = s.cell := rfl
@[simp] theorem State.modPort_clutch' (s : State) (p : Fin 16) (f : Port → Port) : (s.modPort p f).clutch = s.clutch := rfl
@[simp] theorem State.modPort_host' (s : State) (p : Fin 16) (f : Port → Port) : (s.modPort p f).host = s.host := rfl
@[simp] theorem State.modPort_reg (s : State) (p : Fin 16) (f : Port → Port) : (s.modPort p f).reg = s.reg := rfl
@[simp] theorem State.modPort_ctr (s : State) (p : Fin 16) (f : Port → Port) : (s.modPort p f).ctr = s.ctr := rfl
@[simp] theorem State.setClutch_cell' (s : State) (c : Fin 16) (x : Clutch) : (s.setClutch c x).cell = s.cell := rfl
@[simp] theorem State.setClutch_port' (s : State) (c : Fin 16) (x : Clutch) : (s.setClutch c x).port = s.port := rfl
@[simp] theorem State.setClutch_host' (s : State) (c : Fin 16) (x : Clutch) : (s.setClutch c x).host = s.host := rfl
@[simp] theorem State.setClutch_reg (s : State) (c : Fin 16) (x : Clutch) : (s.setClutch c x).reg = s.reg := rfl
@[simp] theorem State.setClutch_ctr (s : State) (c : Fin 16) (x : Clutch) : (s.setClutch c x).ctr = s.ctr := rfl
@[simp] theorem State.modClutch_cell' (s : State) (c : Fin 16) (f : Clutch → Clutch) : (s.modClutch c f).cell = s.cell := rfl
@[simp] theorem State.modClutch_port' (s : State) (c : Fin 16) (f : Clutch → Clutch) : (s.modClutch c f).port = s.port := rfl
@[simp] theorem State.modClutch_host' (s : State) (c : Fin 16) (f : Clutch → Clutch) : (s.modClutch c f).host = s.host := rfl
@[simp] theorem State.modClutch_reg (s : State) (c : Fin 16) (f : Clutch → Clutch) : (s.modClutch c f).reg = s.reg := rfl
@[simp] theorem State.modClutch_ctr (s : State) (c : Fin 16) (f : Clutch → Clutch) : (s.modClutch c f).ctr = s.ctr := rfl
@[simp] theorem State.setHost_cell' (s : State) (h : Fin 2) (x : HostPort) : (s.setHost h x).cell = s.cell := rfl
@[simp] theorem State.setHost_port' (s : State) (h : Fin 2) (x : HostPort) : (s.setHost h x).port = s.port := rfl
@[simp] theorem State.setHost_clutch' (s : State) (h : Fin 2) (x : HostPort) : (s.setHost h x).clutch = s.clutch := rfl
@[simp] theorem State.setHost_reg (s : State) (h : Fin 2) (x : HostPort) : (s.setHost h x).reg = s.reg := rfl
@[simp] theorem State.setHost_ctr (s : State) (h : Fin 2) (x : HostPort) : (s.setHost h x).ctr = s.ctr := rfl
@[simp] theorem State.modHost_cell' (s : State) (h : Fin 2) (f : HostPort → HostPort) : (s.modHost h f).cell = s.cell := rfl
@[simp] theorem State.modHost_port' (s : State) (h : Fin 2) (f : HostPort → HostPort) : (s.modHost h f).port = s.port := rfl
@[simp] theorem State.modHost_clutch' (s : State) (h : Fin 2) (f : HostPort → HostPort) : (s.modHost h f).clutch = s.clutch := rfl
@[simp] theorem State.modHost_reg (s : State) (h : Fin 2) (f : HostPort → HostPort) : (s.modHost h f).reg = s.reg := rfl
@[simp] theorem State.modHost_ctr (s : State) (h : Fin 2) (f : HostPort → HostPort) : (s.modHost h f).ctr = s.ctr := rfl
@[simp] theorem State.setSem_cell' (s : State) (n : Fin 64) (x : Sem) : (s.setSem n x).cell = s.cell := rfl
@[simp] theorem State.setSem_port' (s : State) (n : Fin 64) (x : Sem) : (s.setSem n x).port = s.port := rfl
@[simp] theorem State.setSem_clutch' (s : State) (n : Fin 64) (x : Sem) : (s.setSem n x).clutch = s.clutch := rfl
@[simp] theorem State.setSem_host' (s : State) (n : Fin 64) (x : Sem) : (s.setSem n x).host = s.host := rfl
@[simp] theorem State.setSem_reg (s : State) (n : Fin 64) (x : Sem) : (s.setSem n x).reg = s.reg := rfl
@[simp] theorem State.setSem_ctr (s : State) (n : Fin 64) (x : Sem) : (s.setSem n x).ctr = s.ctr := rfl
@[simp] theorem State.setMot_cell' (s : State) (m : Fin 4) (x : MotionPort) : (s.setMot m x).cell = s.cell := rfl
@[simp] theorem State.setMot_port' (s : State) (m : Fin 4) (x : MotionPort) : (s.setMot m x).port = s.port := rfl
@[simp] theorem State.setMot_clutch' (s : State) (m : Fin 4) (x : MotionPort) : (s.setMot m x).clutch = s.clutch := rfl
@[simp] theorem State.setMot_host' (s : State) (m : Fin 4) (x : MotionPort) : (s.setMot m x).host = s.host := rfl
@[simp] theorem State.setMot_reg (s : State) (m : Fin 4) (x : MotionPort) : (s.setMot m x).reg = s.reg := rfl
@[simp] theorem State.setMot_ctr (s : State) (m : Fin 4) (x : MotionPort) : (s.setMot m x).ctr = s.ctr := rfl
@[simp] theorem State.setReg_cell' (s : State) (k : Nat) (v : Word) : (s.setReg k v).cell = s.cell := rfl
@[simp] theorem State.setReg_port' (s : State) (k : Nat) (v : Word) : (s.setReg k v).port = s.port := rfl
@[simp] theorem State.setReg_clutch' (s : State) (k : Nat) (v : Word) : (s.setReg k v).clutch = s.clutch := rfl
@[simp] theorem State.setReg_host' (s : State) (k : Nat) (v : Word) : (s.setReg k v).host = s.host := rfl
@[simp] theorem State.setReg_ctr (s : State) (k : Nat) (v : Word) : (s.setReg k v).ctr = s.ctr := rfl
@[simp] theorem State.setFld_cell' (s : State) (k hi lo v : Nat) : (s.setFld k hi lo v).cell = s.cell := rfl
@[simp] theorem State.setFld_port' (s : State) (k hi lo v : Nat) : (s.setFld k hi lo v).port = s.port := rfl
@[simp] theorem State.setFld_clutch' (s : State) (k hi lo v : Nat) : (s.setFld k hi lo v).clutch = s.clutch := rfl
@[simp] theorem State.setFld_host' (s : State) (k hi lo v : Nat) : (s.setFld k hi lo v).host = s.host := rfl
@[simp] theorem State.setFld_ctr (s : State) (k hi lo v : Nat) : (s.setFld k hi lo v).ctr = s.ctr := rfl
@[simp] theorem State.bump_cell' (s : State) (k n : Nat) : (s.bump k n).cell = s.cell := rfl
@[simp] theorem State.bump_port' (s : State) (k n : Nat) : (s.bump k n).port = s.port := rfl
@[simp] theorem State.bump_clutch' (s : State) (k n : Nat) : (s.bump k n).clutch = s.clutch := rfl
@[simp] theorem State.bump_host' (s : State) (k n : Nat) : (s.bump k n).host = s.host := rfl
@[simp] theorem State.bump_reg (s : State) (k n : Nat) : (s.bump k n).reg = s.reg := rfl
@[simp] theorem State.setCtr_cell' (s : State) (k : Nat) (v : Word) : (s.setCtr k v).cell = s.cell := rfl
@[simp] theorem State.setCtr_port' (s : State) (k : Nat) (v : Word) : (s.setCtr k v).port = s.port := rfl
@[simp] theorem State.setCtr_clutch' (s : State) (k : Nat) (v : Word) : (s.setCtr k v).clutch = s.clutch := rfl
@[simp] theorem State.setCtr_host' (s : State) (k : Nat) (v : Word) : (s.setCtr k v).host = s.host := rfl
@[simp] theorem State.setCtr_reg (s : State) (k : Nat) (v : Word) : (s.setCtr k v).reg = s.reg := rfl
@[simp] theorem State.tick_cell' (s : State) : (s.tick).cell = s.cell := rfl
@[simp] theorem State.tick_port' (s : State) : (s.tick).port = s.port := rfl
@[simp] theorem State.tick_clutch' (s : State) : (s.tick).clutch = s.clutch := rfl
@[simp] theorem State.tick_host' (s : State) : (s.tick).host = s.host := rfl
@[simp] theorem State.tick_reg (s : State) : (s.tick).reg = s.reg := rfl
@[simp] theorem State.tick_ctr (s : State) : (s.tick).ctr = s.ctr := rfl
@[simp] theorem State.ticks_cell' (s : State) (n : Nat) : (s.ticks n).cell = s.cell := rfl
@[simp] theorem State.ticks_port' (s : State) (n : Nat) : (s.ticks n).port = s.port := rfl
@[simp] theorem State.ticks_clutch' (s : State) (n : Nat) : (s.ticks n).clutch = s.clutch := rfl
@[simp] theorem State.ticks_host' (s : State) (n : Nat) : (s.ticks n).host = s.host := rfl
@[simp] theorem State.ticks_reg (s : State) (n : Nat) : (s.ticks n).reg = s.reg := rfl
@[simp] theorem State.ticks_ctr (s : State) (n : Nat) : (s.ticks n).ctr = s.ctr := rfl
@[simp] theorem State.countWait_cell' (s : State) (k : Nat) : (s.countWait k).cell = s.cell := rfl
@[simp] theorem State.countWait_port' (s : State) (k : Nat) : (s.countWait k).port = s.port := rfl
@[simp] theorem State.countWait_clutch' (s : State) (k : Nat) : (s.countWait k).clutch = s.clutch := rfl
@[simp] theorem State.countWait_host' (s : State) (k : Nat) : (s.countWait k).host = s.host := rfl
@[simp] theorem State.countWait_reg (s : State) (k : Nat) : (s.countWait k).reg = s.reg := rfl
@[simp] theorem State.countWait_ctr (s : State) (k : Nat) : (s.countWait k).ctr = s.ctr := rfl

/-- A register read after a write (R5). -/
theorem State.reg_setReg (s : State) (k j : Nat) (v : Word) : (s.setReg k v).reg j = if j = k then v else s.reg j := by
  by_cases h : j = k
  · subst h; simp [State.reg, State.setReg, assocGet_set]
  · simp [State.reg, State.setReg, assocGet_set_ne, h]

/-- A counter read after one was loaded. -/
theorem State.ctr_setCtr (s : State) (k j : Nat) (v : Word) : (s.setCtr k v).ctr j = if j = k then v else s.ctr j :=
  assocGet_set s.cnt 0 k j v

/-- A counter read after a count (R455). -/
theorem State.ctr_bump (s : State) (k j n : Nat) :
    (s.bump k n).ctr j = if j = k then BitVec.ofNat 32 (min 0xFFFFFFFF ((s.ctr k).toNat + n)) else s.ctr j :=
  assocGet_set s.cnt 0 k j _

/-- Folding a change that keeps a property keeps it. -/
theorem State.each_keeps {β : Type} (P : State → Prop) (f : State → β → State) (hf : ∀ s x, P s → P (f s x)) (l : List β) (s : State) :
    P s → P (s.each l f) := by
  induction l generalizing s with
  | nil => exact id
  | cons x t ih => exact fun h => ih _ (hf s x h)

/-- Folding a change that leaves a view alone leaves it alone. -/
theorem State.each_view {β γ : Type} (v : State → γ) (f : State → β → State) (hf : ∀ s x, v (f s x) = v s) (l : List β) (s : State) :
    v (s.each l f) = v s := by
  induction l generalizing s with
  | nil => rfl
  | cons x t ih => exact (ih (f s x)).trans (hf s x)

@[simp] theorem State.each_nil {β : Type} (s : State) (f : State → β → State) : s.each [] f = s := rfl
@[simp] theorem State.each_cons {β : Type} (s : State) (x : β) (l : List β) (f : State → β → State) : s.each (x :: l) f = (f s x).each l f := rfl

end Sys2Proof.Machine
end

