-- ==== Sys2Proof/WellFormed.lean ====
section
/-! DEFINITION. When a command is well formed: its operands lie where the interface that carries it can put them. -/

namespace Sys2Proof

/-- A BAR0 offset of a register: word aligned, inside 4 MiB (R443, R446). -/
def offsetOk (off : Nat) : Bool := decide (off < 0x400000) && off % 4 == 0

/-- A CSI-2 word count is 16 bits (R69). -/
def payloadOk (l : List Byte) : Bool := decide (l.length < 65536)

/-- A key of a register's storage: a BAR0 offset of a register, or that of HP1's own copy beyond BAR0 (R406). -/
def keyOk (key : Nat) : Bool := offsetOk (key % 0x400000) && decide (key < 0x800000)

/-- Well-formedness of a command. Its meaning is defined on the others too. -/
def Instr.wf (i : Instr) : Bool :=
  match i with
  | .csi2LongPacket _ _ _ dt _ _ payload => payloadOk payload && decide (16 ≤ dt.toNat)
  | .csi2ShortPacket _ dt _ => decide (dt.toNat < 16)
  | .statusBlockPacket _ _ _ _ _ payload => payloadOk payload
  | .registerWrite _ off _ _ rest => offsetOk off && decide (off + 4 * (rest.length + 1) ≤ 0x400000)
  | .hostAccessWake _ off => offsetOk off
  | .cfgScanPass struck => struck.all fun k => keyOk k.1
  | .hubWeightBroadcast _ _ src addr len _ _ => decide (addr + len ≤ 524288 ∧ src + len ≤ 16777216)
  | .spiTransaction _ bytes => decide (bytes.length < 65536)
  | _ => true

end Sys2Proof
end

