-- ==== Sys2Proof/Tests/Slice0.lean ====
section
/-! SUPPORT. Tests: ill-formed commands refused, worked examples of the spec, and for every statement states and operands that meet the hypotheses of its clauses. -/

open Sys2Proof Sys2Proof.Machine

/-! ## Ill-formed commands -/

theorem test_wf_offset : Instr.wf (.registerWrite 0 0x202 15 0) = false := by decide
theorem test_wf_request_end : Instr.wf (.registerWrite 0 0x3FFFFC 15 0 [(15, 0)]) = false := by decide
theorem test_wf_wake_offset : Instr.wf (.hostAccessWake 1 0x21002) = false := by decide
theorem test_wf_scan_offset : Instr.wf (.cfgScanPass [(3, 0)]) = false := by decide
theorem test_wf_long_type : Instr.wf (.csi2LongPacket 0 0 false 3 .ok true []) = false := by decide
theorem test_wf_short_type : Instr.wf (.csi2ShortPacket 0 0x30 .ok) = false := by decide
theorem test_wf_broadcast : Instr.wf (.hubWeightBroadcast 0 1 16777216 0 1 .clean []) = false := by decide
theorem test_wf_payload : payloadOk (List.replicate 65536 0) = false := by rw [payloadOk, List.length_replicate]; rfl
theorem test_wf_spi : Instr.wf (.spiTransaction 0 (List.replicate 65536 0)) = false := test_wf_payload
theorem test_wf_good : Instr.wf (.registerWrite 0 0x3FFFF8 15 0 [(15, 0)]) = true := by decide

/-! ## Small states -/

/-- Fields of an instruction word that is always executed. -/
def word (d a b : BitVec 5) (imm : BitVec 34) : Fields := ⟨d, a, b, 0, imm⟩

/-- A running cell of cell step 5. -/
def live : Cell := { Cell.reset with mode := .running, step := some 5 }

/-- The machine after reset but for cell 0. -/
def only (x : Cell) : State := State.reset.setCell 0 x

/-- Step 5 is open. -/
def opened (s : State) : State := { s with step := { s.step with running := true, k := 5 } }

/-- A descriptor with strides and dilations of 1, its map in Thatch from a base. -/
def desc (esize w h c site base : Nat) : GReg :=
  BitVec.ofNat 256 (esize * 2 ^ 61 + base * 2 ^ 41 + site + (w - 1) * 2 ^ 116 + (h - 1) * 2 ^ 104 + (c - 1) * 2 ^ 92 + 2 ^ 184 + 2 ^ 176 + 2 ^ 168 + 2 ^ 160)

/-- A word of a queue. -/
def qw (n : Nat) (soi : Bool) : QWord := ⟨BitVec.ofNat 64 n, soi, false, some 5⟩

/-- A cell with these words in one of its queues. -/
def holding (x : Cell) (q : Fin 256) (l : List QWord) : Cell := { x with queues := x.queues.set q.val { Queue.reset with words := l } }

/-- Queue 0 to 7 of cell 0 configured for 64 words each, queue 1 fed locally. -/
def queued (s : State) : State :=
  (s.setReg (celR 0 0x1000) 0x20).setReg (celR 0 0x1004) 0x80200020

/-- The clocks stand still: E3 is reached. -/
def asleepAt (s : State) : State := { s with pwr := { s.pwr with state := 2, point := 3 } }

/-! ## Witnesses: cells -/

theorem wit_StepRunsFront : State.reset.pending = [] := rfl

theorem wit_ScalarResult :
    (only live).issues 0 (word 1 2 0 7) (scalarShape true (word 1 2 0 7)) = true ∧
    (only live).issues 0 (word 1 2 3 0) (scalarShape false (word 1 2 3 0)) = true := by decide

theorem wit_ConditionResult :
    (only live).issues 0 (word 1 2 0 0x80001) (compareShape true (word 1 2 0 0x80001)) = true ∧
    (only live).issues 0 (word 1 2 3 0) (compareShape false (word 1 2 3 0)) = true ∧
    (only live).issues 0 (word 1 2 3 0) ⟨⟨.p, .p, .p, 0, true⟩, false, [pId 1, pId 2, pId 3]⟩ = true ∧
    (only live).issues 0 (word 1 2 0 0) ⟨⟨.p, .p, .none, 0, true⟩, false, [pId 1, pId 2]⟩ = true ∧
    (only live).issues 0 (word 1 2 3 1) ⟨⟨.s, .s, .s, im 2 0, true⟩, false, [sId 1, sId 2, sId 3, pId 1]⟩ = true := by decide

/-- Clauses of `LOOP`: a count of 3, of 0, and a full stack. -/
theorem wit_ControlFlowResult :
    (only live).issues 0 (word 0 0 0 0) ⟨⟨.none, .none, .none, 0, true⟩, false, []⟩ = true ∧
    (only live).issues 0 (word 0 0 0 5) ⟨⟨.none, .none, .none, im 16 0, true⟩, false, []⟩ = true ∧
    (only live).issues 0 (word 1 0 0 5) ⟨⟨.s, .none, .none, im 16 0, true⟩, false, [sId 1]⟩ = true ∧
    (only live).issues 0 (word 0 1 0 0) ⟨⟨.none, .s, .none, 0, true⟩, false, [sId 1]⟩ = true ∧
    (only (live.setS 1 3)).issues 0 (word 0 1 0 2) ⟨⟨.none, .s, .none, im 11 0, true⟩, false, [sId 1]⟩ = true ∧
    (live.setS 1 3).s 1 ≠ 0 ∧ live.loops = [] ∧ live.s 1 = 0 ∧
    (only { live with loops := List.replicate 4 ⟨0, 9, 1⟩ }).issues 0 (word 0 1 0 2) ⟨⟨.none, .s, .none, im 11 0, true⟩, false, [sId 1]⟩ = true ∧
    ¬(List.replicate 4 (⟨0, 9, 1⟩ : LoopEntry)).length < 4 ∧
    (only { live with loops := [⟨0, 2, 1⟩] }).issues 0 (word 0 1 0 2) ⟨⟨.none, .s, .none, im 11 0, true⟩, false, [sId 1]⟩ = true ∧
    ¬1 + immOf (word 0 1 0 2) 11 0 ≤ 2 ∧ reservedOp 0xFFF = true ∧ reservedOp 1 = false ∧ (only live).ready 0 = true := by decide

/-- An operation that holds a token. -/
def op0 : PendingOp := opOf 0 0 0

/-- A running cell whose token 0 is busy. -/
def busy0 : Cell := { live with tok := live.tok.set 0 ⟨0, some op0⟩ }

/-- Selectors 10 and 11 of `RDSYS` meet its two clauses at their border; token 0 masked, busy and free. -/
theorem wit_SystemReadResult :
    (only live).issues 0 (word 1 0 0 10) ⟨⟨.s, .none, .none, im 5 0, true⟩, false, [sId 1]⟩ = true ∧ immOf (word 1 0 0 10) 5 0 < 11 ∧
    (only live).issues 0 (word 1 0 0 11) ⟨⟨.s, .none, .none, im 5 0, true⟩, false, [sId 1]⟩ = true ∧ 11 ≤ immOf (word 1 0 0 11) 5 0 ∧
    (only busy0).issues 0 (word 1 0 0 1) ⟨⟨.s, .none, .none, im 15 0, true⟩, false, [sId 1]⟩ = true ∧
    (∃ t ∈ (List.finRange 16).filter fun t => bitAt (immOf (word 1 0 0 1) 15 0) t.val, (busy0.tok[t.val]).op.isSome = true) ∧
    (only live).issues 0 (word 1 0 0 1) ⟨⟨.s, .none, .none, im 15 0, true⟩, false, [sId 1]⟩ = true ∧
    (∀ t ∈ (List.finRange 16).filter fun t => bitAt (immOf (word 1 0 0 1) 15 0) t.val, (live.tok[t.val]).op = none) := by decide

set_option maxRecDepth 10000 in
/-- With one word in queue 3 a `WAITQ` on it finds 3; with none it blocks; the due ridge observed it finds 0x100. -/
theorem wit_WaitqResult :
    (only (holding live 3 [qw 1 true])).issues 0 (word 1 2 3 0) ⟨⟨.s, .v, .s, 0, true⟩, false, [sId 1, vId 2, sId 3]⟩ = true ∧
    waitFinds (holding live 3 [qw 1 true]) 8 3 ∧ (∀ v, ¬waitFinds live 8 v) ∧ waitFinds { live with dueSeen := true } 8 0x100 ∧
    ((only { live with wait := .waitq 8 4 1 }).cell 0).wait = .waitq 8 4 1 ∧ (only live).clocked = true ∧ (asleepAt (only live)).clocked = false := by
  have one : ∀ q : Fin 256, (8 : BitVec 256).getLsbD q.val = true → q = 3 := by decide
  refine ⟨by decide, .inl ⟨3, by decide, by decide, rfl, fun p hp hm => ?_⟩, fun v h => ?_, .inr ⟨fun q hq => ?_, rfl, rfl⟩, by decide, by decide, by decide⟩
  · rw [one p hm] at hp; exact absurd hp (by decide)
  · rcases h with ⟨q, hq, hs, -, -⟩ | ⟨-, h, -⟩
    · rw [one q hq] at hs; exact absurd hs (by decide)
    · exact absurd h (by decide)
  · rw [one q hq]; decide

/-- The due ridge of step 5, observed, with nothing outstanding. -/
def atIt : Cell := { live with dueSeen := true, moultDone := true }

theorem wit_RidgeResult :
    (only atIt).issues 0 (word 1 0 0 0) ⟨⟨.s, .none, .none, 0, true⟩, false, [sId 1]⟩ = true ∧ atRidge (only atIt) 0 ∧
    (only live).issues 0 (word 1 0 0 0) ⟨⟨.s, .none, .none, 0, true⟩, false, [sId 1]⟩ = true ∧ ¬atRidge (only live) 0 ∧
    ((only { atIt with wait := .ridge 1 }).cell 0).wait = .ridge (1 : BitVec 5).toNat ∧ (only atIt).clocked = true := by
  refine ⟨by decide, ⟨by decide, by decide, by decide, ?_, .inl (by decide)⟩, by decide, fun h => absurd h.2.1 (by decide), by decide, by decide⟩
  intro m h; simp [only, State.reset, State.setCell] at h

theorem wit_LoadResult :
    Upset.none.passes = true ∧
    (only live).issues 0 (word 1 2 0 4) ⟨⟨.s, .s, .none, im 19 0, true⟩, false, [sId 1, sId 2]⟩ = true ∧
    (only live).issues 0 (word 1 2 0 4) ⟨⟨.v, .s, .none, im 19 0, true⟩, false, [vId 1, sId 2]⟩ = true ∧
    (only live).issues 0 (word 1 2 0 4) ⟨⟨.g, .s, .none, im 20 0, true⟩, false, [sId 2]⟩ = true := by decide

theorem wit_StoreResult :
    ∀ r ∈ storeRows 0 false (word 0 2 3 4) .none ((only live).cell 0), (only live).issues 0 (word 0 2 3 4) r.2.1 = true := by
  simp only [storeRows, List.forall_mem_cons]; decide

/-- `GSET` numbers 7 and 8 are the border of its two clauses. -/
theorem wit_RegisterMoveResult :
    (only live).issues 0 (word 1 2 0 0) ⟨⟨.g, .s, .none, 0, true⟩, false, [sId 2]⟩ = true ∧
    (only live).issues 0 (word 1 2 0 7) ⟨⟨.g, .s, .none, im 3 0, true⟩, false, [sId 2]⟩ = true ∧ immOf (word 1 2 0 7) 3 0 = 7 ∧
    (only live).issues 0 (word 1 2 0 8) ⟨⟨.g, .s, .none, im 3 0, true⟩, false, [sId 2]⟩ = true ∧ 8 ≤ immOf (word 1 2 0 8) 3 0 ∧
    (only live).issues 0 (word 1 2 0 15) ⟨⟨.v, .s, .none, im 3 0, true⟩, false, [vId 1, sId 2]⟩ = true ∧
    (only live).issues 0 (word 1 2 0 15) ⟨⟨.s, .v, .none, im 3 0, true⟩, false, [sId 1, vId 2]⟩ = true ∧
    (only live).issues 0 (word 1 2 0 0) ⟨⟨.v, .v, .none, 0, true⟩, false, [vId 1, vId 2]⟩ = true ∧
    (only live).issues 0 (word 1 2 0 0) ⟨⟨.v, .s, .none, 0, true⟩, false, [vId 1, sId 2]⟩ = true ∧
    (only live).issues 0 (word 1 0 0 0) ⟨⟨.v, .none, .none, 0, true⟩, false, [vId 1]⟩ = true := by decide

/-- A cell with two words in queue 0. -/
def two : Cell := holding live 0 [qw 7 true, qw 8 false]

/-- `PEEK` at place 1 of two words, and at place 2 beyond them. -/
theorem wit_QueueReadResult :
    noneHeld two ∧ noneHeld live ∧
    (only two).issues 0 (word 2 1 0 0) (popShape (word 2 1 0 0) (im 13 0)) = true ∧
    (upsetQueue (only two) .none ((only two).queue 0 (namedQueue ((only two).cell 0) (word 2 1 0 0)))).words = [qw 7 true, qw 8 false] ∧
    ((upsetQueue (only two) (.queueWords [1]) ((only two).queue 0 0)).words.map fun w => w.poison) = [false, true] ∧
    (only live).issues 0 (word 2 1 0 0) (popShape (word 2 1 0 0) (im 13 0)) = true ∧
    ((only live).queue 0 (namedQueue ((only live).cell 0) (word 2 1 0 0))).words = [] ∧
    (only two).issues 0 (word 0 1 0 0x1000000) (popShape (word 0 1 0 0x1000000) (im 13 0 + im 27 24)) = true ∧
    ((only two).queue 0 (namedQueue ((only two).cell 0) (word 2 1 0 0x1000000))).words[immOf (word 2 1 0 0x1000000) 27 24]? = some (qw 8 false) ∧
    (only two).issues 0 (word 2 1 0 0x2000000) (popShape (word 2 1 0 0x2000000) (im 13 0 + im 27 24)) = true ∧
    ((only two).queue 0 (namedQueue ((only two).cell 0) (word 2 1 0 0x2000000))).words.length ≤ immOf (word 2 1 0 0x2000000) 27 24 ∧
    (only two).issues 0 (word 2 1 0 0x80000) ⟨⟨.v, .s, .none, im 13 0 + im 20 18, true⟩, false, [vId 2, sId 1, pId 0, pId 0]⟩ = true ∧
    [qw 7 true, qw 8 false].length < immOf (word 2 1 0 0x80000) 20 18 + 1 := by decide

/-- An operation that holds one word for queue 1. -/
def op1 : PendingOp := { op0 with engine := 0x15, queue := some 1, words := [qw 9 true] }

/-- A cell whose token 3 holds a word for queue 1, which holds its two words. -/
def holder : State :=
  (only { holding live 1 [qw 7 true, qw 8 false] with tok := live.tok.set 3 ⟨0, some op1⟩ }).setReg (celR 0 0x1004) 0x80000001

theorem wit_held :
    (holder.cell 0).feeders = [3] ∧ ((holder.cell 0).tok[(3 : Fin 16).val]).op = some op1 ∧ op1.queue = some (namedQueue (holder.cell 0) (word 2 1 0 1)) ∧
    op1.words = qw 9 true :: [] ∧ holder.issues 0 (word 2 1 0 1) (popShape (word 2 1 0 1) (im 13 0)) = true ∧ (holder.queue 0 1).part = false ∧
    (holder.queue 0 1).words = qw 7 true :: [qw 8 false] ∧ (holder.queue 0 1).words.length = holder.qCap 0 1 ∧
    op1.copies = 0 ∧ (holder.cell 0).oldest op1 = true ∧ holder.clocked = true := by decide

theorem wit_QueueWriteResult :
    (only two).issues 0 (word 2 1 0 0) ⟨⟨.s, .s, .none, im 7 0, true⟩, false, [sId 2, sId 1]⟩ = true ∧
    (only two).issues 0 (word 0 1 0 0) ⟨⟨.none, .s, .none, im 7 0, true⟩, false, [sId 1]⟩ = true ∧
    (let s := queued (only live); let f := word 0 1 2 0x101
     s.issues 0 f ⟨⟨.none, .s, .s, im 8 0, true⟩, bitAt f.b.toNat 0, [sId 1, sId 2, sId 3]⟩ = true ∧ namedQueue (s.cell 0) f = 1 ∧
     s.qLocal 0 1 = true ∧ (s.queue 0 1).words.length + 1 ≤ s.qCap 0 1 ∧ (s.queue 0 1).part = false) ∧
    (let s := queued (only live); let f := word 0 1 2 0x40001
     s.issues 0 f ⟨⟨.none, .s, .v, im 7 0 + im 20 18, true⟩, false, [sId 1, vId 2]⟩ = true ∧ (s.queue 0 1).words.length + 2 ≤ s.qCap 0 1) ∧
    (let s := queued (only live); let f := word 0 1 2 0
     s.issues 0 f ⟨⟨.none, .s, .s, im 8 0, true⟩, bitAt f.b.toNat 0, [sId 1, sId 2, sId 3]⟩ = true ∧ s.qLocal 0 0 = false) ∧
    (queued (only live)).qCap 0 2 = 0 ∧ noneHeld two ∧
    (let s := (only (holding live 1 [qw 1 true, qw 2 false])).setReg (celR 0 0x1004) 0x80000001
     s.qLocal 0 1 = true ∧ 0 < s.qCap 0 1 ∧ s.qCap 0 1 ≤ (s.queue 0 1).words.length) := by decide

/-! ## Witnesses: fabric, steward, hub -/

/-- Every cell has a route. -/
def routed (s : State) : State := { s with disc := { s.disc with routed := BitVec.ofNat 256 (2 ^ 256 - 1) } }

/-- An item from a cell to queue 1 of cell 1. -/
def meshOf (src : Source) (k : Fin 16) (n : Nat) : MeshItem := ⟨src, 1, 1, List.replicate n 7, none, some k, false, false⟩

/-- Clutches 0 to 2 form spiking region 0, whose budget has expired in the open step; v2 holds a spike item. -/
def spiking : State :=
  let s := (opened (routed (only (live.setV 2 0x3000000000000000)))).setReg 0xD0110 7
  { s with step := { s.step with expired := 1 } }

/-- Both rows of `sendRows` start; with three items outside they go on, with four they stall. -/
theorem wit_FabricSendResult :
    (∀ r ∈ sendRows 0 (word 0 1 2 0) ((only live).cell 0), (routed (only live)).starts 0 (word 0 1 2 0) r.2.1 0 = true) ∧
    (routed (only live)).outbound 0 < 4 ∧
    (let s := { only live with mesh := [meshOf (.cell 0) 0 1, meshOf (.cell 0) 1 1, meshOf (.cell 0) 2 1, meshOf (.cell 0) 3 1] }
     (∀ r ∈ sendRows 0 (word 0 1 2 0) (s.cell 0), s.starts 0 (word 0 1 2 0) r.2.1 0 = true) ∧ 4 ≤ s.outbound 0) ∧
    (only live).starts 0 (word 0 1 2 0) ⟨⟨.none, .s, .v, im 13 0 + im 33 30, true⟩, false, [sId 1, vId 2]⟩ 0 = true := by decide

/-- A reduction of cell 0 alone, to which cell 0 has contributed. -/
def joined : Reduction := ⟨1, 0, 3, 1, [(0, 0)], 5⟩

/-- It pends at tag 2 of clutch 0. -/
def reducing : State := State.reset.modClutch 0 fun x => { x with reductions := x.reductions.set 2 (some joined) }

theorem wit_rduceResult : (reducing.clutch 0).reductions[(2 : Fin 16).val] = some joined ∧ reducing.reductionFull 0 joined = true := ⟨rfl, by decide⟩

theorem wit_spiking :
    (∀ r ∈ sendRows 0 (word 0 1 2 0) (spiking.cell 0), spiking.starts 0 (word 0 1 2 0) r.2.1 0 = true) ∧ spiking.outbound 0 < 4 ∧
    spiking.spikeOf 0 [velem ((spiking.cell 0).v 2) 0] = some (0, spiking.step.k) ∧ spiking.step.running = true ∧
    spiking.step.expired.getLsbD (0 : Fin 4).val = true := by decide +kernel

/-- `TOKEN_FREE` with no copy left and with one; an item admitted, refused for want of room, discarded at a local queue, and one longer than the queue. -/
theorem wit_FabricEndResult :
    ((only busy0).cell 0).tok[(0 : Fin 16).val].op = some op0 ∧ op0.copies = 0 ∧ ((only busy0).cell 0).oldest op0 = true ∧ noneHeld busy0 ∧
    (let o := { op0 with copies := 1 }
     ((only { live with tok := live.tok.set 0 ⟨0, some o⟩ }).cell 0).tok[(0 : Fin 16).val].op = some o ∧ 0 < o.copies) ∧
    (let s := { State.reset.setReg (celR 1 0x1004) 1 with mesh := [meshOf (.cell 0) 0 2] }
     s.firstItem (.cell 0) 1 1 s.mesh = some (meshOf (.cell 0) 0 2) ∧ s.clocked = true ∧ s.linkHeld (.cell 0) 1 1 = false ∧ s.qLocal 1 1 = false ∧
     0 < s.qCap 1 1 ∧ (s.queue 1 1).bp = false ∧ (s.queue 1 1).words.length + (meshOf (.cell 0) 0 2).words.length ≤ s.qCap 1 1) ∧
    (let s := { (State.reset.setReg (celR 1 0x1004) 1).setQueue 1 1 { Queue.reset with words := [qw 1 true] } with mesh := [meshOf (.cell 0) 0 2] }
     s.firstItem (.cell 0) 1 1 s.mesh = some (meshOf (.cell 0) 0 2) ∧ s.linkHeld (.cell 0) 1 1 = false ∧ (meshOf (.cell 0) 0 2).words.length ≤ s.qCap 1 1 ∧
     s.qCap 1 1 < (s.queue 1 1).words.length + (meshOf (.cell 0) 0 2).words.length) ∧
    (let s := { State.reset.setReg (celR 1 0x1004) 0x80000001 with mesh := [meshOf (.cell 0) 0 2] }
     s.firstItem (.cell 0) 1 1 s.mesh = some (meshOf (.cell 0) 0 2) ∧ s.linkHeld (.cell 0) 1 1 = false ∧ s.qLocal 1 1 = true) ∧
    (let m : MeshItem := { meshOf (.cell 0) 0 2 with queue := 255 }
     let s := { State.reset with mesh := [m] }; s.firstItem (.cell 0) 1 255 s.mesh = some m ∧ s.linkHeld (.cell 0) 1 255 = false) ∧
    (let s := { State.reset.setReg (celR 1 0x1004) 1 with mesh := [meshOf (.cell 0) 0 3] }
     s.firstItem (.cell 0) 1 1 s.mesh = some (meshOf (.cell 0) 0 3) ∧ s.linkHeld (.cell 0) 1 1 = false ∧ 0 < s.qCap 1 1 ∧
     s.qCap 1 1 < (meshOf (.cell 0) 0 3).words.length) := by decide

/-- Step 5 open with its ridge due. -/
def dueNow (s : State) : State := { opened s with step := { (opened s).step with due := true } }

theorem wit_StewardResult :
    (let r : StatusRec := ⟨1, 0, 5, 9, none⟩
     let s := (only { live with kept := [r] }).setReg (celR 0 0x13FC) 0x10
     s.takeStatus (s.cell 0).kept = some (r, []) ∧ s.clocked = true ∧ (s.queue 0 255).bp = false ∧ (s.queue 0 255).words.length + 2 ≤ s.qCap 0 255) ∧
    (let r : StatusRec := ⟨1, 0, 5, 9, none⟩
     let s := (only { live with kept := [⟨2, 0, 5, 9, some 0⟩, r] }).setReg (celR 0 0x13FC) 0
     s.takeStatus (s.cell 0).kept = some (r, [⟨2, 0, 5, 9, some 0⟩]) ∧ s.qCap 0 255 < (s.queue 0 255).words.length + 2) ∧
    (let s := dueNow (only live)
     (s.cell 0).step = some 5 ∧ (s.cell 0).mode = .running ∧ s.step.running = true ∧ s.step.due = true ∧ 5 = s.step.k ∧ (s.cell 0).dueSeen = false ∧
     (s.cell 0).moultDone = false ∧ s.clocked = true) ∧
    (let s := (only live).modCell 0 fun x => { x with step := some 4 }
     let s := { s with step := { s.step with k := 5 } }; 4 < s.step.k ∧ (s.cell 0).step = some 4) := by decide

/-- A region of three clutches, the fewest that drop and count. -/
theorem wit_HubResult :
    (let s := routed State.reset
     (1 : BitVec 16).getLsbD (0 : Fin 16).val = true ∧ s.hasRoute (cellOf 0 0) = true ∧ s.isHosted (cellOf 0 0) = false ∧
     0x1000 + 7 < s.memLimit (cellOf 0 0) .cwm ∧ s.clocked = true ∧ Ecc.clean ≠ .uncorrectable) ∧
    (let s := (dueNow State.reset).setReg 0xD0110 7
     s.clocked = true ∧ s.step.running = true ∧ s.step.due = true ∧ 3 ≤ s.regionSize (0 : Fin 4).val ∧ s.step.intakeStopped = false) := by decide

theorem wit_RemapResult :
    (let ci : CellImage := ⟨0, [], [], [], [], [⟨0, 0, 0, 0, 0, []⟩]⟩
     let s := { routed (only { Cell.reset with detectedRemap := true }) with slots := { State.reset.slots with active := some ⟨⟨[ci], [], []⟩, 5, 14, 0, false⟩ } }
     (s.cell 0).detectedRemap = true ∧ (s.cell 0).overdue = false ∧ s.siblings 0 ≠ [] ∧ s.cellImage 0 = some ci) := by decide

/-- `ADD` meets each guard at its border: the last instruction under the fetch limit and the first at it, an undefined encoding, a predicate of 0, an awaited register; `POP` names an odd pair. -/
theorem wit_IssueGuards :
    (only live).ready 0 = true ∧ 64 * (only live).fld (celR 0 0x24) 28 16 = 491520 ∧
    (let s := only { live with pc := 61439 }
     s.ready 0 = true ∧ 8 * (s.cell 0).pc.toNat < 64 * s.fld (celR 0 0x24) 28 16) ∧
    (let s := only { live with pc := 61440 }
     s.ready 0 = true ∧ ¬8 * (s.cell 0).pc.toNat < 64 * s.fld (celR 0 0x24) 28 16) ∧
    (scalarShape false (word 1 2 3 1)).form.ok (word 1 2 3 1) = false ∧ (scalarShape false (word 1 2 3 0)).form.ok (word 1 2 3 0) = true ∧
    live.p 0 = true ∧ live.p 1 = false ∧ (popShape (word 1 2 0 0) (im 13 0)).odd = true ∧
    (popShape (word 1 2 0 0) (im 13 0)).form.ok (word 1 2 0 0) = true ∧
    (let x := { live with tok := live.tok.set 0 ⟨0, some { op0 with sregs := [(3, 9)] }⟩ }
     x.awaited.contains (pId 0) = false ∧ ((scalarShape false (word 1 2 3 0)).uses.any fun r => x.awaited.contains r) = true) := by decide

theorem wit_CellFailureResult :
    ((only live).cell 0).removed = false ∧
    (only live).issues 0 (word 1 2 0 4) ⟨⟨.s, .s, .none, im 19 0, true⟩, false, [sId 1, sId 2]⟩ = true ∧
    (∀ r ∈ storeRows 0 false (word 0 2 3 4) (.uncorrectable 1) ((only live).cell 0), (only live).issues 0 (word 0 2 3 4) r.2.1 = true) ∧
    (only live).issues 0 (word 2 1 0 0) (popShape (word 2 1 0 0) (im 13 0)) = true ∧
    ((only live).clocked = true ∧ live.mode = .running ∧ live.step.isSome = true ∧ live.moultDone = false) := by
  simp only [storeRows, List.forall_mem_cons]; decide

/-- Descriptor registers 1 to 3 of a cell. -/
def withG (x : Cell) (a b d : GReg) : Cell := ((x.setG 1 a).setG 2 b).setG 3 d

/-- The cell of step 5 with a stamp map of 4 by 4 sites in g3 and g1. -/
def stamps : Cell := withG live (desc 2 4 4 1 8 0) 0 (desc 2 4 4 1 8 0)

/-- A site inside the map, one outside it (site x 4), a stamp to write and one too old to. -/
theorem wit_SurfaceResult :
    Upset.none.passes = true ∧ stamps.step = some 5 ∧
    (only stamps).starts 0 (word 3 1 2 0) ⟨⟨.g, .s, .s, im 33 30, true⟩, false, [sId 1, sId 2]⟩ 0x10 = true ∧
    stampCodes (descOf (stamps.g 3)) 0 true = [] ∧ stampCodes (descOf (stamps.g 3)) 4 true ≠ [] ∧
    stAge ((only stamps).endOf 5 / 16 % 32768) 0 < 16384 ∧ 16384 ≤ stAge ((only stamps).endOf 5 / 16 % 32768) 16000 ∧
    current ((only stamps).endOf 5 / 16 % 32768) 0 = false ∧ stamps.clearing = false ∧ ({ stamps with clearing := true } : Cell).clearing = true ∧
    (only { stamps with clearing := true }).starts 0 (word 3 1 2 0) ⟨⟨.g, .s, .s, im 33 30, true⟩, false, [sId 1, sId 2]⟩ 0x10 = true ∧
    (only stamps).starts 0 (word 4 1 2 0) ⟨⟨.v, .g, .s, im 33 19, true⟩, false, [vId 4, sId 2, sId 0]⟩ 0x10 = true ∧
    (only stamps).starts 0 (word 4 1 2 0) ⟨⟨.s, .g, .s, im 33 9, true⟩, false, [sId 4, sId 2, pId 0]⟩ 0x10 = true ∧
    (only stamps).starts 0 (word 4 1 2 0) ⟨⟨.v, .g, .s, im 33 10, true⟩, false, [vId 4, sId 2, sId 0]⟩ 0x10 = true := by decide

/-- INT8 maps: an input of 1 site, a weight of 1 tap, an INT32 output. -/
def maps : Cell := withG live (desc 1 1 1 1 8 0) (desc 1 1 1 1 8 64) (desc 3 1 1 1 8 128)

/-- Fields of an array operation with INT8 operands and INT32 output. -/
def arrayWord : Fields := word 3 1 2 (BitVec.ofNat 34 (3 * 2 ^ 14))

theorem wit_ArrayResult :
    (only maps).starts 0 arrayWord ⟨⟨.g, .g, .g, im 33 7, true⟩, false, []⟩ 0x11 = true ∧
    (let ga := descOf (maps.g 1); let gb := descOf (maps.g 2); let gd := descOf (maps.g 3)
     ga.bad = false ∧ gb.bad = false ∧ gd.bad = false ∧ ga.c = gb.c ∧ gd.w * gd.h = ga.w * ga.h ∧ gd.c = gb.w * gb.h ∧
     bankOver arrayWord (ga.w * ga.h * (gb.w * gb.h)) = false ∧ mxBad (immOf arrayWord 25 22) ga = false ∧ mxBad (immOf arrayWord 21 18) gb = false ∧
     arrayFormats (immOf arrayWord 25 22) (immOf arrayWord 21 18) (immOf arrayWord 17 14) (immOf arrayWord 8 7) ga gb gd = [] ∧
     emptyOut ga gb = false ∧ (gd.w : Int) = ga.outW gb ∧ (gd.h : Int) = ga.outH gb ∧ gd.c = gb.n ∧ bankOver arrayWord (gd.w * gd.h * gb.n) = false) ∧
    (only live).starts 0 (word 3 1 2 0) ⟨⟨.g, .g, .g, im 33 7, true⟩, false, []⟩ 0x11 = true ∧ (descOf (live.g 1)).bad = true := by decide

theorem accSum_one (k : Nat) : accSum 48 k (2 ^ 47 - 1) [1] = (2 ^ 47 - 1, 1) := by
  have o : freeOrderOf 1 k [(1 : Int)] = [1] := by simp [freeOrderOf, takeAt, Nat.mod_one]
  rw [accSum, if_neg (by decide)]
  show satSum 48 (2 ^ 47 - 1) (freeOrderOf 1 k [1]) = _
  rw [o]; decide

/-- Both operands are 1, and the bank that `ACCM` 1 adds to holds its largest value. -/
def brimful : State :=
  only { maps with thatch := [(0, 1), (64, 1)], acc := maps.acc.set 0 ⟨[(0, BitVec.ofNat 48 (2 ^ 47 - 1))], none, false⟩ }

/-- A pass whose column 0 does not saturate, and one whose column 0 does, in whatever order it sums. -/
theorem wit_residue :
    (let ga := descOf (maps.g 1); let gb := descOf (maps.g 2); let gd := descOf (maps.g 3)
     let dots := (matDots ga gb).map fun t => ({ t with out := (Int.ofNat (t.out.2.2.2 % gd.w), Int.ofNat (t.out.2.2.2 / gd.w), t.out.2.2.1, 0) } : Dot)
     (only maps).columnSaturates 0 arrayWord ga gb dots 0 = false ∧
     brimful.columnSaturates 0 (word 3 1 2 (BitVec.ofNat 34 (2 ^ 28 + 3 * 2 ^ 14))) ga gb dots 0 = true) ∧
    brimful.starts 0 (word 3 1 2 (BitVec.ofNat 34 (2 ^ 28 + 3 * 2 ^ 14))) ⟨⟨.g, .g, .g, im 33 7, true⟩, false, []⟩ 0x11 = true := by
  refine ⟨⟨by decide, ?_⟩, by decide⟩
  rw [State.columnSaturates, List.any_eq_true]
  refine ⟨_, List.mem_of_getElem? (i := 0) rfl, ?_⟩
  show decide (0 = 0 ∧ 0 < (accSum 48 (Config.freeOrder _) (2 ^ 47 - 1) [1]).2) = true
  rw [accSum_one]; rfl

/-- A delta operation with an INT8 filter in g1 and an INT32 map in g3, sound with activation 1 and unsound with 0; `FCONV` LAST with INT8 maps. -/
theorem wit_DeltaResult :
    (let f := word 3 1 4 0x4; let x := maps
     (only x).starts 0 f ⟨⟨.g, .g, .v, im 33 2, decide (4 < spanRegs 1) || decide (4 + spanRegs 1 ≤ 16)⟩, false, sId 0 :: spanIds f.b 1⟩ 0x11 = true ∧
     spanRegs (descOf (x.g 1)).c = 1 ∧ (descOf (x.g 1)).n = (descOf (x.g 3)).c ∧ deltaFormats (descOf (x.g 1)) (descOf (x.g 3)) (immOf f 3 2) = [] ∧
     deltaFormats (descOf (x.g 1)) (descOf (x.g 3)) (immOf (word 3 1 4 0) 3 2) ≠ []) ∧
    (only maps).starts 0 (word 3 1 4 0x40) ⟨⟨.g, .g, .s, im 33 2, true⟩, false, [sId 4]⟩ 0x14 = true ∧
    deltaFormats (descOf (maps.g 1)) (descOf (maps.g 3)) (immOf (word 3 1 4 0x40) 7 6) = [] ∧ siteC (maps.s 4) < (descOf (maps.g 1)).c ∧
    (let f := word 3 1 2 0xC
     (only maps).starts 0 f ⟨⟨.g, .g, .g, im 33 2, true⟩, false, []⟩ 0x14 = true ∧ immOf f 5 2 = 3 ∧ fmtFits 3 (descOf (maps.g 3)) = true) := by decide

/-- Formats 3 (taken) and 1 (not taken), a shift of an integer format. -/
theorem wit_LaneResult :
    (∀ r ∈ laneRows 0 (word 1 2 3 0xC000000) .none,
      (only live).starts 0 (word 1 2 3 0xC000000) ⟨⟨.v, .v, .v, im 33 26 + (if r.2.1 then im 25 21 else 0), true⟩, false, [vId 1, vId 2, vId 3]⟩ 0x12 = true) ∧
    immOf (word 1 2 3 0xC000000) 29 26 = 3 ∧ isVec 3 = true ∧ isFloat 3 = false ∧ isVec 1 = false ∧ (3 : Nat) ∈ [0, 2, 3] := by
  simp only [laneRows, List.forall_mem_cons]; decide

theorem wit_LaneUnaryResult :
    (∀ m ∈ [im 33 26 + 0, im 33 26 + im 25 21, im 33 22, im 33 26 + im 21 20],
      (only live).starts 0 (word 1 2 0 0xC000000) ⟨⟨.v, .v, .none, m, true⟩, false, [vId 1, vId 2]⟩ 0x12 = true) ∧
    immOf (word 1 2 0 0xC000000) 29 26 = 3 ∧ isVec 7 = true ∧ isFloat 7 = true ∧ immOf (word 1 2 0 0xC300000) 21 20 = 3 := by decide

/-- Sound and unsound operands of each map operation. -/
theorem wit_MapOperationResult :
    (let x := withG live (desc 1 1 1 1 8 0) (desc 1 1 1 1 8 64) (desc 1 1 1 1 8 128); let f := word 3 1 2 0
     let ga := descOf (x.g 1); let gb := descOf (x.g 2); let gd := descOf (x.g 3)
     (only x).starts 0 f ⟨⟨.g, .g, .g, im 33 15, true⟩, false, []⟩ 0x12 = true ∧ emptyOut ga gb = false ∧ ga.c % 1 = 0 ∧ gb.c = 1 ∧ gb.n = ga.c ∧ gd.c = ga.c ∧
     (gd.w : Int) = ga.outW gb ∧ (gd.h : Int) = ga.outH gb ∧ fmtFits 0 ga = true ∧ fmtFits 0 gb = true ∧ fmtFits 0 gd = true) ∧
    (let f := word 3 1 0 0; let ga := descOf (maps.g 1); let gd := descOf (maps.g 3)
     (only maps).starts 0 f ⟨⟨.g, .g, .none, im 33 26, true⟩, false, []⟩ 0x12 = true ∧ ga.bad = false ∧ gd.bad = false ∧ gd.w = ga.w ∧ gd.h = ga.h ∧ gd.c = 1 ∧
     fmtFits 0 ga = true ∧ gd.esize = 3 ∧
     (only maps).starts 0 f ⟨⟨.g, .g, .none, im 33 24, true⟩, false, []⟩ 0x12 = true ∧ gd.c = ga.c ∧ fmtFits 3 gd = true) ∧
    (descOf (live.g 1)).bad = true := by decide

/-- Neuron records of two channels at one site. -/
def neurons : Cell := withG live (desc 1 1 1 1 8 0) (desc 3 1 1 2 8 0) (desc 3 1 1 2 8 0)

theorem wit_NeuronResult :
    (only neurons).starts 0 (word 3 1 4 0) ⟨⟨.g, .g, .s, im 33 25, true⟩, false, [sId 4]⟩ 0x13 = true ∧
    neuronBad (descOf (neurons.g 3)) = false ∧ (descOf (neurons.g 1)).bad = false ∧ (descOf (neurons.g 1)).esize = 1 ∧ siteC (neurons.s 4) < (descOf (neurons.g 1)).c ∧
    (only neurons).starts 0 (word 0 2 4 0) ⟨⟨.none, .g, .s, im 33 10, true⟩, bitAt 4 0, [sId 4, sId 5]⟩ 0x13 = true ∧
    (only neurons).starts 0 (word 0 2 4 0) ⟨⟨.none, .g, .s, im 33 30, true⟩, false, [sId 4]⟩ 0x13 = true ∧
    neuronBad (descOf (neurons.g 2)) = false ∧ neuronBad (descOf (live.g 2)) = true ∧ noneHeld neurons ∧ noneHeld maps := by decide

theorem wit_SkipResult :
    (let f := word 2 1 3 0; let d := descOf (maps.g 1)
     (only maps).starts 0 f ⟨⟨.v, .g, .v, im 33 18 + im 15 0, decide (256 < d.c) || (decide (3 + spanRegs d.c ≤ 16) && decide (2 + spanRegs d.c ≤ 16))⟩, false,
       [sId 0, pId 0] ++ spanIds f.b (min (spanRegs d.c) 4) ++ spanIds f.d (min (spanRegs d.c) 4)⟩ 0x15 = true ∧
     d.bad = false ∧ d.esize = 1 ∧ d.inside (siteX (maps.s 0)) (siteY (maps.s 0)) = true) ∧
    (let f := word 0 1 0 0; (only maps).starts 0 f ⟨⟨.none, .g, .none, im 33 14, true⟩, false, []⟩ 0x15 = true) ∧
    (descOf (live.g 1)).bad = true := by decide

/-- `EADMIT` of 0 quanta is admitted and of 1 refused where none are left. -/
theorem wit_LedgerResult :
    (only live).issues 0 (word 1 0 0 0) ⟨⟨.s, .none, .none, 0, true⟩, false, [sId 1]⟩ = true ∧
    (only live).issues 0 (word 1 2 0 3) ⟨⟨.s, .s, .none, im 2 0, true⟩, false, [sId 1, sId 2, pId 3]⟩ = true ∧
    (let s := only live; (live.s 2).toNat ≤ min 0xFFFFFFFF (s.allowOf 0 - live.spent - live.reserved)) ∧
    (let x := { live.setS 2 1 with spent := 2 ^ 33 }; let s := only x; min 0xFFFFFFFF (s.allowOf 0 - x.spent - x.reserved) < (x.s 2).toNat) := by decide
/-! ## Witnesses: links and the intake -/

/-- Port 0 enabled and receiving, with a time base and these items in its FIFO. -/
def hearing (items : List (List Word)) : State :=
  (State.reset.modPort 0 fun x => { x with mode := .active, rx := true, notb := false, fifo := items, horizon := some 9000 }).setReg (inkP 0 0) 1

/-- A packet of virtual channel 0; bursts on an enabled and on a disabled port; data types 0x2F, 0x32, 3 and 4 beside the borders of their clauses. -/
theorem wit_PacketResult :
    (hearing []).portOn 0 = true ∧ ((hearing []).port 0).rx = true ∧ (hearing []).pwr.point = 0 ∧ (hearing []).bit (inkP 0 0x008) (0 : BitVec 2).toNat = true ∧
    State.reset.portOn 0 = false ∧ ([1, 2, 3, 4] : List Byte).length % 4 = 0 ∧ fifoDepth ((hearing []).port 0).fifo + 4 / 4 ≤ 32768 ∧
    (0x2F : BitVec 6) ≠ 0x30 ∧ (0x2F : BitVec 6) ≠ 0x31 ∧ (0x32 : BitVec 6) ≠ 0x31 ∧ (3 : BitVec 6).toNat < 4 ∧ 4 ≤ (4 : BitVec 6).toNat := by decide

/-- A word of this type with x = 2, y = 3 and the low stamp bits 0. -/
def typed (t : Nat) : Word := BitVec.ofNat 32 (t * 2 ^ 28 + 2 * 2 ^ 11 + 3)

/-- Step 5 open, its ridge due, so that the gate lets steps 5 and 6 through; the time base at 5,500 µs, 6,500 µs and 9,000 µs. -/
def gated (base : Nat) (items : List (List Word)) : State :=
  let s := dueNow (hearing items)
  (s.modPort 0 fun x => { x with baseLo := BitVec.ofNat 28 (base / 64), horizon := none }).setReg (inkP 0 0x200) 0

theorem wit_DecoderResult :
    (∀ n ∈ ([(5504, 5), (6528, 6)] : List (Nat × Nat)), let s := gated n.1 [[typed 0]]
      s.decodes 0 = true ∧ (s.headItem 0).head? = some (typed 0) ∧ (s.port 0).notb = false ∧ s.stampOf 0 (typed 0) / s.period = n.2 ∧
      s.bit (inkP 0 0x200) 16 = false ∧ s.fld (inkP 0 0x200) 9 0 = 0 ∧ s.step.running = true ∧ s.step.k ≤ n.2 ∧
      n.2 ≤ s.step.k + (if s.step.due && !s.step.intakeStopped then 1 else 0) ∧
      2 ≤ s.fld (inkP 0 0x00C) 10 0 ∧ 3 ≤ s.fld (inkP 0 0x00C) 26 16) ∧
    (let s := gated 8960 [[typed 1]]; s.gateStep < s.stampOf 0 (typed 1) / s.period) ∧
    (let s := gated 5504 [[BitVec.ofNat 32 (2000 * 2 ^ 11)]]; s.fld (inkP 0 0x00C) 10 0 < bitsOf (BitVec.ofNat 32 (2000 * 2 ^ 11) : Word).toNat 21 11) ∧
    (let s := hearing [[typed 0]]; s.stampOf 0 (typed 0) < 9000 ∧ (s.port 0).horizon = some 9000) ∧
    (let s := gated 5504 [[typed 2, 0x80000005]]; s.decodes 0 = true ∧ (s.headItem 0).head? = some (typed 2) ∧ (s.headItem 0)[1]? = some 0x80000005 ∧
      typeOf 0x80000005 = 8) ∧
    (let s := gated 5504 [[typed 3]]; s.decodes 0 = true ∧ (s.headItem 0).head? = some (typed 3) ∧ (s.headItem 0)[1]? = none) ∧
    (∀ t ∈ [4, 5, 6, 7, 8, 9, 10, 13, 14, 15], let s := gated 5504 [[BitVec.ofNat 32 (t * 2 ^ 28)]]
      s.decodes 0 = true ∧ (s.headItem 0).head? = some (BitVec.ofNat 32 (t * 2 ^ 28)) ∧ typeOf (BitVec.ofNat 32 (t * 2 ^ 28)) = t ∧ (s.port 0).notb = false) ∧
    ((hearing []).setReg (inkP 0 0x010) 1).bit (inkP 0 0x010) 0 = true ∧ (hearing []).bit (inkP 0 0x010) 0 = false := by decide

theorem wit_WordUpsetResult :
    ∀ t ∈ [0, 1, 2, 3, 4, 5, 7, 8, 9, 14], let w : Word := BitVec.ofNat 32 (t * 2 ^ 28)
      (hearing [[w, 0], [1]]).decodes 0 = true ∧ ((hearing [[w, 0], [1]]).port 0).fifo = (w :: [0]) :: [[1]] ∧ typeOf w = t := by decide

/-- An event at port 0 served by arbitration; an event's items that may be pushed, and that may not with 32 credits used; a port that falls silent. -/
theorem wit_IntakeResult :
    (let s := State.reset.modPort 0 fun x => { x with ready := [.event ⟨2, 3, true, 5500, false⟩] }
     (0 : Fin 16) ∈ s.served ∧ (1 : Fin 16) ∉ s.served ∧ s.served.getLast? = some 0 ∧ (s.port 0).ready = .event ⟨2, 3, true, 5500, false⟩ :: []) ∧
    (let o : OutItem := ⟨1, 1, 0, 0, false⟩
     let s := (routed State.reset).modPort 0 fun x => { x with lanes := [[o]] }
     (s.port 0).lanes = [o] :: [] ∧ s.canPush 0 [o] = true ∧
     (let t := { s with mesh := List.replicate 32 ⟨.port 0, 2, 2, [], none, none, true, false⟩ }; (t.port 0).lanes = [o] :: [] ∧ t.canPush 0 [o] = false)) ∧
    (hearing []).step.intakeStopped = false ∧ ((hearing []).port 0).mode = .active ∧ (State.reset.port 0).mode = .disabled := by decide

/-! ## Witnesses: steps -/

/-- The first step may open at 9,000 µs; the ridge of step 5 may become due at 9,000 µs, the ridge of step 9 may not. -/
theorem wit_StepOpenResult :
    (let s := (hearing []).setReg 0x204 1
     s.horizon = some 9000 ∧ s.bit 0x204 0 = true ∧ s.step.running = false ∧ s.step.intakeStopped = false ∧ s.clocked = true) ∧
    (let s := opened (hearing [])
     s.horizon = some 9000 ∧ s.step.running = true ∧ s.step.due = false ∧ s.step.intakeStopped = false ∧ s.clocked = true ∧ s.fatal = false ∧
     (s.step.k + 1) * s.period ≤ 9000 ∧ s.intakePushed s.step.k = true ∧
     (let t := { s with step := { s.step with k := 9 } }; t.horizon = some 9000 ∧ 9000 < (t.step.k + 1) * t.period)) := by decide

/-- No cell of the reset machine takes part in a ridge. -/
theorem reset_cellsLeft (s : State) (h : s.cells = State.reset.cells) : s.cellsLeft = [] := by
  simp [State.cellsLeft, State.cell, h, State.reset, Cell.reset]

/-- With no cell taking part the ridge closes; with cell 0 at step 5 it does not. -/
theorem wit_RidgeCloseResult :
    (let s := dueNow State.reset
     s.step.running = true ∧ s.step.due = true ∧ s.clocked = true ∧ s.fatal = false ∧ s.delivHeld = false) ∧
    (dueNow State.reset).cellsLeft = [] ∧ (dueNow (only { live with participates := true })).cellsLeft ≠ [] :=
  ⟨by decide, reset_cellsLeft _ rfl, List.ne_nil_of_mem (a := 0) (List.mem_filter.mpr ⟨List.mem_finRange _, by decide⟩)⟩

/-- A spike item of the open step in the mesh of a region of two clutches, which holds the ridge back. -/
def stuck : State := { (dueNow State.reset).setReg 0xD0110 3 with mesh := [⟨.cell 0, 1, 1, [0], some (0, 5), none, false, false⟩] }

theorem wit_WatchdogResult :
    (let s := dueNow (only { live with participates := true })
     (s.step.running = true ∧ s.step.due = true ∧ s.clocked = true ∧ s.fatal = false ∧ s.step.intakeStopped = false) ∧
     ∃ c rest, s.cellsLeft = c :: rest ∧ (s.cell c).removed = false) ∧
    (dueNow State.reset).cellsLeft = [] ∧ (dueNow State.reset).stuckRegions = [] ∧ stuck.cellsLeft = [] ∧ (0 : Fin 4) ∈ stuck.stuckRegions ∧
    (let s := { State.reset with step := { State.reset.step with hbPend := 1 } }; 0 < s.step.hbPend) ∧ State.reset.step.hbPend = 0 := by
  refine ⟨⟨by decide, ?_⟩, reset_cellsLeft _ rfl, by decide, reset_cellsLeft _ rfl, by decide, by decide, by decide⟩
  obtain ⟨c, rest, h⟩ := List.exists_cons_of_ne_nil wit_RidgeCloseResult.2.2
  have hc := List.mem_filter.mp (h ▸ List.mem_cons_self : c ∈ (dueNow (only { live with participates := true })).cellsLeft)
  simp only [Bool.and_eq_true, Bool.not_eq_true'] at hc
  exact ⟨c, rest, h, hc.2.1.2⟩

/-! ## Witnesses: motion, Fusion, tracking, Scene Memory -/

/-- A motion frame with this first word. -/
def frameOf (w : DWord) : List FifoWord := [⟨w, true, false⟩, ⟨0, false, false⟩, ⟨0, false, false⟩, ⟨0, false, false⟩]

/-- A frame in the FIFO of motion port 0. -/
def moving (w : DWord) : State := State.reset.setMot 0 ⟨frameOf w, false⟩

theorem wit_MotionResult :
    (let s := State.reset.setReg (motP 0 0) 1; s.clocked = true ∧ s.bit (motP 0 0) 0 = true) ∧ State.reset.bit (motP 0 0) 0 = false ∧
    (∀ r ∈ [(0x1000000000000000, 1), (0x2000000000000000, 2), (0xE000000000000000, 14)], let s := moving r.1
      s.clocked = true ∧ (s.mot 0).fifo.take 4 ≠ [] ∧ frameType ((s.mot 0).fifo.take 4) = r.2 ∧ s.bit 0x40100 31 = false) ∧
    (let s := (moving 0x1000000000000000).setReg 0x40100 0x80000100
     s.bit 0x40100 31 = true ∧ s.fld 0x40100 9 8 = 1 ∧ s.fld 0x40100 1 0 = (0 : Fin 4).val ∧ s.ego.knots = []) ∧
    (State.reset.mot 0).fifo.take 4 = [] ∧ (asleepAt (moving 0)).clocked = false := by decide

/-- Wherever the stamp of a frame is completed, a first knot can lie behind it. -/
theorem wit_early_frame : ∃ s : State, s.ego.knots ≠ [] ∧ (s.motFrame false (frameOf 0) .clean).stamp < s.ego.first * 125 :=
  ⟨let m := (moving 0).motFrame false (frameOf 0) .clean
   { moving 0 with ego := { (moving 0).ego with knots := [⟨⟨0, 0, 0, 0⟩, ⟨0, 0, 0⟩, ⟨0, 0, 0⟩, ⟨0, 0, 0⟩⟩], first := m.stamp + 1 } }, by simp, by
    show ((moving 0).motFrame false (frameOf 0) .clean).stamp < (((moving 0).motFrame false (frameOf 0) .clean).stamp + 1) * 125
    omega⟩

/-- An item of cell step 5 in queue 250, taken in step 5 and not in step 4. -/
theorem wit_BridgeResult :
    (let s := opened (only (holding live 250 [qw 7 true, qw 8 false]))
     (s.queue 0 250).words = qw 7 true :: [qw 8 false] ∧ s.clocked = true ∧ (s.cell 0).removed = false ∧ s.step.running = true ∧
     (qw 7 true).step.getD s.step.k ≤ s.step.k ∧
     (let t := { s with step := { s.step with k := 4 } }; t.step.k < (qw 7 true).step.getD t.step.k)) ∧
    (let s := only (holding live 249 [qw 7 true]); (s.queue 0 249).words = qw 7 true :: [] ∧ s.clocked = true ∧ (s.cell 0).removed = false ∧
      s.step.running = false) ∧ (State.reset.queue 0 250).words = [] := by decide

/-- Fusion's inbox holds one item; port 0 has a focal length of 1 and looks at the origin. -/
def fused (ws : List DWord) : State :=
  let s := State.reset.modPort 0 fun x => { x with active := { x.active with calrec := [(4, 0x3F800000), (5, 0x3F800000)] } }
  { s with fus := { s.fus with inbox := [⟨0, 0, ws⟩] } }

/-- The first word of an item of this kind from port 0 with a range of 1 mm. -/
def kindWord (k : Nat) : DWord := BitVec.ofNat 64 (k * 2 ^ 60 + 1)

set_option exponentiation.threshold 400 in
theorem wit_FusionItemResult :
    (fused [kindWord 4, 0, 1, 2]).fus.inbox = ⟨0, 0, [kindWord 4, 0, 1, 2]⟩ :: [] ∧
    itemKind [kindWord 4, 0, 1, 2] = 4 ∧ itemKind [kindWord 3] ≠ 4 ∧ itemKind [kindWord 5, 0, 9] = 5 ∧ itemKind [kindWord 6, 0, 1, 2] = 6 ∧ itemKind [kindWord 7, 0, 1, 2] = 7 ∧
    (((fused [kindWord 4, 0, 1, 2]).placeItem [kindWord 4, 0, 1, 2]).bind (fused []).gridCell).isSome = true ∧
    State.reset.placeItem [kindWord 4, 0, 1, 2] = none ∧
    (((fused [kindWord 5, 0, 9]).placeItem [kindWord 5, 0, 9]).bind ((fused []).sectorAt ((fused []).endOf 0))).isSome = true ∧
    State.reset.placeItem [kindWord 5, 0, 9] = none ∧ (assocGet State.reset.trk.obs [] 0).length < 8192 ∧
    ((fused [kindWord 7, 0, 1, 2]).placeItem [kindWord 7, 0, 1, 2]).isSome = true ∧ State.reset.placeItem [kindWord 7, 0, 1, 2] = none := by decide

/-- The buffer of a step at its border: 8,192 observations are too many for one more. -/
theorem wit_observations_full (o : Obs) :
    8192 ≤ (assocGet { State.reset.trk with obs := [(0, List.replicate 8192 o)] }.obs [] 0).length := by
  show 8192 ≤ (List.replicate 8192 o).length
  exact Nat.le_of_eq List.length_replicate.symm

theorem wit_ZonePinResult :
    (let s := State.reset.setReg 0xB0400 0; s.attnCause = true) ∧
    (let s := (List.range 16).foldl (fun t z => State.setReg t (0xB0400 + 4 * z) 1) State.reset; s.attnCause = false) ∧
    (let s := { opened State.reset with step := { (opened State.reset).step with closed := some (4, 5000) } }
     s.clocked = true ∧ s.step.closed.isSome = true ∧ s.fus.stale = false) ∧ State.reset.step.closed = none := by decide

/-- A token item of 15 words in the inbox of an enabled Scene Memory that takes 16 tokens a step. -/
def scened (n : Nat) (enabled : Word) : State :=
  let s := ((fused []).setReg 0x70000 enabled).setReg 0x70008 16
  { s with scm := { s.scm with inbox := [⟨0, 0, kindWord 8 :: List.replicate n 0⟩] } }

theorem wit_TokenItemResult :
    (∀ r ∈ [(14, (1 : Word)), (14, 0), (13, 1)], let s := scened r.1 r.2
      s.clocked = true ∧ s.scm.inbox = ⟨0, 0, kindWord 8 :: List.replicate r.1 0⟩ :: [] ∧ s.isPartial ⟨0, 0, kindWord 8 :: List.replicate r.1 0⟩ = false) ∧
    (kindWord 8 :: List.replicate 13 (0 : DWord)).length ≠ 15 ∧ State.reset.scm.inbox.head? = none ∧
    (let s := scened 14 1
     s.scmOn = true ∧ s.scm.erasing = false ∧ assocGet s.scm.taken 0 0 < s.fld 0x70008 15 0 ∧ itemKind (kindWord 8 :: List.replicate 14 0) = 8 ∧
     (kindWord 8 :: List.replicate 14 (0 : DWord)).length = 15 ∧ (s.placeItem (kindWord 8 :: List.replicate 14 0)).isSome = true) ∧
    State.reset.placeItem (kindWord 8 :: List.replicate 14 0) = none ∧ (scened 14 0).scmOn = false := by decide
/-! ## Witnesses: host registers -/

/-- Port 0 up, holding the first four semaphores. -/
def linked : State :=
  let s := [(0 : Fin 64), 1, 2, 3].foldl (fun t n => t.setSem n ⟨some 0, 0, 0⟩) State.reset
  s.modHost 0 fun x => { x with up := true, bme := true, gen := 1 }

/-- A register of fields, a counter, a semaphore, a status register and a ridge copy; an offset without a register; a hosted window; a port without the guard. -/
theorem wit_RegisterWriteResult :
    regRow? 0x202 = none ∧ (State.reset.host 0).up = false ∧ reaches linked 0 0x200 ∧ linked.inHosted 0x200 = false ∧
    ((regRow? 0x200).elim false guarded = true ∧ linked.holds 0 (guardOf 0x200) = true ∧ linked.act 0 0x200 5 = none ∧
      State.reset.holds 0 (guardOf 0x200) = false) ∧
    ((regRow? 0x80).elim false fun r => r.kind == .cnt) = true ∧ mayWrite linked 0 0x80 ∧
    ((regRow? 0x400).isSome = true ∧ reaches linked 0 0x400 ∧ (linked.sem 0).owner = some 0 ∧ (linked.sem 9).owner ≠ some 0) ∧
    ((regRow? 0x208).elim false fun r => r.kind == .plain && r.cfg + r.ctl + r.enb == 0) = true ∧
    ((regRow? 0x10080).elim false fun r => r.kind != .plain && r.kind != .cnt) = true ∧
    (let s := linked.setCell 1 (hostedCell 0); s.inHosted (celR 1 0) = true ∧ reaches s 0 (celR 1 0)) ∧
    (let s := asleepAt linked; s.asleep 0x20100 = true ∧ s.pwr.entry = none ∧ (s.host 0).up = true ∧ s.sec.halted = false) ∧
    (let s := linked.modHost 0 fun x => { x with late := [(0x200, 15, 1)] }; (s.host 0).late ≠ [] ∧ s.asleep 0x200 = false) := by decide

theorem wit_SwitchResult :
    mayWrite linked 0 0x204 ∧ mayWrite linked 0 (celR 0 0) ∧ linked.isHosted 0 = false ∧ (linked.cell 0).mode = .stopped ∧ linked.bit (celR 0 0) 0 = false ∧
    ((linked.setCell 0 live).cell 0).mode = .running ∧ mayWrite linked 0 (inkP 0 0) ∧ linked.portOn 0 = false ∧
    (linked.setReg (inkP 0 0) 1).portOn 0 = true ∧ mayWrite (linked.setReg (inkP 0 0) 1) 0 (inkP 0 0) := by decide

theorem wit_TableSwapResult :
    mayWrite linked 0 0x20104 ∧ linked.inkSwap.busy = false ∧ linked.step.running = false ∧ (opened linked).step.running = true ∧
    ({ linked with inkSwap := ⟨true, 5, 1, false, 0⟩ } : State).inkSwap.busy = true ∧ ({ linked with inkSwap := ⟨false, 5, 1, false, 1⟩ } : State).inkSwap.busy = true ∧
    mayWrite linked 0 0x50024 ∧ linked.fusSwap.busy = false ∧ ({ linked with fusSwap := ⟨true, 5, 1, false, 0⟩ } : State).fusSwap.busy = true ∧
    mayWrite linked 0 0x50030 := by decide

/-- A region of the reset geometry fits an available memory of as many 64 MiB parts, not of none. -/
theorem wit_SceneControlResult :
    mayWrite linked 0 0x70000 ∧ linked.scmOn = false ∧ linked.regionSize' ≤ 48 * 2 ^ 30 ∧ 0 < linked.regionSize' ∧ linked.scm.avail = 0 ∧
    (let s := { linked with scm := { linked.scm with avail := 2 ^ 20 } }; mayWrite s 0 0x70000 ∧ s.regionSize' ≤ s.scm.avail * 2 ^ 26) ∧
    (linked.setReg 0x70000 1).scmOn = true ∧ mayWrite (linked.setReg 0x70000 1) 0 0x70000 ∧ mayWrite linked 0 0x70020 ∧ mayWrite linked 0 0x70004 ∧
    ({ linked with scm := { linked.scm with erasing := true } } : State).clocked = true ∧
    (let old := linked.reg 0x70004
     old &&& 0x0F1FFFFF = old ∧ linked.legal 0x70004 old.toNat 0 = false ∧ Nat.land 0 0x0F1FFFFF ≠ Nat.land old.toNat 0x0F1FFFFF ∧
     linked.legal 0x70004 old.toNat (old.toNat + 0x1000000) = true ∧ Nat.land (old.toNat + 0x1000000) 0x0F1FFFFF ≠ Nat.land old.toNat 0x0F1FFFFF) := by decide

/-- Counts at the size of a ring and one beyond it. -/
theorem wit_MailboxResult :
    ((linked.host 0).up = true ∧ linked.sec.halted = false ∧ (linked.host 0).late = []) ∧ ((16 : Word) - (linked.host 0).fetched).toNat ≤ linked.ringSize 0 0 ∧
    linked.ringSize 0 0 < ((17 : Word) - (linked.host 0).fetched).toNat ∧
    (linked.ringP 0 1 - 0xFFFF0000).toNat ≤ linked.ringSize 0 1 ∧ linked.ringSize 0 1 < (linked.ringP 0 1 - 0xFFFEFFFF).toNat ∧
    (let s := linked.modHost 0 fun x => { x with mbx := { x.mbx with capturing := true, sel := 0x200 } }
     (s.host 0).mbx.capturing = true ∧ (s.host 0).mbx.sel = 0x200) ∧ (linked.host 0).mbx.capturing = false ∧
    (linked.sem 9).owner = none ∧ (linked.sem 0).owner = some 0 ∧ (linked.sem 0).lease = 0 ∧
    (let s := linked.setSem 0 ⟨some 0, 1, 0⟩; (s.sem 0).owner.isSome = true ∧ (s.sem 0).lease ≠ 0 ∧ (s.sem 0).left = 0) := by decide

/-- A descriptor of this code, with tag 7, timeout t and three operands. -/
def desc8 (op t a b c : Nat) : Descriptor := #v[BitVec.ofNat 64 (op * 2 ^ 56 + 7 * 2 ^ 32 + t), BitVec.ofNat 64 a, BitVec.ofNat 64 b, BitVec.ofNat 64 c, 0, 0, 0, 0]

/-- An open step with a CELL item for ring 2 of port 0. -/
def celled : State :=
  let s := opened ((((linked.setReg (hifR 0 0) 1).setReg (hifR 0 0x1028) 0x82000000).setCell 0 (holding live 248 [qw (9 * 2 ^ 60 + 2 * 2 ^ 52) true, qw 1 false])))
  s

theorem wit_LinkResult :
    (linked.host 0).up = true ∧ (linked.host 1).up = false ∧ ¬(linked.pwr.state = 3 ∨ (linked.pwr.committed = true ∧ linked.pwr.entry = some 3)) ∧
    linked.sec.halted = false ∧
    (let s := linked.modHost 0 fun x => { x with cmd := some ⟨8, 7, desc8 8 50 0 0 0, false, [], none, 0⟩, fetched := 3, started := 1, gone := [2] }
     (s.host 0).cmd = some ⟨8, 7, desc8 8 50 0 0 0, false, [], none, 0⟩ ∧ timeoutOf (desc8 8 50 0 0 0) ≠ 0 ∧ timeoutOf (desc8 8 0 0 0 0) = 0 ∧
     (0 < ((s.host 0).fetched - (s.host 0).started).toNat ∧ (s.host 0).started + BitVec.ofNat 32 0 ∉ (s.host 0).gone) ∧
     (s.host 0).started + BitVec.ofNat 32 1 ∈ (s.host 0).gone ∧ ¬2 < ((s.host 0).fetched - (s.host 0).started).toNat) ∧
    (celled.queue 0 248).words = qw (9 * 2 ^ 60 + 2 * 2 ^ 52) true :: [qw 1 false] ∧
    (celled.clocked = true ∧ celled.outHeld = false ∧ (celled.cell 0).removed = false ∧ celled.step.running = true) ∧
    2 ≤ celled.ringKind 0 2 ∧ celled.ringOn 0 2 = true ∧ (celled.host 0).stagedBytes = 0 ∧ celled.ringOn 1 2 = false ∧
    (let s := celled.modHost 0 fun x => { x with stagedBytes := 67108864 }; 67108864 < (s.host 0).stagedBytes + 8 * (2 + 2)) := by decide

/-! ## Witnesses: host commands -/

/-- Host memory reads nothing, and no error is met. -/
def noInput : CmdInputs := ⟨none, none, none, .clean, []⟩

/-- A descriptor of each code that passes the checks of its row. -/
def good : List Descriptor :=
  [desc8 0 0 0 0 0, desc8 1 0 0 1024 0, desc8 2 0 0 0 0, desc8 3 0 0 0 0, desc8 4 0 5 0 0, desc8 5 0 500 0 0, desc8 6 0 0x10001 0 0,
   desc8 7 0 2 0 (2 ^ 32), desc8 8 0 0 0 2097152, desc8 9 0 (2 ^ 16 + 2 ^ 48) 0 0, desc8 10 0 0 0 1720, desc8 11 0 1 0 0, desc8 12 0 0 0 544]

/-- Port 0 may fetch one descriptor, and firmware runs. -/
def fetching : State :=
  let s := ((linked.setReg (hifR 0 0) 1).setReg (hifR 0 0x1008) 0x80000000).setReg (hifR 0 0x100C) 1
  { s with sec := { s.sec with running := true } }

/-- Every row is accepted; each check refuses somewhere: a reserved bit, a budget of 499, no guard, firmware not running. -/
theorem wit_CommandChecks :
    ((List.range 13).all fun n => good[n]?.elim false fun d => (commandRows 0 d noInput)[n]?.elim false fun r =>
      opOf' d == n && r.2.1.code == n && reservedOk d r.2.1.masks && r.2.2 && r.2.1.guard.all fun g => decide (g.val < 3)) = true ∧
    (hasTurn fetching 0 ∧ fetching.hostBoot = false ∧ fetching.holds 0 none = true ∧ ∀ g : Fin 3, fetching.holds 0 (some ⟨g.val, by omega⟩) = true) ∧
    good.length = 13 ∧ (commandRows 0 (desc8 0 0 0 0 0) noInput).length = 13 ∧ State.reset.sec.running = false ∧ ¬hasTurn State.reset 0 ∧
    reservedOk (desc8 2 0 1 0 0) [] = false ∧
    ((commandRows 0 (desc8 5 0 499 0 0) noInput)[5]?.elim true fun r => r.2.2) = false ∧
    ((commandRows 0 (desc8 5 0 45000 0 0) noInput)[5]?.elim false fun r => r.2.2) = true ∧
    ((commandRows 0 (desc8 5 0 45001 0 0) noInput)[5]?.elim true fun r => r.2.2) = false ∧
    (fetching.setSem 0 ⟨none, 0, 0⟩).holds 0 (some 0) = false ∧
    (let s := { fetching with sec := { fetching.sec with running := false }, disc := { fetching.disc with boot := 4 } }; hasTurn s 0 ∧ s.hostBoot = true) ∧
    (let s := fetching.modHost 0 fun x => { x with fetched := 1 }
     s.sec.running = true ∧ (s.host 0).cmd = none ∧ (s.host 0).started ≠ (s.host 0).fetched ∧ (s.host 0).started ∉ (s.host 0).gone) ∧
    opOf' (desc8 13 0 0 0 0) = 13 := by
  refine ⟨?_, by decide, by decide, by decide, by decide, by decide, by decide, by decide, by decide, by decide, by decide, by decide, by decide, by decide⟩
  decide

theorem row_accepted (s : State) (hp : Fin 2) (d : Descriptor) (x : CmdInputs) (n : Nat) (r : Instr × CmdForm × Bool)
    (h : (commandRows hp d x)[n]? = some r) (a : accepted s hp d r.2.1 r.2.2) : acceptedRow s hp d x r.1 := ⟨r, List.mem_of_getElem? h, rfl, a⟩

/-- An unsigned container of this kind and payload. -/
def container (kind : Nat) (p : Payload) : Container where
  size := 1024
  head := (Vector.replicate 32 0).set 0 (BitVec.ofNat 64 (0x44525831 * 2 ^ 32 + kind * 2 ^ 24 + 14))
  modHash := 0
  modSigZero := true
  sigOk := true
  phashOk := true
  decOk := true
  digest := 5
  payload := p
/-- Memory and Scene Memory ready, no swap pending. -/
def prepared : State := { fetching with disc := { fetching.disc with ready := 0x7F } }

/-- An image in a program slot. -/
def slot0 : Slot := ⟨⟨[], [], []⟩, 5, 14, 0, false⟩

/-- An image is staged. -/
def staged : State := { prepared with slots := { prepared.slots with staged := some slot0 } }

/-- An unlock at level 2 that a challenge has been drawn for, signed by the maker. -/
def unlocking : Container :=
  { container 4 (.unlock 9 Config.serial 2 true) with
    size := 1088, modHash := Config.debugKeyHash, head := ((Vector.replicate 32 0).set 0 (BitVec.ofNat 64 (0x44525831 * 2 ^ 32 + 4 * 2 ^ 24 + 15))).set 1 64 }

/-- Firmware signed by the maker. -/
def firmware : Container :=
  { container 3 (.firmware 7) with modHash := Config.vendorKeyHash, head := (Vector.replicate 32 0).set 0 (BitVec.ofNat 64 (0x44525831 * 2 ^ 32 + 3 * 2 ^ 24 + 15)) }

/-- The ROM waits for firmware from a host. -/
def romWaits : State := { fetching with sec := { fetching.sec with running := false }, disc := { fetching.disc with boot := 4 } }

/-- Measurement 3 is recomputed, and the other port's ATTEST waits for it. -/
def attesting (s : State) : State :=
  ({ s with sec := { s.sec with busyInk := true } }).modHost 1 fun x => { x with cmd := some ⟨10, 1, desc8 10 0 0 0 1720, false, [], none, 0⟩ }

/-- Containers taken and refused: an image, one of a wrong size, enrolments with OP 1 to 3, firmware, an unlock; a swap with and without a staged image, with a step open that the descriptor allows or not. -/
theorem wit_ImageCommands :
    acceptedRow prepared 0 (desc8 1 0 0 1024 0) noInput (.loadImage 0 (desc8 1 0 0 1024 0) none .clean) ∧
    acceptedRow romWaits 0 (desc8 1 0 0 1024 0) { noInput with img := some firmware } (.loadImage 0 (desc8 1 0 0 1024 0) (some firmware) .clean) ∧
    acceptedRow staged 0 (desc8 4 0 5 0 0) noInput (.swapSlot 0 (desc8 4 0 5 0 0) .clean []) ∧
    acceptedRow (opened staged) 0 (desc8 4 0 5 0 0) noInput (.swapSlot 0 (desc8 4 0 5 0 0) .clean []) ∧
    (prepared.hostBoot = false ∧ romWaits.hostBoot = true ∧ romWaits.sec.trngFail = false ∧ fetching.hostBoot = false ∧ fetching.disc.ready.getLsbD 2 = false ∧
    prepared.disc.ready.getLsbD 2 = true ∧ prepared.slots.swap = none ∧ rsaFree prepared 0 ∧ hasTurn (attesting prepared) 0 ∧ (attesting prepared).mbusy = true ∧
    (attesting prepared).rsaCmd (peer 0) = some ⟨10, 1, desc8 10 0 0 0 1720, false, [], none, 0⟩ ∧
    prepared.refusedFor (container 1 (.image ⟨[], [], []⟩)) 1024 = none ∧ prepared.refusedFor (container 1 (.image ⟨[], [], []⟩)) 1025 = some 3 ∧
    prepared.refusedFor (container 2 (.enrol 3 1 1 1 true)) 1024 = none ∧ prepared.refusedFor (container 2 (.enrol 4 1 1 1 true)) 1024 = some 3 ∧
    prepared.refusedFor (container 2 (.enrol 0 2 0 0 true)) 1024 = some 3 ∧
    firmware.kind = 3 ∧ (container 1 (.image ⟨[], [], []⟩)).kind ≠ 3 ∧ prepared.hostBoot = false) ∧
    staged.slots.swap = none ∧ staged.slots.staged = some slot0 ∧ prepared.slots.staged = none ∧ staged.step.running = false ∧ (opened staged).step.running = true ∧
    bitAt (descWord (desc8 4 0 5 0 0) 1) 32 = false ∧ bitAt (descWord (desc8 4 0 (2 ^ 32 + 5) 0 0) 1) 32 = true ∧
    ({ staged with slots := { staged.slots with swap := some (1, 9) } } : State).slots.swap.isSome = true :=
  ⟨row_accepted _ _ _ _ 1 _ rfl (by decide), row_accepted _ _ _ _ 1 _ rfl (by decide), row_accepted _ _ _ _ 4 _ rfl (by decide),
    row_accepted _ _ _ _ 4 _ rfl (by decide), by decide, rfl, rfl, rfl, rfl, rfl, by decide, by decide, rfl⟩

theorem wit_vendor_image : prepared.refusedFor firmware 1024 = none ∧ romWaits.refusedFor firmware 1024 = none ∧
    ({ prepared with sec := { prepared.sec with challenge := some 9 } } : State).refusedFor unlocking 1088 = none := by
  have v : vendorOk firmware = true ∧ vendorOk unlocking = true := by
    refine ⟨?_, ?_⟩ <;> rw [vendorOk, Bool.and_eq_true, beq_iff_eq, beq_iff_eq]
    · exact ⟨by decide, (if_neg (by decide)).symm⟩
    · exact ⟨by decide, (if_pos (by decide)).symm⟩
  have f : ∀ x : Security, x.signerOk firmware = true := fun x => by
    show (vendorOk firmware && (!firmware.enc || decide (firmware.signer.toNat < 4))) = true
    rw [v.1]; decide
  have u : ∀ x : Security, x.signerOk unlocking = true := fun x => by
    show (vendorOk unlocking && (!unlocking.enc || decide (unlocking.signer.toNat < 4))) = true
    rw [v.2]; decide
  have k : ∀ s : State, s.sec.challenge = some 9 → s.kindRefused unlocking = none := fun s hs => by
    show (if unlocking.length != 64 || !true || !((2 : Byte) == 1 || (2 : Byte) == 2) then some 3
      else if s.sec.challenge == some 9 && Config.serial == Config.serial then none else some 1) = none
    rw [if_neg (by decide), hs, beq_self_eq_true, beq_self_eq_true]; rfl
  refine ⟨?_, ?_, ?_⟩ <;> rw [State.refusedFor, if_neg (by decide), if_neg (by decide)]
  · rw [f, if_neg (by decide)]; rfl
  · rw [f, if_neg (by decide)]; rfl
  · rw [u, if_neg (by decide), k _ rfl]

/-- An image of cell 0 in the active slot, its clutch in service. -/
def startable : State :=
  (({ fetching with slots := { fetching.slots with active := some { slot0 with image := ⟨[⟨0, [], [], [], [], []⟩], [], []⟩ } } } : State).modClutch 0 fun x =>
    { x with inService := true })

theorem wit_StepCommands :
    acceptedRow startable 0 (desc8 2 0 0 0 0) noInput (.cmdStart 0 (desc8 2 0 0 0 0)) ∧
    acceptedRow fetching 0 (desc8 2 0 0 0 0) noInput (.cmdStart 0 (desc8 2 0 0 0 0)) ∧
    acceptedRow (opened fetching) 0 (desc8 3 0 0 0 0) noInput (.cmdStop 0 (desc8 3 0 0 0 0)) ∧
    acceptedRow startable 0 (desc8 3 0 0 0 0) noInput (.cmdStop 0 (desc8 3 0 0 0 0)) ∧
    acceptedRow fetching 0 (desc8 5 0 500 0 0) noInput (.setBudget 0 (desc8 5 0 500 0 0)) ∧
    acceptedRow fetching 0 (desc8 6 0 0x10001 0 0) noInput (.setPl 0 (desc8 6 0 0x10001 0 0)) ∧
    startable.slots.active.isSome = true ∧ (startable.clutch 0).inService = true ∧ (0 : Fin 256) ∈ startable.imageCells ∧ (startable.cell 0).mode = .stopped ∧
    startable.bit (celR 0 0) 0 = false ∧ fetching.slots.active = none ∧ (opened fetching).step.running = true ∧ startable.step.running = false ∧
    bitAt (descWord (desc8 6 0 0x10001 0 0) 1) (16 + 0) = true ∧ bitAt (descWord (desc8 6 0 0x10001 0 0) 1) (16 + 1) = false :=
  ⟨row_accepted _ _ _ _ 2 _ rfl (by decide), row_accepted _ _ _ _ 2 _ rfl (by decide), row_accepted _ _ _ _ 3 _ rfl (by decide),
    row_accepted _ _ _ _ 3 _ rfl (by decide), row_accepted _ _ _ _ 5 _ rfl (by decide), row_accepted _ _ _ _ 6 _ rfl (by decide),
    rfl, by decide, by decide, by decide, by decide, rfl, rfl, rfl, by decide, by decide⟩

/-- Scene Memory enabled, with clutch 0 for retrievals. -/
def retrieving : State := (prepared.setReg 0x70000 1).setReg 0x70014 1

theorem wit_DataCommands :
    acceptedRow fetching 0 (desc8 7 0 2 0 (2 ^ 32)) { noInput with words := some [7] } (.tableWrite 0 (desc8 7 0 2 0 (2 ^ 32)) (some [7])) ∧
    acceptedRow { fetching with inkSwap := ⟨true, 5, 1, false, 0⟩ } 0 (desc8 7 0 2 0 (2 ^ 32)) noInput (.tableWrite 0 (desc8 7 0 2 0 (2 ^ 32)) none) ∧
    acceptedRow fetching 0 (desc8 7 0 5 0 (2 ^ 32)) noInput (.tableWrite 0 (desc8 7 0 5 0 (2 ^ 32)) none) ∧
    acceptedRow fetching 0 (desc8 8 0 0 0 2097152) noInput (.snapshot 0 (desc8 8 0 0 0 2097152)) ∧
    acceptedRow retrieving 0 (desc8 9 0 (2 ^ 16 + 2 ^ 48) 0 0) { noInput with bytes := some [] } (.retrieve 0 (desc8 9 0 (2 ^ 16 + 2 ^ 48) 0 0) (some [])) ∧
    acceptedRow fetching 0 (desc8 9 0 (2 ^ 16 + 2 ^ 48) 0 0) noInput (.retrieve 0 (desc8 9 0 (2 ^ 16 + 2 ^ 48) 0 0) none) ∧
    acceptedRow fetching 0 (desc8 10 0 0 0 1720) { noInput with bytes := some [] } (.attest 0 (desc8 10 0 0 0 1720) (some [])) ∧
    acceptedRow fetching 0 (desc8 12 0 2 0 0) noInput (.cmdQuery 0 (desc8 12 0 2 0 0)) ∧
    (fetching.inkSwap.busy = false ∧ fetching.fusSwap.busy = false ∧ retrieving.disc.ready.getLsbD 5 = true ∧ fetching.disc.ready.getLsbD 5 = false ∧
      retrieving.scm.erasing = false ∧ retrieving.scmOn = true ∧ retrieving.retrievalClutches ≠ [] ∧ retrieving.openRetrievals.length < 64 ∧ prepared.scmOn = false ∧
      fetching.sec.dbg ≠ 2 ∧ fetching.sec.trngFail = false ∧ fetching.mbusy = false ∧
      ({ fetching with sec := { fetching.sec with busyInk := true } } : State).mbusy = true ∧
      descWord (desc8 12 0 1 0 240) 1 = 1 ∧ descWord (desc8 12 0 2 0 0) 1 = 2) :=
  ⟨row_accepted _ _ _ _ 7 _ rfl (by decide), row_accepted _ _ _ _ 7 _ rfl (by decide), row_accepted _ _ _ _ 7 _ rfl (by decide),
    row_accepted _ _ _ _ 8 _ rfl (by decide), row_accepted _ _ _ _ 9 _ rfl (by decide), row_accepted _ _ _ _ 9 _ rfl (by decide),
    row_accepted _ _ _ _ 10 _ rfl (by decide), row_accepted _ _ _ _ 12 _ rfl (by decide), by decide⟩

/-- A live retrieval with one share at clutch 0, not yet streamed; RMAX is n. -/
def retrieval (n : Nat) : Retrieval := ⟨3, 4, 0, 0, 0, 1, n, [], some 5, some 0, 1, [⟨0, [2], 0, [2], [], [], none⟩], none, none⟩

/-- Scene Memory with one retrieval, and a PARTIAL item from cell 0 in its inbox. -/
def searching (n : Nat) : State :=
  { State.reset.setReg 0x70014 1 with scm := { State.reset.scm with retrievals := [retrieval n], inbox := [⟨0, 5, [BitVec.ofNat 64 (0xC * 2 ^ 60 + 3 * 2 ^ 32)]⟩] } }

/-- The retrieval streams, takes a PARTIAL item, and times out at RMAX 1 but not at 2; with its share reported it merges. -/
theorem wit_RetrievalResult :
    (searching 2).otherStreaming 0 3 = false ∧ (searching 2).scm.retrievals = retrieval 2 :: [] ∧ (retrieval 2).live 3 = true ∧
    (retrieval 2).shares.all (fun h => h.clutch == 0 && h.streaming && h.scanned.isNone) = true ∧
    (searching 2).isPartial ⟨0, 5, [BitVec.ofNat 64 (0xC * 2 ^ 60 + 3 * 2 ^ 32)]⟩ = true ∧
    (retrieval 2).live (BitVec.ofNat 16 (bitsOf (itemWord [BitVec.ofNat 64 (0xC * 2 ^ 60 + 3 * 2 ^ 32)] 0) 47 32)) = true ∧ clutchOf 0 = 0 ∧
    (retrieval 2).ridges < (retrieval 2).rmax ∧ (retrieval 1).rmax ≤ (retrieval 1).ridges ∧
    (∀ h ∈ ({ retrieval 2 with shares := [⟨0, [2], 2, [], [], [], some 1⟩] } : Retrieval).shares, h.scanned.isSome = true) ∧
    State.reset.clocked = true ∧ (asleepAt State.reset).clocked = false ∧
    (let s := { opened State.reset with step := { (opened State.reset).step with k := 12 }, trk := { State.reset.trk with waiting := [(3, 9), (4, 9), (5, 9)] } }
     s.clocked = true ∧ s.trk.waiting = [(3, 9)] ++ (4, 9) :: [(5, 9)] ∧ (s.step.running = true ∧ 3 + 8 < s.step.k) ∧ ¬4 + 8 < s.step.k) ∧
    (let s := { opened State.reset with step := { (opened State.reset).step with k := 12 }, trk := { State.reset.trk with waiting := [(3, 9)] } }
     s.trk.waiting ≠ [] ∧ ∀ k ∈ s.trk.waiting, s.step.running = true ∧ k.1 + 8 < s.step.k) := by decide

/-! ## Witnesses: power, safety, security -/

/-- A power unit in state v that has nothing pending. -/
def powered (v : BitVec 2) : State := { fetching with pwr := { fetching.pwr with state := v } }

/-- The entry to S2 stands at this point. -/
def entering (point : Nat) (committed : Bool) : State :=
  { State.reset with pwr := { State.reset.pwr with entry := some 2, point := point, committed := committed } }

theorem reset_drained (s : State) (h : s.mesh = [] ∧ s.cells = State.reset.cells ∧ s.motion = State.reset.motion ∧ s.fus = State.reset.fus ∧
    s.scm = State.reset.scm ∧ s.trk = State.reset.trk ∧ s.pq = State.reset.pq ∧ s.hosts = State.reset.hosts) : s.drained = true := by
  obtain ⟨h1, h2, h3, h4, h5, h6, h8, h7⟩ := h
  simp [State.drained, State.cell, State.queue, State.mot, State.host, h1, h2, h3, h4, h5, h6, h7, h8, State.reset, Cell.reset, Cell.ops, Queue.reset,
    Fusion.reset, Scene.reset, Tracker.reset, HostPort.reset, Token.reset]

theorem wit_PowerEntryResult :
    acceptedRow (powered 0) 0 (desc8 11 0 1 0 0) noInput (.cmdPower 0 (desc8 11 0 1 0 0)) ∧
    acceptedRow (powered 0) 0 (desc8 11 0 2 0 0) noInput (.cmdPower 0 (desc8 11 0 2 0 0)) ∧
    acceptedRow (powered 2) 0 (desc8 11 0 0 0 0) noInput (.cmdPower 0 (desc8 11 0 0 0 0)) ∧
    acceptedRow (staged.modClutch 0 fun x => { x with chg := true }) 0 (desc8 11 0 1 0 0) noInput (.cmdPower 0 (desc8 11 0 1 0 0)) ∧
    ((powered 0).slots.swap = none ∧ (∀ c, ((powered 0).clutch c).chg = false) ∧ (powered 0).awake = true ∧ (powered 2).awake = false ∧
      (powered 0).pwr.committed = false ∧ (powered 0).pwr.entry = none ∧ (powered 2).pwr.waking = none ∧ (powered 0).step.running = false) ∧
    (entering 1 false).drained = true ∧ ((entering 1 false).pwr.entry = some 2 ∧ (entering 1 false).pwr.point = 1 ∧ (entering 1 false).pwr.committed = false ∧
      (entering 3 false).pwr.point = 3 ∧ (entering 4 true).pwr.committed = true ∧ (entering 4 true).pwr.queued = none ∧ State.reset.pwr.entry = none ∧
      State.reset.pwr.point ≠ 1) :=
  ⟨row_accepted _ _ _ _ 11 _ rfl (by decide), row_accepted _ _ _ _ 11 _ rfl (by decide), row_accepted _ _ _ _ 11 _ rfl (by decide),
    row_accepted _ _ _ _ 11 _ rfl (by decide), by decide, reset_drained _ ⟨rfl, rfl, rfl, rfl, rfl, rfl, rfl, rfl⟩, by decide⟩

/-- A power unit with an entry pending, asleep, after a commit, and on its way out. -/
def powers : List Power :=
  [{ Power.reset with entry := some 2, owner := some 1, point := 1 }, { Power.reset with state := 2, point := 3 },
   { Power.reset with state := 0, entry := some 2, point := 4, committed := true, queued := some 0 }, { Power.reset with state := 2, point := 3, waking := some 0, queued := some 2 }]

/-- POWER is accepted in each of these, for S0, S2 and S3, by a port none of whose commands waits for the power unit. -/
theorem wit_PowerQueue :
    (∀ p ∈ powers, let s := { fetching with pwr := p }
      s.slots.swap = none ∧ (∀ c, (s.clutch c).chg = false) ∧ s.pwr.owner ≠ some 0 ∧ s.pwr.qOwner ≠ some 0 ∧ ∀ v ∈ [0, 2, 3],
        accepted s 0 (desc8 11 0 v 0 0) ⟨11, [0xF03], some 1, false⟩ true) ∧
    powers.map (fun p => ({ fetching with pwr := p } : State).awake) = [true, false, true, false] ∧
    powers.map (fun p => (p.entry.isSome, p.committed, p.waking.isSome, p.queued)) =
      [(true, false, false, none), (false, false, false, none), (true, true, false, some 0), (false, false, true, some 2)] ∧
    ({ Power.reset with entry := some 3, committed := true, queued := some 2 } : Power).queued = some 2 ∧
    (∀ h, (linked.host h).late = []) := by decide

/-- Pin 0 enabled at reset, high and low; an access at the borders of the blocks in retention. -/
theorem wit_WakeResult :
    (let s := { State.reset with pwr := { State.reset.pwr with state := 2, point := 3 } }
     s.pwr.entryMask = 0 ∧ s.bit 0x90004 0 = true ∧ ((1 : BitVec 4) ^^^ BitVec.ofNat 4 (s.fld 0x90004 11 8)).getLsbD 0 = true ∧
     ((0 : BitVec 4) ^^^ BitVec.ofNat 4 (s.fld 0x90004 11 8)).getLsbD 0 = false ∧ s.pwr.committed = false ∧ s.pwr.entry = none ∧ s.pwr.waking = none ∧
     s.awake = false ∧ s.clocked = false) ∧
    State.reset.awake = true ∧ State.reset.clocked = true ∧ (State.reset.host 0).up = false ∧
    (let s := { linked with pwr := { linked.pwr with state := 2, point := 3 } }; (s.host 0).up = true ∧ s.pwr.state = 2 ∧ s.clocked = false) ∧
    (let s := { State.reset with pwr := { State.reset.pwr with state := 2, point := 3, waking := some 0 } }
     s.pwr.waking = some 0 ∧ s.pwr.queued = none ∧ (s.cell 0).removed = false ∧ s.isHosted 0 = false) := by decide

/-- Temperatures at the limit, one below it, and at the hysteresis. -/
theorem wit_LevelResult :
    mayWrite linked 0 (0x90040 + 4 * (3 : Fin 16).val) ∧ linked.reg (0x90040 + 4 * (3 : Fin 16).val) ≠ (1 : BitVec 2).setWidth 32 ∧ linked.pwr.state ≠ 3 ∧
    (State.reset.fld 0x90014 7 0 : Int) = (100 : BitVec 8).toInt ∧ (State.reset.fld 0x90014 7 0 : Int) - State.reset.fld 0x90014 15 8 = (95 : BitVec 8).toInt ∧
    (State.reset.fld 0xB0020 7 0 : Int) ≤ (110 : BitVec 8).toInt ∧ (109 : BitVec 8).toInt < (State.reset.fld 0xB0020 7 0 : Int) ∧
    (let s := { State.reset with pwr := { State.reset.pwr with state := 1 } }
     s.pwr.state = 1 ∧ s.hubIdle 0 = true ∧ ∀ i : Fin 16, (s.cell (cellOf 0 i)).idle = true) := by decide

theorem wit_SafetyResult :
    (State.reset.awake = true ∧ State.reset.clocked = true) ∧
    (let s := only { Cell.reset with sentinel := true }; (s.cell 0).sentinel = true ∧ (s.cell 0).removed = false) ∧ (State.reset.cell 0).sentinel = false ∧
    (let s := State.reset.modClutch 0 fun x => { x with inService := true, served := true }; s.awake = true ∧ (s.clutch 0).inService = true) ∧
    (State.reset.clutch 0).inService = false ∧
    ((13 : BitVec 16).toNat < 14 ∧ ¬((14 : BitVec 16).toNat < 14 ∨ (0x100 ≤ (14 : BitVec 16).toNat ∧ (14 : BitVec 16).toNat < 0x110)) ∧
      0x100 ≤ (0x100 : BitVec 16).toNat ∧ (0x10F : BitVec 16).toNat < 0x110 ∧ ¬(0x110 : BitVec 16).toNat < 0x110) ∧
    State.reset.saf.latched.getLsbD 17 = false ∧ mayWrite linked 0 0xB0000 ∧ mayWrite linked 0 0xB0010 ∧
    (let s := { linked with saf := { linked.saf with latched := 0x12, live := 2 } }
     mayWrite s 0 0xB0010 ∧ s.saf.latched.getLsbD 1 = true ∧ s.liveNow.getLsbD 1 = true ∧ s.saf.latched.getLsbD 4 = true ∧ s.liveNow.getLsbD 4 = false) ∧
    State.reset.disc.cfgMismatch = false ∧ cfgMaskOf 0x200 ≠ 0 ∧ (cfgMaskOf 0x200).testBit 0 = true := by decide

/-- An upset of a CFG bit, and one of the parity bit, each make a parity disagree that agreed at reset. -/
theorem wit_scan_hit : (State.reset.strike 0x200 0).parityBad 0x200 = true ∧ (State.reset.strike 0x200 32).parityBad 0x200 = true := by decide

theorem wit_SecurityResult :
    (let s := { linked with sec := { linked.sec with busyInk := true, busyFus := true } }
     s.sec.busyInk = true ∧ s.sec.busyFus = true ∧ ∀ h, s.rsaCmd h = none) ∧
    reaches linked 0 0xC0010 ∧ linked.sec.trngFail = false ∧
    (let s := { prepared with sec := { prepared.sec with memKeys := some (1, 2) }, disc := { prepared.disc with memSts := 1 } }
     s.sec.running = true ∧ s.sec.memKeys.isSome = true ∧ s.disc.memSts.getLsbD 0 = true ∧ s.disc.ready.getLsbD 2 = true ∧ fetching.disc.ready.getLsbD 2 = false) ∧
    (({ fetching.disc with healthy := BitVec.ofNat 256 (2 ^ 256 - 1) } : Discovery).eligible 0 = true ∧ fetching.slots.active = none ∧
      (fetching.clutch 0).served = false ∧ State.reset.sec.running = false ∧ State.reset.hostBoot = false ∧ fetching.disc.memSts = 0 ∧
      fetching.sec.memKeys = none) := by decide

/-! ## Witnesses: invariants -/

theorem reset_storesWf : State.reset.storesWf = true := by
  simp only [State.storesWf, State.reset, Vector.toList_replicate, List.all_replicate]
  decide

theorem wit_ControlSound : State.reset.controlOk = true ∧ step State.reset = .next State.reset := ⟨by decide, rfl⟩
theorem wit_StoresSound : State.reset.storesWf = true ∧ step State.reset = .next State.reset := ⟨reset_storesWf, rfl⟩
/-! ## Worked examples of the spec -/

/-- What a command leaves. -/
def after (i : Instr) (s : State) : State := match exec i s with | .next t => t | _ => s

/-- SP5 with a sensor of 1,280 x 800, a staged TB_HI of 0 and these words (03, Worked example: decoding one packet on SP5). -/
def sp5 (l : List Word) : State :=
  ((dueNow State.reset).modPort 5 fun x =>
    { x with mode := .active, rx := true, notb := false, baseLo := 140625, horizon := some 9000040, fifo := [l] }).setReg (inkP 5 0) 1

set_option maxRecDepth 4000 in
/-- Words 0 and 1: BASE_HI is staged, the time base becomes 9,000,064. -/
theorem test_tb_words :
    ((after (.tbHi 5 .none) (sp5 [0x50000000])).port 5).staged = some 0 ∧
    (let t := after (.tbLo 5 .none) (sp5 [0x40022552]); (t.port 5).baseLo = 140626 ∧ (t.port 5).horizon = some 9000064) := by decide

/-- Word 2: EV_ON, dt 13, x 700, y 420. -/
theorem test_evOn : let s := sp5 [0x1355E1A4]
    bitsOf (0x1355E1A4 : Word).toNat 21 11 = 700 ∧ bitsOf (0x1355E1A4 : Word).toNat 10 0 = 420 ∧ s.stampOf 5 0x1355E1A4 = 9000013 := by decide

set_option maxRecDepth 4000 in
/-- Words 3 and 4: the vector advances the horizon to dt 40; the mask names columns 0, 1, 2 and 5. -/
theorem test_vector :
    ((after (.vecWord 5 .none) (sp5 [0x2A1F41A5, 0x80000027])).port 5).horizon = some 9000040 ∧
    ((List.range 28).filter fun i => bitAt (0x80000027 : Word).toNat i) = [0, 1, 2, 5] := by decide

set_option maxRecDepth 4000 in
/-- Word 6: a column over 1,279 is counted and advances the horizon; word 7 only leaves the FIFO. -/
theorem test_range_and_pad :
    (let s := sp5 [0x00A8A00A]; let t := after (.evWord 5 .none) (s.modPort 5 fun x => { x with baseLo := 140627 })
     (t.port 5).horizon = some 9000130 ∧ t.ctr (inkP 5 0x068) = 1) ∧
    ((after (.padWord 5 .none) (sp5 [0xE0000000])).port 5).horizon = some 9000040 := by decide

/-- Four nodes of the mesh blend to (4834, 2812) in eighths (04, Worked example). -/
theorem test_meshBlend : meshBlend 42 26 24 9 4642 4978 4642 4978 = 4834 ∧ meshBlend 42 26 24 9 2740 2740 2948 2948 = 2812 := by decide

/-- Ages of entries A to D at eu = 7 (06, Worked example: ages across the wrap). -/
theorem test_ages : [0xFFE4, 0x8001, 0xFFC9, 0xBFD2].map (fun e => stAge 7 e) = [35, 6, 62, 16437] := by decide

/-- Entry A decays to 49,935 against the reference 5,242,980 with TAU_K = 16,777; D reads 0. -/
theorem test_decay :
    (State.reset.setReg (celR 91 0x60) 16777).decay 91 0 7 1 0xFFE4 = 49935 ∧ (State.reset.setReg (celR 91 0x60) 16777).decay 91 0 7 1 0xBFD2 = 0 := by decide

/-- Rings of the corner test of cell 91 (08, Worked example). -/
theorem test_rings :
    ringPass 3 6 [40, 38, 25, 2, 3, 3, 5, 21, 30, 32768, 32768, 44, 50, 32768, 47, 42] = 3 ∧
    ringPass 4 8 [60, 33, 18, 11, 1, 2, 4, 4, 6, 9, 15, 27, 32768, 32768, 52, 48, 70, 32768, 65, 58] = 4 := by decide

/-- The taps of cell 92's L1 site: (15, 0) and (15, 1) (09, Worked example). -/
theorem test_tapHits :
    (tapHits { descOf (desc 2 17 17 4 8 0) with sx := 2, sy := 2 } (descOf (desc 1 3 3 2 8 0)) 31 2).map (fun h => (h.ox, h.oy)) = [(15, 0), (15, 1)] := by decide

/-- Decisions of the skip predictor at each level, native and in compatibility mode (10, Worked example). -/
theorem test_skipExact :
    ([0, 2, 3, 4, 5, 6, 7].map fun l => skipExact false l 0 288 [3, 1, -2, -1]) = [true, true, true, true, true, false, false] ∧
    ([0, 2, 3, 4, 5, 6, 7].map fun l => skipExact true l 0 288 [3, 1, -2, -1]) = [true, true, true, false, false, false, false] := by decide

/-- A site of 16 neurons of which neuron 3 holds V = 231 and I = 48; the threshold of parameter set 0 is 256. -/
def firing : State := (only { live with thatch := [(12, 231), (14, 48)] }).setReg (celR 0 0x600) 256

/-- Neuron 3 reaches 279 and fires: the spike item of layer 0x21 with its mask and stamp 5,000,502 (11, Worked example). -/
theorem test_spikeItems : firing.spikeItems 0 (descOf (desc 3 1 1 16 64 0)) 0 0x21 5000502 = [[0x3021000000000000, 8, 0x00000000004C4D36]] := by decide

/-- The point (1.60, 0.40) lies in sector 2, bin 6 (12, Worked example). -/
theorem test_sector : sectorOf (fval 0x3FCCCCCD) (fval 0x3ECCCCCD) = some (2, 6) := by decide

/-- The candidate pairs of the corridor: cost, track, observation (13, Worked example: a crowded corridor). -/
def corridor : List Pair := [⟨400, 1, 1⟩, ⟨800, 1, 2⟩, ⟨1300, 1, 3⟩, ⟨200, 2, 1⟩, ⟨1800, 3, 2⟩]

/-- Four bids give T1 O3, T2 O1 and T3 O2 at the prices of the example; greedy takes T2-O1 and T1-O2. -/
theorem test_corridor :
    (let a := Auction.run 16 ⟨[], [], [1, 2, 3], 0⟩ corridor 3 2500 16
     a.bids = 4 ∧ [1, 2, 3].map (assocGet a.owner 0) = [2, 3, 1] ∧ [1, 2, 3].map (assocGet a.price 0) = [9205, 2805, 806]) ∧
    (greedy [⟨200, 2, 1⟩, ⟨400, 1, 1⟩, ⟨800, 1, 2⟩, ⟨1300, 1, 3⟩, ⟨1800, 3, 2⟩] []).map (fun p => (p.entry, p.obs)) = [(2, 1), (1, 2)] := by decide

/-- The bucket and the address of the cup token (14, Worked example: a cup on a kitchen counter). -/
theorem test_bucket :
    (State.reset.setReg 0x70004 (BitVec.ofNat 32 (4 + 7 * 2 ^ 8 + 7 * 2 ^ 12 + 4 * 2 ^ 16 + 11 * 2 ^ 24))).bucketAt 12 (-4) (37 % 4) = 32268 ∧
    slotAddress (2048 * 32268 + 1500) = 0x27832EE00 := by decide

/-- 16 GiB give 216 units of 64 MiB, 64 GiB give 960 (20, memory map). -/
theorem test_available :
    let s := { State.reset with sec := { State.reset.sec with running := true } }
    (after (.memoryTrainingDone (.done 16)) s).scm.avail = 216 ∧ (after (.memoryTrainingDone (.done 64)) s).scm.avail = 960 := by decide
end

section
/-! SUPPORT. The state right after reset: each unit's record is its own reset record, and each register reads the reset value of its table. -/

namespace Sys2Proof.Machine

/-! ## The units after reset -/

@[simp] theorem reset_port (p : Fin 16) : State.reset.port p = Port.reset := Vector.getElem_replicate p.isLt
@[simp] theorem reset_cell (c : Fin 256) : State.reset.cell c = Cell.reset := Vector.getElem_replicate c.isLt
@[simp] theorem reset_clutch (c : Fin 16) : State.reset.clutch c = Clutch.reset := Vector.getElem_replicate c.isLt
@[simp] theorem reset_host (h : Fin 2) : State.reset.host h = HostPort.reset := Vector.getElem_replicate h.isLt
@[simp] theorem reset_sem (n : Fin 64) : State.reset.sem n = ⟨none, 0, 0⟩ := Vector.getElem_replicate n.isLt

/-- No port is ACTIVE, so none gives the device horizon a value (R32). -/
theorem reset_horizon : State.reset.horizon = none := by
  have hactive : State.reset.activePorts = [] := by simp [State.activePorts, Port.reset]
  rw [State.horizon, State.countedHorizons, hactive]
  rfl

/-! ## The registers after reset -/

/-- No register is listed after reset, so each reads the value of its table. -/
theorem reset_reg (key : Nat) : State.reset.reg key = resetOf key := rfl

/-- The window of a sensor port lies in the INK port table, at its own offset (R443). -/
theorem regTable_inkP (p : Fin 16) (o : Nat) (ho : o < 0x1000) : regTable (inkP p o) = (inkPortRows, inkP p 0) := by
  have hp := p.isLt
  have hwindow : (inkP p o - 0x21000) / 0x1000 * 0x1000 = p.val * 0x1000 := by unfold inkP; omega
  have hlo : 0x21000 ≤ inkP p o := by unfold inkP; omega
  have hhi : inkP p o < 0x31000 := by unfold inkP; omega
  rw [regTable, if_neg (by omega), if_neg (by omega), if_neg (by omega), if_pos hhi, hwindow]
  rfl

/-- The window of a logical cell lies in the CEL table, at its own offset (R443). -/
theorem regTable_celR (c : Fin 256) (o : Nat) (ho : o < 0x2000) : regTable (celR c o) = (celRows, celR c 0) := by
  have hc := c.isLt
  have hwindow : (celR c o - 0x200000) / 0x2000 * 0x2000 = c.val * 0x2000 := by unfold celR; omega
  have hlo : 0x200000 ≤ celR c o := by unfold celR; omega
  have hhi : celR c o < 0x400000 := by unfold celR; omega
  unfold regTable
  iterate 16 rw [if_neg (by omega)]
  rw [if_pos hhi, hwindow]
  rfl

/-- A key whose row is found, the decay table's apart, resets to its row's value. -/
theorem resetOf_of_row {key : Nat} {r : RegRow} (hkey : key < portStride) (hdecay : isDecay key = false) (hr : regRow? key = some r) :
    resetOf key = BitVec.ofNat 32 r.reset := by
  simp [resetOf, Nat.mod_eq_of_lt hkey, hdecay, hr]

/-- A register of a sensor port resets to the value of its row in the INK port table. -/
theorem resetOf_inkP (p : Fin 16) (o : Nat) (r : RegRow) (ho : o < 0x1000) (hr : inkPortRows.find? (rowHolds · o) = some r) :
    resetOf (inkP p o) = BitVec.ofNat 32 r.reset := by
  have hbelow : inkP p o < 0x200000 := by unfold inkP; omega
  have hoff : inkP p o - inkP p 0 = o := by unfold inkP; omega
  refine resetOf_of_row (Nat.lt_trans hbelow (by decide)) ?_ ?_
  · simp [isDecay, Nat.not_le_of_lt hbelow]
  · rw [regRow?, regTable_inkP p o ho, hoff, hr]

/-- A register of a logical cell, the decay table's apart, resets to the value of its row in the CEL table. -/
theorem resetOf_celR (c : Fin 256) (o : Nat) (r : RegRow) (ho : o < 0x2000) (hd : o < 0x400 ∨ 0x600 ≤ o)
    (hr : celRows.find? (rowHolds · o) = some r) : resetOf (celR c o) = BitVec.ofNat 32 r.reset := by
  have hmod : celR c o % 0x2000 = o := by unfold celR; omega
  have hoff : celR c o - celR c 0 = o := by unfold celR; omega
  refine resetOf_of_row (by unfold celR portStride; omega) ?_ ?_
  · simp only [isDecay, hmod, Bool.and_eq_false_iff, decide_eq_false_iff_not]
    omega
  · rw [regRow?, regTable_celR c o ho, hoff, hr]

/-- Every sensor port's `INK_PENB.EN` is 0 after reset. -/
theorem reset_portOn (p : Fin 16) : State.reset.portOn p = false := by
  rw [State.portOn, State.bit, reset_reg, resetOf_inkP p 0 (rowEnb 0x000) (by decide) rfl]
  rfl

/-- `CEL_OCC_C` declares 0x1E00 CWM lines after reset. -/
theorem reset_reg_celOccC (c : Fin 256) : State.reset.reg (celR c 0x24) = 0x1E000000 :=
  resetOf_celR c 0x24 (rowCfg 0x024 1 0x1FFF0000 0x1E000000) (by decide) (by decide) rfl

/-- `CEL_QCFG255` places the status queue after reset: BASE 0xFF0, HALF 0x010. -/
theorem reset_reg_celQcfg255 (c : Fin 256) : State.reset.reg (celR c 0x13FC) = 0x0FF00010 :=
  resetOf_celR c 0x13FC (rowCfg 0x13FC 1 0x9FFF1FFF 0x0FF00010) (by decide) (by decide) rfl

/-- The step period is 1,000 µs, and the sampled registers of the device read their tables' values. -/
theorem reset_deviceRegs :
    State.reset.reg 0x200 = 0x08 ∧ State.reset.period = 1000 ∧ State.reset.reg 0x214 = 0x000C3500 ∧ State.reset.reg 0x20F00 = 0x00030D40 ∧
    State.reset.reg 0x50008 = 0x130 ∧ State.reset.reg 0x90004 = 0xF ∧ State.reset.reg 0x90014 = 0x0564 ∧ State.reset.reg 0xB0020 = 0x6E ∧
    State.reset.reg 0xD0100 = 0x00013880 ∧ State.reset.reg 0xA0000 = 0 := by
  decide

/-! ## The invariants after reset -/

theorem reset_controlOk : State.reset.controlOk = true := rfl

end Sys2Proof.Machine

open Sys2Proof.Machine

/-- Settles O57: the units hold their reset records, the registers their tables' values, and both invariants hold. -/
theorem resetState : Obligations.ResetState := by
  obtain ⟨hstepLength, hperiod, hr214, hr20F00, hr50008, hr90004, hr90014, hrB0020, hrD0100, hrA0000⟩ := reset_deviceRegs
  have hports : ∀ p, (State.reset.port p).mode = .disabled ∧ (State.reset.port p).notb = true ∧ State.reset.portOn p = false := fun p => by
    rw [reset_port]; exact ⟨rfl, rfl, reset_portOn p⟩
  have hcells : ∀ c, (State.reset.cell c).mode = .stopped := fun c => by rw [reset_cell]; rfl
  have hhosts : ∀ h, (State.reset.host h).up = false ∧ (State.reset.host h).cmd = none := fun h => by rw [reset_host]; exact ⟨rfl, rfl⟩
  have hsems : ∀ n, (State.reset.sem n).owner = none := fun n => by rw [reset_sem]
  have hclutches : ∀ c, (State.reset.clutch c).level = 2 ∧ (State.reset.clutch c).cap = 3 := fun c => by rw [reset_clutch]; exact ⟨rfl, rfl⟩
  exact ⟨rfl, rfl, rfl, hports, hcells, reset_horizon, rfl, rfl, hhosts, hsems, hclutches, rfl, rfl, rfl,
    hstepLength, hperiod, hr214, hr20F00, hr50008, hr90004, hr90014, hrB0020, hrD0100, hrA0000,
    fun c => ⟨reset_reg_celOccC c, reset_reg_celQcfg255 c⟩, reset_controlOk, reset_storesWf⟩
end

section
/-! SUPPORT. What the fabric's and the Steward's shared operations do and leave alone: upsets that pass, faults and their notices, one-bit masks. -/

namespace Sys2Proof.Machine

/-! ## Masks and bytes -/

/-- Which bit a mask of one bit sets. -/
theorem getLsbD_ofNat_two_pow (w i j : Nat) (hj : j < w) : (BitVec.ofNat w (2 ^ i)).getLsbD j = decide (i = j) := by
  rw [BitVec.getLsbD_ofNat, Nat.testBit_two_pow]
  simp only [hj, decide_true, Bool.true_and]

/-- The bytes read from a memory, one by one. -/
theorem getD_memBytes (m : Memory) (a n j : Nat) (hj : j < n) : (memBytes m a n).getD j 0 = memRead m (a + j) := by
  induction n generalizing a j with
  | zero => omega
  | succ n ih =>
    cases j with
    | zero => rfl
    | succ j => rw [memBytes, List.getD_cons_succ, ih (a + 1) j (by omega), Nat.add_right_comm, Nat.add_assoc]

/-! ## Upsets that pass (R166) -/

/-- A met upset only counts. -/
theorem met_eq (s : State) (c : Fin 256) (u : Upset) : s.met c u = { s with cnt := (s.met c u).cnt } := by
  cases u <;> rfl

/-- An upset that passes lets the access go on. -/
theorem meet_of_passes (s : State) (c : Fin 256) (u : Upset) (hu : u.passes = true) : s.meet c u = (s.met c u, true) := by
  cases u with
  | uncorrectable b => cases hu
  | none | corrected | queueWords | residue => rfl

/-- Upsets that pass only count. -/
theorem meetAll_eq_of_passes (ups : CellUpsets) (s : State) (hups : ∀ p ∈ ups, p.2.passes = true) :
    s.meetAll ups = { s with cnt := (s.meetAll ups).cnt } := by
  induction ups generalizing s with
  | nil => rfl
  | cons p ups ih =>
    have hcons : s.meetAll (p :: ups) = (s.met p.1 p.2).meetAll ups := by
      rw [State.meetAll, State.each_cons, meet_of_passes s p.1 p.2 (hups p List.mem_cons_self)]
      rfl
    rw [hcons, ih _ fun q hq => hups q (List.mem_cons_of_mem p hq), met_eq]

/-- The upset a list of passing ones gives for a cell passes. -/
theorem upsetOf_passes (ups : CellUpsets) (c : Fin 256) (hups : ∀ p ∈ ups, p.2.passes = true) : (upsetOf ups c).passes = true := by
  unfold upsetOf
  cases hfind : ups.find? (fun p => p.1 == c) with
  | none => rfl
  | some p => exact hups p (List.mem_of_find?_eq_some hfind)

/-! ## Notices and DEVICE faults (R415, R496, R507) -/

/-- `s` with what is on the host's side as in `t`: registers and counters, the hosts with what was written to them, `ATTN_n`. -/
def State.hostSideOf (s t : State) : State :=
  { s with regs := t.regs, par := t.par, cnt := t.cnt, hosts := t.hosts, hostOut := t.hostOut, pins := { s.pins with attn := t.pins.attn } }

/-- From `s` to `t` records were written to host rings or dropped: nothing changed but the host's side, and no counter but that of dropped records (R411). -/
structure WritesRings (s t : State) : Prop where
  frame : t = s.hostSideOf t
  ctr : ∀ k, (∀ h, k ≠ hifR h 0x44) → t.ctr k = s.ctr k

theorem WritesRings.refl (s : State) : WritesRings s s := ⟨rfl, fun _ _ => rfl⟩

theorem WritesRings.trans {s t u : State} (h : WritesRings s t) (g : WritesRings t u) : WritesRings s u where
  frame := calc
    u = t.hostSideOf u := g.frame
    _ = (s.hostSideOf t).hostSideOf u := by rw [← h.frame]
    _ = s.hostSideOf u := rfl
  ctr k hk := (g.ctr k hk).trans (h.ctr k hk)

theorem WritesRings.ite {s a b : State} {p : Prop} [Decidable p] (ha : WritesRings s a) (hb : WritesRings s b) : WritesRings s (if p then a else b) := by
  split
  · exact ha
  · exact hb

theorem WritesRings.updAttn {s t : State} (h : WritesRings s t) : WritesRings s t.updAttn :=
  .ite (h.trans ⟨rfl, fun _ _ => rfl⟩) h

theorem WritesRings.registers (s : State) (regs : Assoc Word) (par : Assoc Bool) (cnt : Assoc Word)
    (hcnt : ∀ k, (∀ h, k ≠ hifR h 0x44) → assocGet cnt 0 k = s.ctr k) : WritesRings s { s with regs := regs, par := par, cnt := cnt } :=
  ⟨rfl, hcnt⟩

/-- A record dropped: counted, and its ring named (R411). -/
theorem WritesRings.drop (s : State) (h : Fin 2) (n : Nat) : WritesRings s ((s.bump (hifR h 0x44)).setFld (hifR h 0x0C) 7 0 n) :=
  .registers s _ _ _ fun k hk => (State.ctr_bump s _ k 1).trans (if_neg (hk h))

theorem WritesRings.write (s : State) (out : List HostWrite) (h : Fin 2) (f : HostPort → HostPort) : WritesRings s (({ s with hostOut := out }).modHost h f) :=
  ⟨rfl, fun _ _ => rfl⟩

theorem writeRing_writesRings (s : State) (h : Fin 2) (n : Nat) (words : List DWord) : WritesRings s (s.writeRing h n words) := by
  unfold State.writeRing
  exact .ite (.updAttn (.write ..)) (.drop s h n)

theorem postTo_writesRings (s : State) (h : Fin 2) (n kind : Nat) (words : List DWord) : WritesRings s (s.postTo h n kind words) :=
  .ite (.ite (writeRing_writesRings s h n words) ⟨rfl, fun _ _ => rfl⟩) (.refl s)

theorem faultNotice_writesRings (s : State) (p0 detail : Word) : WritesRings s (s.faultNotice p0 detail) :=
  (postTo_writesRings s 0 ..).trans (postTo_writesRings _ 1 ..)

/-- A DEVICE fault counted and logged, its cause noted as present where it stays. -/
def State.faultNoted (s : State) (p0 : Word) (b : Nat) (detail : Word) (stays : Bool) : State :=
  let s1 := (s.bump 0xB0080).logFault p0 detail
  if stays then { s1 with saf := { s1.saf with live := s1.saf.live ||| BitVec.ofNat 32 (2 ^ b) } } else s1

theorem faultNoted_eq (s : State) (p0 : Word) (b : Nat) (detail : Word) (stays : Bool) :
    s.faultNoted p0 b detail stays = { s.bump 0xB0080 with saf := (s.faultNoted p0 b detail stays).saf } := by
  cases stays <;> rfl

@[simp] theorem faultNoted_latched (s : State) (p0 : Word) (b : Nat) (detail : Word) (stays : Bool) :
    (s.faultNoted p0 b detail stays).saf.latched = s.saf.latched := by
  cases stays <;> rfl

/-- A DEVICE cause latched, the first of them kept. -/
def State.latchFault (s : State) (p0 : Word) (b : Nat) : State :=
  { s with saf := { s.saf with latched := s.saf.latched ||| BitVec.ofNat 32 (2 ^ b), first := if s.saf.first.toNat % 4 = 0 then p0 else s.saf.first } }

theorem deviceFault_eq (s : State) (cause b unit ukind : Nat) (detail : Word) (stays : Bool) :
    let p0 := faultWord cause unit ukind 2
    let n := s.faultNoted p0 b detail stays
    s.deviceFault cause b unit ukind detail stays =
      if n.saf.latched.getLsbD b then n else ((n.latchFault p0 b).faultNotice p0 detail).driveFault := rfl

/-- A DEVICE fault is counted and latched and drives the fault levels unless its cause was latched before; it leaves the cells, the mesh and the step unit alone. -/
structure Faulted (s t : State) (b : Nat) : Prop where
  cells : t.cells = s.cells
  mesh : t.mesh = s.mesh
  step : t.step = s.step
  latched : t.saf.latched.getLsbD b = true
  faultA : t.pins.faultA = if s.saf.latched.getLsbD b then s.pins.faultA else false
  count : t.ctr 0xB0080 = (s.bump 0xB0080).ctr 0xB0080

/-- Where the cause was latched before, the detection is only counted and logged. -/
theorem faultNoted_faulted (s : State) (p0 : Word) (b : Nat) (detail : Word) (stays : Bool) (hset : s.saf.latched.getLsbD b = true) :
    Faulted s (s.faultNoted p0 b detail stays) b := by
  have hlatched := faultNoted_latched s p0 b detail stays
  rw [faultNoted_eq] at hlatched ⊢
  exact ⟨rfl, rfl, rfl, by rw [hlatched, hset], by rw [if_pos hset]; rfl, rfl⟩

/-- Where it was not, it is latched and its notices go out before the levels are driven. -/
theorem driveFault_faulted (s u : State) (p0 : Word) (b : Nat) (detail : Word) (stays : Bool) (hb : b < 32) (hclear : s.saf.latched.getLsbD b = false)
    (hu : WritesRings ((s.faultNoted p0 b detail stays).latchFault p0 b) u) : Faulted s u.driveFault b := by
  have hframe := hu.frame
  have hctr : u.ctr 0xB0080 = (s.faultNoted p0 b detail stays).ctr 0xB0080 := hu.ctr 0xB0080 fun h => by unfold hifR portStride; omega
  have hlatched : u.saf.latched = (s.faultNoted p0 b detail stays).saf.latched ||| BitVec.ofNat 32 (2 ^ b) := by rw [hframe]; rfl
  rw [faultNoted_latched] at hlatched
  rw [faultNoted_eq] at hframe hctr
  exact {
    cells := (congrArg State.cells hframe :)
    mesh := (congrArg State.mesh hframe :)
    step := (congrArg State.step hframe :)
    latched := by
      change u.saf.latched.getLsbD b = true
      rw [hlatched, BitVec.getLsbD_or, getLsbD_ofNat_two_pow _ _ _ hb, decide_eq_true rfl, Bool.or_true]
    faultA := by rw [hclear]; rfl
    count := hctr }

theorem deviceFault_faulted (s : State) (cause b unit ukind : Nat) (detail : Word) (stays : Bool) (hb : b < 32) :
    Faulted s (s.deviceFault cause b unit ukind detail stays) b := by
  rw [deviceFault_eq, faultNoted_latched]
  cases hset : s.saf.latched.getLsbD b with
  | true => exact faultNoted_faulted s _ b detail stays hset
  | false => exact driveFault_faulted s _ _ b detail stays hb hset (faultNotice_writesRings ..)

end Sys2Proof.Machine
end

section
/-! SUPPORT. The weight broadcast of a hub (R12, R165, R504): what it makes of each cell, the account of the ledger apart. -/

namespace Sys2Proof.Machine

/-- The CWM of a cell after its part of a broadcast: under its limit the bytes read from the Weight Store lie in it, where the cell has a route and is not hosted (R12, R165). -/
def State.broadcastCwm (s : State) (src addr len : Nat) (c : Fin 256) : Memory :=
  if s.hasRoute c && !s.isHosted c then
    memWriteBytes (s.cell c).cwm addr ((memBytes s.weights src len).take (s.memLimit c .cwm - addr))
  else (s.cell c).cwm

/-- One cell's part of a broadcast, the account of the ledger apart: counts, and that cell's CWM. -/
theorem broadcastTo_noLedger (s : State) (c : Fin 256) (src addr len : Nat) (u : Upset) (hu : u.passes = true) :
    ∃ cnt, (s.broadcastTo c src addr len u).noLedger =
      (({ s with cnt := cnt }).setCell c { s.cell c with cwm := s.broadcastCwm src addr len c }).noLedger := by
  unfold State.broadcastTo State.broadcastCwm
  rw [meet_of_passes s c u hu]
  split
  · have hmet := met_eq s c u
    generalize (s.met c u).cnt = cnt at hmet
    simp only [if_true, countWait_noLedger, charge_noLedger, hmet]
    unfold State.writeMem State.checkMem
    split
    · exact ⟨_, rfl⟩
    · exact ⟨_, rfl⟩
  · exact ⟨s.cnt, by rw [setCell_self]⟩

/-- The account of the ledger has no part in a broadcast. -/
theorem broadcastCwm_congr {s t : State} (h : s.noLedger = t.noLedger) (src addr len : Nat) (d : Fin 256) :
    s.broadcastCwm src addr len d = t.broadcastCwm src addr len d := by
  have hcell : (s.cell d).noLedger = (t.cell d).noLedger := by rw [← cell_noLedger, ← cell_noLedger, h]
  have hregs : s.regs = t.regs := (congrArg State.regs h :)
  have hdisc : s.disc = t.disc := (congrArg State.disc h :)
  have hweights : s.weights = t.weights := (congrArg State.weights h :)
  have hmode : (s.cell d).mode = (t.cell d).mode := (congrArg Cell.mode hcell :)
  have hcwm : (s.cell d).cwm = (t.cell d).cwm := (congrArg Cell.cwm hcell :)
  have hhosted : (s.cell d).hostedC = (t.cell d).hostedC := (congrArg Cell.hostedC hcell :)
  unfold State.broadcastCwm State.hasRoute State.isHosted State.memLimit State.fld State.reg
  dsimp only
  rw [hregs, hdisc, hweights, hmode, hcwm, hhosted]

/-- Nor have counts and other cells. -/
theorem broadcastCwm_setCell_ne (s : State) (cnt : Assoc Word) (c d : Fin 256) (x : Cell) (src addr len : Nat) (h : d ≠ c) :
    (({ s with cnt := cnt }).setCell c x).broadcastCwm src addr len d = s.broadcastCwm src addr len d := by
  have hcell : (({ s with cnt := cnt }).setCell c x).cell d = s.cell d := (State.cell_setCell _ c d x).trans (if_neg h)
  unfold State.broadcastCwm State.isHosted State.memLimit
  rw [hcell]
  rfl

/-- The place of a cell in its clutch (R9). -/
def placeOf (d : Fin 256) : Fin 16 := ⟨d.val % 16, Nat.mod_lt _ (by decide)⟩

@[simp] theorem clutchOf_cellOf (cl i : Fin 16) : clutchOf (cellOf cl i) = cl := Fin.ext (by simp only [clutchOf, cellOf]; omega)
@[simp] theorem placeOf_cellOf (cl i : Fin 16) : placeOf (cellOf cl i) = i := Fin.ext (by simp only [placeOf, cellOf]; omega)
@[simp] theorem cellOf_clutchOf (d : Fin 256) : cellOf (clutchOf d) (placeOf d) = d := Fin.ext (by simp only [placeOf, clutchOf, cellOf]; omega)

theorem mem_map_cellOf (cl : Fin 16) (d : Fin 256) (l : List (Fin 16)) : d ∈ l.map (cellOf cl) ↔ clutchOf d = cl ∧ placeOf d ∈ l := by
  rw [List.mem_map]
  constructor
  · rintro ⟨i, hi, rfl⟩
    rw [clutchOf_cellOf, placeOf_cellOf]
    exact ⟨rfl, hi⟩
  · rintro ⟨rfl, hi⟩
    exact ⟨placeOf d, hi, cellOf_clutchOf d⟩

/-- A whole broadcast: every named cell has its part once, no other cell any. -/
theorem each_broadcastTo_cell (cl : Fin 16) (src addr len : Nat) (ups : CellUpsets) (hups : ∀ p ∈ ups, p.2.passes = true) (d : Fin 256)
    (l : List (Fin 16)) (hl : l.Nodup) (s : State) :
    ((s.each l fun s i => s.broadcastTo (cellOf cl i) src addr len (upsetOf ups (cellOf cl i))).cell d).noLedger =
      { (s.cell d).noLedger with cwm := if d ∈ l.map (cellOf cl) then s.broadcastCwm src addr len d else (s.cell d).cwm } := by
  induction l generalizing s with
  | nil => rfl
  | cons i l ih =>
    obtain ⟨hi, hl⟩ := List.nodup_cons.1 hl
    obtain ⟨cnt, hpart⟩ := broadcastTo_noLedger s (cellOf cl i) src addr len _ (upsetOf_passes ups _ hups)
    rw [State.each_cons, ih hl]
    generalize s.broadcastTo (cellOf cl i) src addr len (upsetOf ups (cellOf cl i)) = t at hpart
    have hcell : (t.cell d).noLedger = { (s.cell d).noLedger with cwm := if d = cellOf cl i then s.broadcastCwm src addr len d else (s.cell d).cwm } := by
      rw [← cell_noLedger, hpart, cell_noLedger, State.cell_setCell]
      split
      case isTrue hd => rw [hd]; rfl
      case isFalse => rfl
    have hcwm : (t.cell d).cwm = if d = cellOf cl i then s.broadcastCwm src addr len d else (s.cell d).cwm := (congrArg Cell.cwm hcell :)
    rw [hcell, hcwm, broadcastCwm_congr hpart]
    simp only [List.map_cons, List.mem_cons]
    by_cases hd : d = cellOf cl i
    · have hnot : d ∉ l.map (cellOf cl) := by
        rw [mem_map_cellOf, hd, placeOf_cellOf]
        exact fun hmem => hi hmem.2
      simp only [hd, true_or, if_true] at hnot ⊢
      simp only [hnot, if_false]
    · simp only [broadcastCwm_setCell_ne s cnt _ d _ src addr len hd, hd, if_false, false_or]

/-- Bytes of the CWM that a broadcast reaches, and those it does not. -/
theorem memRead_broadcast_in (w m : Memory) (src addr len limit j : Nat) (hj : j < len) (hlimit : addr + j < limit) :
    memRead (memWriteBytes m addr ((memBytes w src len).take (limit - addr))) (addr + j) = memRead w (src + j) := by
  have hlen : j < ((memBytes w src len).take (limit - addr)).length := by rw [List.length_take, memBytes_length]; omega
  rw [memRead_writeBytes_in _ _ _ _ hlen, ← getD_memBytes w src len j hj, List.getD_eq_getElem?_getD, List.getD_eq_getElem?_getD,
    List.getElem?_take_of_lt (by omega)]

theorem memRead_broadcast_out (w m : Memory) (src addr len limit a : Nat) (ha : a < addr ∨ addr + len ≤ a ∨ limit ≤ a) :
    memRead (memWriteBytes m addr ((memBytes w src len).take (limit - addr))) a = memRead m a := by
  by_cases hstart : a < addr
  · exact memRead_writeBytes_out _ _ _ _ (.inl hstart)
  · refine memRead_writeBytes_out _ _ _ _ (.inr ?_)
    rw [List.length_take, memBytes_length]
    omega

/-- What the read of the Weight Store lets through is only counted. -/
theorem weightRead_of_correctable (s : State) (e : Ecc) (he : e ≠ .uncorrectable) :
    ∃ cnt, s.weightRead e = ({ s with cnt := cnt }, true) := by
  cases e with
  | clean => exact ⟨s.cnt, rfl⟩
  | corrected n => exact ⟨_, rfl⟩
  | uncorrectable => exact absurd rfl he

/-- The cells after a weight broadcast that goes on. -/
theorem hubWeightBroadcast_cells (cl : Fin 16) (cells : BitVec 16) (src addr len : Nat) (s : State) (hclock : s.clocked = true) (ups : CellUpsets)
    (hups : ∀ p ∈ ups, p.2.passes = true) (e : Ecc) (he : e ≠ .uncorrectable) :
    ∃ t, exec (.hubWeightBroadcast cl cells src addr len e ups) s = .next t ∧
      ∀ d, (t.cell d).noLedger = { (s.cell d).noLedger with
        cwm := if clutchOf d = cl ∧ cells.getLsbD (placeOf d).val = true then s.broadcastCwm src addr len d else (s.cell d).cwm } := by
  obtain ⟨cnt, hread⟩ := weightRead_of_correctable s e he
  let named := (List.finRange 16).filter fun i => cells.getLsbD i.val
  have hnodup : named.Nodup := (List.nodup_finRange 16).filter _
  refine ⟨(({ s with cnt := cnt }).ungate cl).each named fun s i => s.broadcastTo (cellOf cl i) src addr len (upsetOf ups (cellOf cl i)), ?_, fun d => ?_⟩
  · change execHubWeightBroadcast cl cells src addr len e s ups = _
    unfold execHubWeightBroadcast
    rw [hclock, hread]
    rfl
  · rw [each_broadcastTo_cell cl src addr len ups hups d named hnodup]
    simp only [mem_map_cellOf, named, List.mem_filter, List.mem_finRange, true_and]
    rfl

/-- The weight broadcast (R12, R165, R504). -/
theorem weightRule_holds : weightRule := by
  intro cl cells src addr len s hclock ups hups
  refine ⟨?_, fun e he => ?_⟩
  · change execHubWeightBroadcast cl cells src addr len .uncorrectable s ups = _
    unfold execHubWeightBroadcast
    rw [hclock]
    rfl
  obtain ⟨t, hexec, hcells⟩ := hubWeightBroadcast_cells cl cells src addr len s hclock ups hups e he
  have hcwm (d : Fin 256) : (t.cell d).cwm =
      if clutchOf d = cl ∧ cells.getLsbD (placeOf d).val = true then s.broadcastCwm src addr len d else (s.cell d).cwm := (congrArg Cell.cwm (hcells d) :)
  refine ⟨t, hexec, fun i hi hroute hhosted => ?_, fun d hd => ?_, fun d => ?_⟩
  · have hnamed : clutchOf (cellOf cl i) = cl ∧ cells.getLsbD (placeOf (cellOf cl i)).val = true := by
      rw [clutchOf_cellOf, placeOf_cellOf]
      exact ⟨rfl, hi⟩
    rw [hcwm, if_pos hnamed, State.broadcastCwm, hroute, hhosted]
    exact ⟨fun j hj hlimit => memRead_broadcast_in _ _ _ _ _ _ j hj hlimit, fun a ha => memRead_broadcast_out _ _ _ _ _ _ a ha⟩
  · rw [hcwm, State.broadcastCwm]
    split
    case isFalse => rfl
    case isTrue hnamed =>
      obtain ⟨hclutch, hbit⟩ := hnamed
      rcases hd with hother | hunnamed | hroute | hhosted
      · exact absurd hclutch hother
      · exact absurd (hbit.symm.trans hunnamed) (by decide)
      · rw [hroute]; rfl
      · rw [hhosted, Bool.not_true, Bool.and_false]; rfl
  · exact ⟨(congrArg Cell.thatch (hcells d) :), (congrArg Cell.queues (hcells d) :), (congrArg Cell.sreg (hcells d) :)⟩

end Sys2Proof.Machine
end

section
/-! SUPPORT. The delivery budget of spiking regions (R309, R317, R320): what its expiry takes out of the mesh and counts, region by region. -/

namespace Sys2Proof.Machine

/-- The counter of a region's dropped spike items (`SPK_DROPr`). -/
def dropKey (g : Fin 4) : Nat := 0xD0140 + 4 * g.val

theorem dropKey_inj {g r : Fin 4} : dropKey g = dropKey r ↔ g = r := by
  unfold dropKey
  omega

theorem dropKey_ne_celR (g : Fin 4) (c : Fin 256) (o : Nat) : dropKey g ≠ celR c o := by
  unfold dropKey celR
  omega

/-- From `s` to `t` copies of items ended: only the accounts of the tokens that sent them moved (R231). -/
structure EndsCopies (s t : State) : Prop where
  frame : t = { s with cells := t.cells }
  cell : ∀ d, t.cell d = { s.cell d with tok := (t.cell d).tok }

theorem EndsCopies.refl (s : State) : EndsCopies s s := ⟨rfl, fun _ => rfl⟩

theorem EndsCopies.trans {s t u : State} (h : EndsCopies s t) (g : EndsCopies t u) : EndsCopies s u where
  frame := by rw [g.frame, h.frame]
  cell d := by rw [g.cell d, h.cell d]

theorem copyEnds_endsCopies (s : State) (c : Fin 256) (k : Fin 16) (admitted noroute : Bool) : EndsCopies s (s.copyEnds c k admitted noroute) := by
  refine ⟨rfl, fun d => ?_⟩
  rw [State.copyEnds, State.cell_modCell]
  split
  case isTrue hd =>
    subst hd
    dsimp only
    split <;> rfl
  case isFalse => rfl

theorem itemEnds_endsCopies (s : State) (m : MeshItem) (admitted : Bool) : EndsCopies s (s.itemEnds m admitted) := by
  unfold State.itemEnds
  split
  · exact copyEnds_endsCopies ..
  · exact .refl s

theorem each_itemEnds_endsCopies (l : List MeshItem) (s : State) : EndsCopies s (s.each l fun s m => s.itemEnds m false) := by
  induction l generalizing s with
  | nil => exact .refl s
  | cons m l ih => exact (itemEnds_endsCopies s m false).trans (ih _)

/-- A dropped item is only counted. -/
theorem countDrop_eq (s : State) (r : Fin 4) (src : Source) : s.countDrop r src = { s with cnt := (s.countDrop r src).cnt } := by
  cases src <;> rfl

/-- A dropped item counts once at its region, and at no other (R317). -/
theorem countDrop_ctr (s : State) (r g : Fin 4) (src : Source) : (s.countDrop r src).ctr (dropKey g) =
    if g = r then BitVec.ofNat 32 (min 0xFFFFFFFF ((s.ctr (dropKey g)).toNat + 1)) else s.ctr (dropKey g) := by
  have hregion : (s.bump (dropKey r)).ctr (dropKey g) =
      if g = r then BitVec.ofNat 32 (min 0xFFFFFFFF ((s.ctr (dropKey g)).toNat + 1)) else s.ctr (dropKey g) := by
    rw [State.ctr_bump]
    simp only [dropKey_inj]
    split
    case isTrue h => rw [h]
    case isFalse => rfl
  rw [← hregion]
  cases src with
  | cell c => exact (State.ctr_bump _ _ _ 1).trans (if_neg (dropKey_ne_celR g c 0x704))
  | _ => rfl

theorem each_countDrop_eq (r : Fin 4) (l : List (Source × Option (Fin 16))) (s : State) :
    s.each l (fun s key => s.countDrop r key.1) = { s with cnt := (s.each l (fun s key => s.countDrop r key.1)).cnt } := by
  induction l generalizing s with
  | nil => rfl
  | cons key l ih => rw [State.each_cons, ih, countDrop_eq]

theorem each_countDrop_ctr (r g : Fin 4) (l : List (Source × Option (Fin 16))) (s : State) :
    (s.each l fun s key => s.countDrop r key.1).ctr (dropKey g) =
      if g = r then BitVec.ofNat 32 (min 0xFFFFFFFF ((s.ctr (dropKey g)).toNat + l.length)) else s.ctr (dropKey g) := by
  induction l generalizing s with
  | nil =>
    have hfits : min 0xFFFFFFFF (s.ctr (dropKey g)).toNat = (s.ctr (dropKey g)).toNat := by have := (s.ctr (dropKey g)).isLt; omega
    rw [State.each_nil, List.length_nil, Nat.add_zero, hfits, BitVec.ofNat_toNat, BitVec.setWidth_eq, ite_self]
  | cons key l ih =>
    rw [State.each_cons, ih, countDrop_ctr]
    split
    case isTrue h =>
      congr 1
      rw [BitVec.toNat_ofNat, List.length_cons]
      omega
    case isFalse => rfl

/-- The saturated count of `n` more dropped items of a region. -/
def State.dropCount (s : State) (g : Fin 4) (n : Nat) : Word := BitVec.ofNat 32 (min 0xFFFFFFFF ((s.ctr (dropKey g)).toNat + n))

/-- What the expiry of the regions in `l` makes of a state. -/
structure Expired (s t : State) (l : List (Fin 4)) : Prop where
  mesh : t.mesh = s.mesh.filter fun m => !m.spike.any fun p => decide (p.1 ∈ l) && p.2 == s.step.k
  step : t.step = { s.step with expired := t.step.expired }
  expired : ∀ g : Fin 4, t.step.expired.getLsbD g.val = (s.step.expired.getLsbD g.val || decide (g ∈ l))
  count : ∀ g, t.ctr (dropKey g) = if g ∈ l then s.dropCount g (spikeKeys (s.inFlight g s.step.k)).length else s.ctr (dropKey g)
  regs : t.regs = s.regs
  ports : t.ports = s.ports
  cell : ∀ d, t.cell d = { s.cell d with tok := (t.cell d).tok }

theorem Expired.nil (s : State) : Expired s s [] where
  mesh := (List.filter_eq_self.2 fun m _ => by cases m.spike <;> rfl).symm
  step := rfl
  expired g := by rw [decide_eq_false List.not_mem_nil, Bool.or_false]
  count g := rfl
  regs := rfl
  ports := rfl
  cell d := rfl

theorem inFlight_eq (s : State) (g : Fin 4) (k : Nat) : s.inFlight g k = s.mesh.filter fun m => decide (m.spike = some (g, k)) :=
  List.filter_congr fun m _ => Bool.eq_iff_iff.2 (by simp only [beq_iff_eq, decide_eq_true_eq])

/-- The expiry of one region leaves the items of another in the mesh. -/
theorem Expired.inFlight_ne {s t : State} {r g : Fin 4} (h : Expired s t [r]) (hg : g ≠ r) (k : Nat) : t.inFlight g k = s.inFlight g k := by
  unfold State.inFlight
  rw [h.mesh, List.filter_filter]
  refine List.filter_congr fun m _ => ?_
  cases hspike : m.spike with
  | none => rfl
  | some p =>
    by_cases hp : p = (g, k)
    · simp only [hp, BEq.rfl, List.mem_singleton, Option.any_some, hg, decide_false, Bool.false_and, Bool.not_false, Bool.and_self]
    · have hother : (some p == some (g, k)) = false := beq_eq_false_iff_ne.2 fun h => hp (Option.some.inj h)
      rw [hother, Bool.false_and]

theorem Expired.cons {s t u : State} {r : Fin 4} {l : List (Fin 4)} (h : Expired s t [r]) (g : Expired t u l) (hr : r ∉ l) : Expired s u (r :: l) where
  mesh := by
    rw [g.mesh, h.mesh, List.filter_filter, h.step]
    refine List.filter_congr fun m _ => ?_
    cases m.spike with
    | none => rfl
    | some p =>
      simp only [Option.any_some, List.mem_cons, List.not_mem_nil, or_false, Bool.decide_or, Bool.and_or_distrib_right, Bool.not_or]
      exact Bool.and_comm _ _
  step := by rw [g.step, h.step]
  expired i := by
    rw [g.expired, h.expired, Bool.or_assoc]
    simp only [List.mem_cons, List.not_mem_nil, or_false, Bool.decide_or]
  count i := by
    have hk : t.step.k = s.step.k := by rw [h.step]
    rw [g.count, State.dropCount, h.count, hk]
    by_cases hi : i = r
    · subst hi
      simp only [hr, List.mem_cons, List.not_mem_nil, or_false, if_true, if_false]
    · simp only [List.mem_cons, List.not_mem_nil, or_false, hi, false_or, if_false, h.inFlight_ne hi]
      rfl
  regs := g.regs.trans h.regs
  ports := g.ports.trans h.ports
  cell d := by rw [g.cell d, h.cell d]

/-- A region's unadmitted spike items of the open step out of the mesh, its budget expired; their accounts are still to be kept. -/
def State.clearRegion (s : State) (r : Fin 4) : State :=
  { s with
    mesh := s.mesh.filter fun m => m.spike != some (r, s.step.k)
    step := { s.step with expired := s.step.expired ||| BitVec.ofNat 4 (2 ^ r.val) } }

theorem expireRegion_eq (s : State) (r : Fin 4) : s.expireRegion r =
    ((s.clearRegion r).each (s.inFlight r s.step.k) fun s m => s.itemEnds m false).each (spikeKeys (s.inFlight r s.step.k))
      fun s key => s.countDrop r key.1 := rfl

theorem clearRegion_mesh (s : State) (r : Fin 4) :
    (s.clearRegion r).mesh = s.mesh.filter fun m => !m.spike.any fun p => decide (p.1 ∈ [r]) && p.2 == s.step.k := by
  refine List.filter_congr fun m _ => ?_
  cases m.spike with
  | none => rfl
  | some p => 
    obtain ⟨g, k⟩ := p
    simp only [bne, Option.any_some, List.mem_singleton]
    congr 1

/-- The expiry of one region (R317, R320). -/
theorem expireRegion_expired (s : State) (r : Fin 4) : Expired s (s.expireRegion r) [r] := by
  rw [expireRegion_eq]
  have hends := each_itemEnds_endsCopies (s.inFlight r s.step.k) (s.clearRegion r)
  generalize State.each _ (s.inFlight r s.step.k) _ = u at hends
  have hcounts := each_countDrop_eq r (spikeKeys (s.inFlight r s.step.k)) u
  have hctr := fun g => each_countDrop_ctr r g (spikeKeys (s.inFlight r s.step.k)) u
  generalize State.each u _ _ = t at hcounts hctr
  have hcell : ∀ d, t.cell d = u.cell d := fun d => by rw [hcounts]; rfl
  have hstep : t.step = (s.clearRegion r).step := by rw [hcounts, hends.frame]
  have hu : ∀ g, u.ctr (dropKey g) = s.ctr (dropKey g) := fun g => by rw [hends.frame]; rfl
  exact {
    mesh := by rw [hcounts, hends.frame]; exact clearRegion_mesh s r
    step := by rw [hstep]; rfl
    expired := fun g => by
      rw [hstep, State.clearRegion, BitVec.getLsbD_or, getLsbD_ofNat_two_pow _ _ _ g.isLt]
      exact congrArg _ (decide_eq_decide.2 (by rw [List.mem_singleton, Fin.ext_iff, eq_comm]))
    count := fun g => by
      simp only [hctr, hu, List.mem_singleton]
      split
      case isTrue hg => rw [hg]; rfl
      case isFalse => rfl
    regs := by rw [hcounts, hends.frame]; rfl
    ports := by rw [hcounts, hends.frame]; rfl
    cell := fun d => by rw [hcell, hends.cell]; rfl }

theorem each_expireRegion_expired (l : List (Fin 4)) (hl : l.Nodup) (s : State) : Expired s (s.each l State.expireRegion) l := by
  induction l generalizing s with
  | nil => exact .nil s
  | cons r l ih =>
    obtain ⟨hr, hl⟩ := List.nodup_cons.1 hl
    exact (expireRegion_expired s r).cons (ih hl _) hr

theorem deliveryRule_holds : deliveryRule := by
  intro r s hclock hrun hdue hregion hintake
  let l := (List.finRange 4).filter fun g => s.dropRegime g.val
  have hl : l.Nodup := (List.nodup_finRange 4).filter _
  have hmem (g : Fin 4) : g ∈ l ↔ 3 ≤ s.regionSize g.val := by
    simp only [l, State.dropRegime, List.mem_filter, List.mem_finRange, decide_eq_true_eq, true_and]
  have h := each_expireRegion_expired l hl s
  refine ⟨s.each l State.expireRegion, ?_, ?_, fun g hg => ⟨?_, ?_⟩, h.regs, h.ports, by rw [h.step], by rw [h.step]; exact hdue, fun d => ?_⟩
  · change execDeliveryBudgetExpiry r s = _
    have hregime : s.dropRegime r.val = true := decide_eq_true hregion
    simp only [execDeliveryBudgetExpiry, hclock, hrun, hdue, hregime, hintake, Bool.not_false, Bool.and_true, if_true]
    rfl
  · simp only [h.mesh, hmem]
  · rw [h.expired, decide_eq_true ((hmem g).2 hg), Bool.or_true]
  · rw [← inFlight_eq]
    exact (h.count g).trans (if_pos ((hmem g).2 hg))
  · rw [h.cell d]
    exact ⟨rfl, rfl, rfl⟩

end Sys2Proof.Machine

open Sys2Proof.Machine

/-- Settles O16: the broadcast is one part for each named cell, the expiry of the budget one clearing for each drop-and-count region. -/
theorem hubResult : Obligations.HubResult := ⟨weightRule_holds, deliveryRule_holds⟩
end

section
/-! SUPPORT. The Steward's remap of a removed cell (R17, R22, R171, R175): what the dealing of its shingles and the switch of the siblings' banks leave alone, and what it lists. -/

namespace Sys2Proof.Machine

/-! ## Work of the Steward inside a clutch -/

/-- From `s` to `t` the Steward worked on the cells in `l` alone: their records and the registers of the cell windows changed, and the list of hosted shingles. -/
structure WorksOn (s t : State) (l : List (Fin 256)) : Prop where
  reg : ∀ k, k < 0x200000 → t.reg k = s.reg k
  cell : ∀ d, d ∉ l → t.cell d = s.cell d
  step : t.step = s.step
  routed : t.disc.routed = s.disc.routed

section
variable {l : List (Fin 256)}

theorem WorksOn.refl (s : State) : WorksOn s s l := ⟨fun _ _ => rfl, fun _ _ => rfl, rfl, rfl⟩

theorem WorksOn.trans {s t u : State} (h : WorksOn s t l) (g : WorksOn t u l) : WorksOn s u l :=
  ⟨fun k hk => (g.reg k hk).trans (h.reg k hk), fun d hd => (g.cell d hd).trans (h.cell d hd), g.step.trans h.step, g.routed.trans h.routed⟩

theorem WorksOn.each {β : Type} (f : State → β → State) (xs : List β) (hf : ∀ s, ∀ x ∈ xs, WorksOn s (f s x) l) (s : State) : WorksOn s (s.each xs f) l := by
  induction xs generalizing s with
  | nil => exact .refl s
  | cons x xs ih => exact (hf s x List.mem_cons_self).trans (ih (fun s y hy => hf s y (List.mem_cons_of_mem x hy)) _)

theorem WorksOn.modCell (s : State) (c : Fin 256) (f : Cell → Cell) (hc : c ∈ l) : WorksOn s (s.modCell c f) l where
  reg _ _ := rfl
  cell d hd := by rw [State.cell_modCell, if_neg (ne_of_mem_of_not_mem hc hd).symm]
  step := rfl
  routed := rfl

theorem WorksOn.setQueue (s : State) (c q : Fin 256) (x : Queue) (hc : c ∈ l) : WorksOn s (s.setQueue c q x) l := .modCell s c _ hc

theorem WorksOn.postStatus (s : State) (c : Fin 256) (kind arg : Nat) (data : Word) (hc : c ∈ l) : WorksOn s (s.postStatus c kind arg data) l := .modCell s c _ hc

theorem WorksOn.setReg (s : State) (c : Fin 256) (o : Nat) (v : Word) : WorksOn s (s.setReg (celR c o) v) l where
  reg k hk := by rw [State.reg_setReg, if_neg (by unfold celR; omega)]
  cell _ _ := rfl
  step := rfl
  routed := rfl

theorem hostQueue_worksOn (s : State) (d : Fin 256) (ci : CellImage) (q : Fin 256) (hd : d ∈ l) : WorksOn s (s.hostQueue d ci q) l := by
  unfold State.hostQueue
  split
  · exact (((WorksOn.setReg s d _ _).trans (.setReg _ d _ _)).trans (.modCell _ d _ hd)).trans (.setQueue _ d q _ hd)
  · exact .refl s

/-- A queue's configuration lists no shingle. -/
@[simp] theorem hostQueue_disc (s : State) (d : Fin 256) (ci : CellImage) (q : Fin 256) : (s.hostQueue d ci q).disc = s.disc := by
  unfold State.hostQueue
  split
  · rw [State.setQueue, State.modCell_disc, State.modCell_disc, State.setReg_disc, State.setReg_disc]
  · rfl

theorem hostShingle_worksOn (s : State) (c d : Fin 256) (ci : CellImage) (h : Shingle) (hd : d ∈ l) : WorksOn s (s.hostShingle c d ci h) l :=
  ((WorksOn.modCell s d _ hd).trans (.each _ h.queues (fun t q _ => hostQueue_worksOn t d ci q hd) _)).trans ⟨fun _ _ => rfl, fun _ _ => rfl, rfl, rfl⟩

/-- A placed shingle has one forwarding entry more for its cell (R18). -/
theorem hostShingle_hostedOf (s : State) (c d : Fin 256) (ci : CellImage) (h : Shingle) :
    ((s.hostShingle c d ci h).hostedOf c).length = (s.hostedOf c).length + 1 := by
  unfold State.hostShingle State.hostedOf
  dsimp only
  rw [State.each_view State.disc _ fun t q => hostQueue_disc t d ci q]
  simp only [State.modCell_disc, List.filter_append, List.length_append, List.filter_cons, List.filter_nil, BEq.rfl, if_true, List.length_singleton]

theorem dealShingles_worksOn (c : Fin 256) (ci : CellImage) (sib : List (Fin 256)) (shs : List Shingle) (s : State) (i : Nat) :
    WorksOn s (s.dealShingles c ci sib shs i) sib := by
  induction shs generalizing s i with
  | nil => exact .refl s
  | cons h shs ih =>
    unfold State.dealShingles
    split
    case h_1 d hd => exact (hostShingle_worksOn s c d ci h (List.mem_of_getElem? hd)).trans (ih _ _)
    case h_2 => exact .refl s

/-- Every shingle dealt is listed once (R17). -/
theorem dealShingles_hostedOf (c : Fin 256) (ci : CellImage) (sib : List (Fin 256)) (hsib : sib ≠ []) (shs : List Shingle) (s : State) (i : Nat) :
    ((s.dealShingles c ci sib shs i).hostedOf c).length = (s.hostedOf c).length + shs.length := by
  induction shs generalizing s i with
  | nil => rfl
  | cons h shs ih =>
    have hlt : i % sib.length < sib.length := Nat.mod_lt _ (List.length_pos_iff.2 hsib)
    rw [State.dealShingles, List.getElem?_eq_getElem hlt]
    dsimp only
    rw [ih, hostShingle_hostedOf, List.length_cons, Nat.add_right_comm, Nat.add_assoc]

theorem sortShingles_length (shs : List Shingle) : (sortShingles shs).length = shs.length := by
  have hinsert (h : Shingle) (shs : List Shingle) : (insertShingle h shs).length = shs.length + 1 := by
    induction shs with
    | nil => rfl
    | cons x shs ih =>
      unfold insertShingle
      split
      · rfl
      · rw [List.length_cons, ih, List.length_cons]
  induction shs with
  | nil => rfl
  | cons h shs ih => rw [sortShingles, hinsert, ih, List.length_cons]

theorem switchBank_worksOn (s : State) (c d : Fin 256) (hd : d ∈ l) : WorksOn s (s.switchBank c d) l := by
  unfold State.switchBank
  exact (WorksOn.modCell s d _ hd).trans (.postStatus _ d _ _ _ hd)

end

/-! ## The remap in its stages -/

/-- The shingles of a failed cell dealt to its siblings as its image lists them. -/
def State.shinglesDealt (s : State) (c : Fin 256) : State :=
  match s.cellImage c with
  | some ci => s.dealShingles c ci (s.siblings c) (sortShingles ci.shingles) 0
  | none => s

/-- The banks of the siblings that host a shingle of the cell switched. -/
def State.banksSwitched (s t : State) (c : Fin 256) : State :=
  t.each ((s.siblings c).filter fun d => t.disc.hosted.any fun h => h.lcell == c && h.sibling == d) fun u d => u.switchBank c d

/-- The cell itself a hosted one with a route. -/
def State.nowHosted (s : State) (c : Fin 256) : State :=
  ({ s with disc := { s.disc with routed := s.disc.routed ||| BitVec.ofNat 256 (2 ^ c.val) } }).setCell c (hostedCell (s.fld 0x50010 15 0))

/-- The end of a remap: shares restarted, association in recovery, routes written, cause 0x22 present no more where this cell was the last overdue. -/
def State.remapClosed (s : State) (c : Fin 256) (overdue : Bool) : State :=
  let t := (s.restartShares c).keepRecovery.writeRoutes
  if overdue && !t.anyOverdue then t.causeGone 2 else t

theorem remap_eq (s : State) (c : Fin 256) (h : (s.cell c).detectedRemap = true) :
    s.remap c = ((s.banksSwitched (s.shinglesDealt c) c).nowHosted c).remapClosed c (s.cell c).overdue := if_pos h

theorem shinglesDealt_worksOn (s : State) (c : Fin 256) : WorksOn s (s.shinglesDealt c) (s.siblings c) := by
  unfold State.shinglesDealt
  split
  · exact dealShingles_worksOn ..
  · exact .refl s

theorem banksSwitched_worksOn (s t : State) (c : Fin 256) : WorksOn t (s.banksSwitched t c) (s.siblings c) :=
  .each _ _ (fun u d hd => switchBank_worksOn u c d (List.mem_filter.1 hd).1) t

/-- Switching banks lists no shingle. -/
theorem banksSwitched_disc (s t : State) (c : Fin 256) : (s.banksSwitched t c).disc = t.disc :=
  State.each_view State.disc (fun u d => u.switchBank c d) (fun _ _ => rfl) _ t

/-- Every shingle of the image has its forwarding entry once the banks are switched. -/
theorem banksSwitched_hostedOf (s : State) (c : Fin 256) (ci : CellImage) (hci : s.cellImage c = some ci) (hsib : s.siblings c ≠ []) :
    ((s.banksSwitched (s.shinglesDealt c) c).hostedOf c).length = (s.hostedOf c).length + ci.shingles.length := by
  rw [State.hostedOf, banksSwitched_disc, State.shinglesDealt, hci]
  dsimp only
  exact (dealShingles_hostedOf c ci _ hsib _ s 0).trans (by rw [sortShingles_length])

theorem restartShares_eq (s : State) (c : Fin 256) :
    s.restartShares c = { s with scm := (s.restartShares c).scm, cnt := (s.restartShares c).cnt } := by
  unfold State.restartShares
  dsimp only
  split <;> rfl

/-- The end of a remap touches neither a cell nor the step unit nor the routes and entries of the cells; association is in recovery (log entry 52). -/
theorem remapClosed_frame (s : State) (c : Fin 256) (overdue : Bool) :
    let t := s.remapClosed c overdue
    t.cells = s.cells ∧ t.step = s.step ∧ t.disc.routed = s.disc.routed ∧ t.disc.hosted = s.disc.hosted ∧ t.trk.rleft = s.fld 0x60010 31 24 := by
  unfold State.remapClosed
  rw [restartShares_eq]
  dsimp only
  split <;> exact ⟨rfl, rfl, rfl, rfl, rfl⟩

theorem nowHosted_hasRoute (s : State) (c d : Fin 256) : (s.nowHosted c).hasRoute d = (s.hasRoute d || decide (d = c)) := by
  change (s.disc.routed ||| BitVec.ofNat 256 (2 ^ c.val)).getLsbD d.val = _
  rw [BitVec.getLsbD_or, getLsbD_ofNat_two_pow _ _ _ d.isLt]
  simp only [State.hasRoute, Fin.ext_iff, eq_comm]

theorem clutchOf_of_mem_siblings {s : State} {c d : Fin 256} (hd : d ∈ s.siblings c) : clutchOf d = clutchOf c := by
  obtain ⟨i, -, rfl⟩ := List.mem_map.1 (List.mem_filter.1 hd).1
  exact clutchOf_cellOf ..

/-- A remapped cell is hosted and has a route and its entries; association is in recovery; other clutches and other cells' routes are as before (R17, R22, R175, R372). -/
structure Remapped (s t : State) (c : Fin 256) : Prop where
  hosted : t.cell c = hostedCell (s.fld 0x50010 15 0)
  route : t.hasRoute c = true
  recovery : t.trk.rleft = s.fld 0x60010 31 24
  entries : ∀ ci, s.cellImage c = some ci → s.siblings c ≠ [] → (t.hostedOf c).length = (s.hostedOf c).length + ci.shingles.length
  routes : ∀ d, d ≠ c → t.hasRoute d = s.hasRoute d
  clutches : ∀ d, clutchOf d ≠ clutchOf c → t.cell d = s.cell d
  step : t.step = s.step

theorem remap_remapped (s : State) (c : Fin 256) (h : (s.cell c).detectedRemap = true) : Remapped s (s.remap c) c := by
  rw [remap_eq s c h]
  have hworks := (shinglesDealt_worksOn s c).trans (banksSwitched_worksOn s (s.shinglesDealt c) c)
  have hentries := banksSwitched_hostedOf s c
  generalize s.banksSwitched (s.shinglesDealt c) c = u at hworks hentries
  obtain ⟨hcells, hstep, hrouted, hhosted, hrleft⟩ := remapClosed_frame (u.nowHosted c) c (s.cell c).overdue
  generalize (u.nowHosted c).remapClosed c (s.cell c).overdue = t at hcells hstep hrouted hhosted hrleft
  have hcell (d : Fin 256) : t.cell d = if d = c then hostedCell (s.fld 0x50010 15 0) else u.cell d := by
    have hfld : u.fld 0x50010 15 0 = s.fld 0x50010 15 0 := by rw [State.fld, hworks.reg _ (by decide), State.fld]
    rw [State.cell, hcells, ← hfld]
    exact State.cell_setCell _ c d _
  have hroute (d : Fin 256) : t.hasRoute d = (s.hasRoute d || decide (d = c)) := by
    rw [State.hasRoute, State.hasRoute, hrouted, ← hworks.routed]
    exact nowHosted_hasRoute u c d
  exact {
    hosted := by rw [hcell, if_pos rfl]
    route := by rw [hroute, decide_eq_true rfl, Bool.or_true]
    recovery := by
      rw [hrleft, State.fld, State.fld, ← hworks.reg 0x60010 (by decide)]
      rfl
    entries := fun ci hci hsib => by
      rw [State.hostedOf, hhosted]
      exact hentries ci hci hsib
    routes := fun d hd => by rw [hroute, decide_eq_false hd, Bool.or_false]
    clutches := fun d hd => by
      have hne : d ≠ c := fun e => hd (e ▸ rfl)
      rw [hcell, if_neg hne, hworks.cell d fun hmem => hd (clutchOf_of_mem_siblings hmem)]
    step := hstep.trans hworks.step }

/-- The deadline passes: the cell is overdue, and cause 0x22 is latched (R510). -/
theorem remapDeadlineExpiry_faulted (s : State) (c : Fin 256) (hdetected : (s.cell c).detectedRemap = true) (hdue : (s.cell c).overdue = false) :
    ∃ t, exec (.remapDeadlineExpiry c) s = .next t ∧ Faulted (s.modCell c fun x => { x with overdue := true }) t 2 := by
  refine ⟨_, ?_, deviceFault_faulted _ 0x22 2 c.val 1 (BitVec.ofNat 32 c.val) true (by decide)⟩
  change execRemapDeadlineExpiry c s = _
  rw [execRemapDeadlineExpiry, hdetected, hdue]
  rfl

end Sys2Proof.Machine

open Sys2Proof.Machine

/-- Settles O17: the dealing and the switch of banks work on the siblings alone, so what the last stage writes stands; the deadline is a DEVICE fault. -/
theorem remapResult : Obligations.RemapResult := by
  intro c s hdetected
  refine ⟨fun ups hups => ?_, fun hdue => ?_⟩
  · have hmet := meetAll_eq_of_passes ups (s.ungate (clutchOf c)) hups
    generalize ((s.ungate (clutchOf c)).meetAll ups).cnt = cnt at hmet
    have h := remap_remapped ((s.ungate (clutchOf c)).meetAll ups) c (by rw [hmet]; exact hdetected)
    refine ⟨((s.ungate (clutchOf c)).meetAll ups).remap c, ?_, ?_⟩
    · change execRemapRoutesWritten c s ups = _
      rw [execRemapRoutesWritten, if_pos hdetected]
    · generalize State.remap _ c = t at h
      rw [hmet] at h
      exact ⟨h.hosted, h.route, h.recovery, h.entries, h.routes, h.clutches, h.step⟩
  · obtain ⟨t, hexec, hfault⟩ := remapDeadlineExpiry_faulted s c hdetected hdue
    have hcell (d : Fin 256) : t.cell d = if d = c then { s.cell c with overdue := true } else s.cell d := by
      rw [State.cell, hfault.cells]
      exact State.cell_modCell s c d _
    exact ⟨t, hexec, by rw [hcell, if_pos rfl], hfault.latched, hfault.count, hfault.faultA,
      fun d hd => by rw [hcell, if_neg hd], hfault.mesh, hfault.step⟩
end

section
/-! SUPPORT. Sensor packets (R69 to R76, R90, R95): registers of a port's window, what a header lets through, what an event payload and a status block leave behind. -/

namespace Sys2Proof.Machine

/-! ## Registers of a port's window -/

@[simp] theorem inkP_inj (p : Fin 16) (a b : Nat) : inkP p a = inkP p b ↔ a = b := by unfold inkP; omega

theorem inkP_ne (p : Fin 16) {a b : Nat} (h : a ≠ b) : inkP p a ≠ inkP p b := fun e => h ((inkP_inj p a b).1 e)

/-- A count of nothing leaves a counter as it was. -/
theorem ctr_bump_zero (s : State) (k : Nat) : (s.bump k 0).ctr k = s.ctr k := by
  rw [State.ctr_bump, if_pos rfl, Nat.add_zero, Nat.min_eq_right (Nat.le_of_lt_succ (s.ctr k).isLt), BitVec.ofNat_toNat, BitVec.setWidth_eq]

theorem ctr_bump_ne (s : State) {k j : Nat} (n : Nat) (h : j ≠ k) : (s.bump k n).ctr j = s.ctr j := by rw [State.ctr_bump, if_neg h]

theorem counted_bump (s : State) (k : Nat) : counted s (s.bump k) k := by rw [counted, State.ctr_bump, if_pos rfl]

theorem port_modPort_same (s : State) (p : Fin 16) (f : Port → Port) : (s.modPort p f).port p = f (s.port p) := by rw [State.port_modPort, if_pos rfl]

theorem port_modPort_ne (s : State) {p n : Fin 16} (f : Port → Port) (h : n ≠ p) : (s.modPort p f).port n = s.port n := by
  rw [State.port_modPort, if_neg h]

/-! ## Headers (R70, R71) -/

/-- The condition the model tests before it takes a packet. -/
theorem hears_iff (s : State) (p : Fin 16) : (s.portOn p && (s.port p).rx && decide (s.pwr.point = 0)) = true ↔ hears s p := by
  simp only [hears, Bool.and_eq_true, decide_eq_true_eq, and_assoc]

theorem header_ok {s : State} {p : Fin 16} (h : hears s p) : s.header p .ok = some s := if_pos ((hears_iff s p).2 h)

theorem header_corrected {s : State} {p : Fin 16} (h : hears s p) : s.header p .corrected = some (s.bump (inkP p 0x044)) := if_pos ((hears_iff s p).2 h)

theorem header_bad {s : State} {p : Fin 16} (h : hears s p) : s.header p .bad = none := if_pos ((hears_iff s p).2 h)

theorem header_deaf {s : State} {p : Fin 16} (h : ¬hears s p) (c : HeaderCond) : s.header p c = none := if_neg (mt (hears_iff s p).1 h)

theorem headerLost_bad {s : State} {p : Fin 16} (h : hears s p) : s.headerLost p .bad = (s.bump (inkP p 0x048)).modPort p fun x => { x with rx := false } := by
  rw [State.headerLost, (hears_iff s p).2 h]
  rfl

theorem headerLost_deaf {s : State} {p : Fin 16} (h : ¬hears s p) (c : HeaderCond) : s.headerLost p c = s := by
  rw [State.headerLost, Bool.eq_false_iff.2 (mt (hears_iff s p).1 h)]
  rfl

/-- A count of a corrected header makes no port deaf. -/
theorem hears_bump {s : State} {p : Fin 16} (h : hears s p) (k n : Nat) : hears (s.bump k n) p := h

/-! ## What the three packets do once their header is taken -/

/-- What a long packet does with a sound header. -/
def State.longPacket (s : State) (p : Fin 16) (vc : BitVec 2) (vcx : Bool) (dt : BitVec 6) (crcOk : Bool) (payload : List Byte) : State :=
  if s.vcOk p vc vcx && dt == 0x30 then s.eventPacket p crcOk payload
  else if s.vcOk p vc vcx && dt == 0x31 then if crcOk then s.statusBlock p payload else s.bump (inkP p 0x04C)
  else s.bump (inkP p 0x058)

/-- What a short packet does with a sound header. -/
def State.shortPacket (s : State) (p : Fin 16) (dt : BitVec 6) : State := if dt.toNat < 4 then s else s.bump (inkP p 0x058)

/-- What a status block packet does with a sound header. -/
def State.blockPacket (s : State) (p : Fin 16) (vc : BitVec 2) (vcx crcOk : Bool) (payload : List Byte) : State :=
  if s.vcOk p vc vcx then if crcOk then s.statusBlock p payload else s.bump (inkP p 0x04C) else s.bump (inkP p 0x058)

/-- What the header of a packet makes of it: taken as it is, counted and taken, lost with its burst, or ignored (R70, R71, R95). -/
def State.framed (s : State) (p : Fin 16) (h : HeaderCond) (taken : State → State) : State :=
  match s.header p h with
  | none => s.headerLost p h
  | some t => taken t

theorem exec_csi2LongPacket (p : Fin 16) (vc : BitVec 2) (vcx : Bool) (dt : BitVec 6) (h : HeaderCond) (crcOk : Bool) (payload : List Byte) (s : State) :
    exec (.csi2LongPacket p vc vcx dt h crcOk payload) s = .next (s.framed p h fun t => t.longPacket p vc vcx dt crcOk payload) := rfl

theorem exec_csi2ShortPacket (p : Fin 16) (dt : BitVec 6) (h : HeaderCond) (s : State) :
    exec (.csi2ShortPacket p dt h) s = .next (s.framed p h fun t => t.shortPacket p dt) := rfl

theorem exec_statusBlockPacket (p : Fin 16) (vc : BitVec 2) (vcx : Bool) (h : HeaderCond) (crcOk : Bool) (payload : List Byte) (s : State) :
    exec (.statusBlockPacket p vc vcx h crcOk payload) s = .next (s.framed p h fun t => t.blockPacket p vc vcx crcOk payload) := rfl

section
variable {s : State} {p : Fin 16} (taken : State → State)

theorem framed_ok (h : hears s p) : s.framed p .ok taken = taken s := by rw [State.framed, header_ok h]

theorem framed_corrected (h : hears s p) : s.framed p .corrected taken = (s.bump (inkP p 0x044)).framed p .ok taken := by
  rw [framed_ok taken (hears_bump h _ 1), State.framed, header_corrected h]

theorem framed_bad (h : hears s p) : s.framed p .bad taken = (s.bump (inkP p 0x048)).modPort p fun x => { x with rx := false } := by
  rw [State.framed, header_bad h]
  exact headerLost_bad h

theorem framed_deaf (h : ¬hears s p) (c : HeaderCond) : s.framed p c taken = s := by
  rw [State.framed, header_deaf h]
  exact headerLost_deaf h c

end

/-! ## Event payloads (R73 to R76, R124) -/

/-- A payload over 16,384 bytes counted, or one that is no whole number of words (R73, R75). -/
def State.lengthCounted (s : State) (p : Fin 16) (payload : List Byte) : State :=
  if 16384 < payload.length then s.bump (inkP p 0x050)
  else if (payload.take 16384).length % 4 ≠ 0 then s.bump (inkP p 0x054) else s

section
variable (s : State) (p : Fin 16) (payload : List Byte)

theorem lengthCounted_eq : s.lengthCounted p payload = { s with cnt := (s.lengthCounted p payload).cnt } := by
  unfold State.lengthCounted
  split
  · rfl
  · split <;> rfl

theorem lengthCounted_long :
    (s.lengthCounted p payload).ctr (inkP p 0x050) = (s.bump (inkP p 0x050) (bitOf (decide (16384 < payload.length)))).ctr (inkP p 0x050) := by
  have hne : inkP p 0x050 ≠ inkP p 0x054 := inkP_ne p (by decide)
  unfold State.lengthCounted
  split
  next hlong => rw [decide_eq_true hlong]; rfl
  next hlong =>
    rw [decide_eq_false hlong]
    refine Eq.trans ?_ (ctr_bump_zero s _).symm
    split
    · exact ctr_bump_ne s 1 hne
    · rfl

/-- A payload cut at 16,384 bytes is one of whole words. -/
theorem lengthCounted_odd :
    (s.lengthCounted p payload).ctr (inkP p 0x054) =
      (s.bump (inkP p 0x054) (bitOf (!decide (16384 < payload.length) && decide (payload.length % 4 ≠ 0)))).ctr (inkP p 0x054) := by
  have hne : inkP p 0x054 ≠ inkP p 0x050 := inkP_ne p (by decide)
  unfold State.lengthCounted
  split
  next hlong =>
    rw [decide_eq_true hlong]
    exact (ctr_bump_ne s 1 hne).trans (ctr_bump_zero s _).symm
  next hlong =>
    rw [decide_eq_false hlong, List.take_of_length_le (Nat.le_of_not_lt hlong)]
    split
    next hodd => rw [decide_eq_true hodd]; rfl
    next hodd =>
      rw [decide_eq_false hodd]
      exact (ctr_bump_zero s _).symm

theorem lengthCounted_ctr {k : Nat} (hlong : k ≠ inkP p 0x050) (hodd : k ≠ inkP p 0x054) : (s.lengthCounted p payload).ctr k = s.ctr k := by
  unfold State.lengthCounted
  split
  · exact ctr_bump_ne s 1 hlong
  · split
    · exact ctr_bump_ne s 1 hodd
    · rfl

/-- A payload of a failed checksum is counted and leaves the FIFO alone; `FLOW` may have fallen meanwhile (R74). -/
theorem eventPacket_badCrc : ∃ flow, s.eventPacket p false payload = (s.bump (inkP p 0x04C)).modPort p fun x => { x with flow := flow } := ⟨_, rfl⟩

/-- A payload that fits joins the FIFO as one item, unless it holds no whole word (R75, R124). -/
theorem eventPacket_fits (h : fifoDepth (s.port p).fifo + (wordsOf (payload.take 16384)).length ≤ 32768) :
    let ws := wordsOf (payload.take 16384)
    ∃ flow, s.eventPacket p true payload =
      (s.lengthCounted p payload).modPort p fun x => { x with fifo := if ws = [] then x.fifo else x.fifo ++ [ws], flow := flow } := by
  have hfull : decide (fifoSize < fifoDepth (s.port p).fifo + (wordsOf (payload.take 16384)).length) = false := decide_eq_false (Nat.not_lt.2 h)
  simp only [State.eventPacket, hfull, List.isEmpty_iff]
  exact ⟨_, rfl⟩

/-- One that does not fit is discarded whole and counted, itself and its words (R124). -/
theorem eventPacket_overruns (h : 32768 < fifoDepth (s.port p).fifo + (wordsOf (payload.take 16384)).length) :
    ∃ flow, s.eventPacket p true payload =
      (((s.lengthCounted p payload).bump (inkP p 0x264)).bump (inkP p 0x300) (wordsOf (payload.take 16384)).length).modPort p
        fun x => { x with flow := flow } := by
  have hfull : decide (fifoSize < fifoDepth (s.port p).fifo + (wordsOf (payload.take 16384)).length) = true := decide_eq_true h
  simp only [State.eventPacket, hfull]
  exact ⟨_, rfl⟩

end

/-- The counters of an overrun and of its words are none of the two of lengths. -/
theorem lengthCounted_overrun (s : State) (p : Fin 16) (payload : List Byte) :
    (s.lengthCounted p payload).ctr (inkP p 0x264) = s.ctr (inkP p 0x264) ∧ (s.lengthCounted p payload).ctr (inkP p 0x300) = s.ctr (inkP p 0x300) :=
  ⟨lengthCounted_ctr s p payload (inkP_ne p (by decide)) (inkP_ne p (by decide)), lengthCounted_ctr s p payload (inkP_ne p (by decide)) (inkP_ne p (by decide))⟩

/-- What an event payload of a sound checksum leaves behind: its lengths counted and only its port changed. -/
structure TakesPayload (s t : State) (p : Fin 16) (payload : List Byte) : Prop where
  long : t.ctr (inkP p 0x050) = (s.bump (inkP p 0x050) (bitOf (decide (16384 < payload.length)))).ctr (inkP p 0x050)
  odd : t.ctr (inkP p 0x054) =
    (s.bump (inkP p 0x054) (bitOf (!decide (16384 < payload.length) && decide (payload.length % 4 ≠ 0)))).ctr (inkP p 0x054)
  regs : t.regs = s.regs
  cells : t.cells = s.cells
  others : ∀ n, n ≠ p → t.port n = s.port n

/-- Counts of other things and changes of the port itself are within that frame. -/
theorem takesPayload_modPort (s t : State) (p : Fin 16) (payload : List Byte) (f : Port → Port)
    (hframe : t = { s with cnt := t.cnt }) (hctr : ∀ o, o = 0x050 ∨ o = 0x054 → t.ctr (inkP p o) = (s.lengthCounted p payload).ctr (inkP p o)) :
    TakesPayload s (t.modPort p f) p payload where
  long := (hctr _ (.inl rfl)).trans (lengthCounted_long s p payload)
  odd := (hctr _ (.inr rfl)).trans (lengthCounted_odd s p payload)
  regs := (congrArg State.regs hframe :)
  cells := (congrArg State.cells hframe :)
  others n hn := (port_modPort_ne t f hn).trans (congrArg (State.port · n) hframe :)

theorem eventPacket_takesPayload (s : State) (p : Fin 16) (payload : List Byte) : TakesPayload s (s.eventPacket p true payload) p payload := by
  have hframe := lengthCounted_eq s p payload
  by_cases hfits : fifoDepth (s.port p).fifo + (wordsOf (payload.take 16384)).length ≤ 32768
  · obtain ⟨flow, heq⟩ := eventPacket_fits s p payload hfits
    rw [heq]
    exact takesPayload_modPort s _ p payload _ hframe fun _ _ => rfl
  · obtain ⟨flow, heq⟩ := eventPacket_overruns s p payload (Nat.lt_of_not_le hfits)
    rw [heq]
    refine takesPayload_modPort s _ p payload _ (by rw [hframe]; rfl) fun o ho => ?_
    rw [ctr_bump_ne _ _ (inkP_ne p (by omega)), ctr_bump_ne _ _ (inkP_ne p (by omega))]

/-- A payload that fits: the FIFO with its item, and nothing counted but lengths (R124). -/
theorem eventPacket_joins (s : State) (p : Fin 16) (payload : List Byte)
    (hfits : fifoDepth (s.port p).fifo + (wordsOf (payload.take 16384)).length ≤ 32768) :
    let t := s.eventPacket p true payload
    let ws := wordsOf (payload.take 16384)
    (t.port p).fifo = (if ws = [] then (s.port p).fifo else (s.port p).fifo ++ [ws]) ∧
      t.ctr (inkP p 0x264) = s.ctr (inkP p 0x264) ∧ t.ctr (inkP p 0x300) = s.ctr (inkP p 0x300) := by
  obtain ⟨flow, heq⟩ := eventPacket_fits s p payload hfits
  dsimp only
  rw [heq, port_modPort_same, lengthCounted_eq]
  exact ⟨rfl, lengthCounted_overrun s p payload⟩

/-- A payload that does not fit: the FIFO as it was, itself and its words counted (R124). -/
theorem eventPacket_discarded (s : State) (p : Fin 16) (payload : List Byte)
    (hover : 32768 < fifoDepth (s.port p).fifo + (wordsOf (payload.take 16384)).length) :
    let t := s.eventPacket p true payload
    (t.port p).fifo = (s.port p).fifo ∧ counted s t (inkP p 0x264) ∧
      t.ctr (inkP p 0x300) = (s.bump (inkP p 0x300) (wordsOf (payload.take 16384)).length).ctr (inkP p 0x300) := by
  obtain ⟨flow, heq⟩ := eventPacket_overruns s p payload hover
  obtain ⟨hitem, hwords⟩ := lengthCounted_overrun s p payload
  have hne : inkP p 0x264 ≠ inkP p 0x300 := inkP_ne p (by decide)
  dsimp only
  rw [heq, port_modPort_same]
  refine ⟨by rw [lengthCounted_eq]; rfl, ?_, ?_⟩
  · rw [counted, State.modPort_ctr, ctr_bump_ne _ _ hne, State.ctr_bump, if_pos rfl, hitem]
  · rw [State.modPort_ctr, State.ctr_bump, if_pos rfl, ctr_bump_ne _ _ hne.symm, hwords, State.ctr_bump, if_pos rfl]

/-! ## Status blocks (R90) -/

/-- Registers written one after the other, each its own, hold what was written. -/
theorem reg_each_setReg (s : State) (key : Nat → Nat) (hkey : Function.Injective key) (v : Nat → Word) (n i : Nat) (hi : i < n) :
    (s.each (List.range n) fun t i => t.setReg (key i) (v i)).reg (key i) = v i := by
  induction n with
  | zero => omega
  | succ n ih =>
    rw [List.range_succ, State.each, List.foldl_append]
    change State.reg (State.setReg (s.each (List.range n) fun t i => t.setReg (key i) (v i)) (key n) (v n)) (key i) = v i
    rw [State.reg_setReg]
    split
    next hlast => rw [hkey hlast]
    next hlast => exact ih (by have : i ≠ n := fun e => hlast (congrArg key e); omega)

section
variable (s : State) (p : Fin 16) (payload : List Byte)

/-- A status block writes registers alone. -/
theorem statusBlock_frame : (s.statusBlock p payload).cnt = s.cnt ∧ (s.statusBlock p payload).ports = s.ports ∧ (s.statusBlock p payload).cells = s.cells := by
  unfold State.statusBlock
  rw [State.setReg_cnt, State.setReg_ports, State.setReg_cells]
  generalize List.range 16 = l
  refine State.each_keeps (fun t => t.cnt = s.cnt ∧ t.ports = s.ports ∧ t.cells = s.cells) _ (fun t i h => ?_) l s ⟨rfl, rfl, rfl⟩
  exact h

theorem statusBlock_word (n : Nat) (hn : n < 16) : (s.statusBlock p payload).reg (inkP p (0x100 + 4 * n)) = blockWord payload n := by
  have hlength : inkP p (0x100 + 4 * n) ≠ inkP p 0x0C4 := inkP_ne p (by omega)
  have hkey : Function.Injective fun i => inkP p (0x100 + 4 * i) := fun i j h => by rw [inkP_inj] at h; omega
  rw [State.statusBlock, State.reg_setReg, if_neg hlength]
  exact reg_each_setReg s _ hkey (blockWord payload) 16 n hn

theorem statusBlock_length : (s.statusBlock p payload).reg (inkP p 0x0C4) = BitVec.ofNat 32 (min 65535 payload.length) := by
  rw [State.statusBlock, State.reg_setReg, if_pos rfl]

end

/-! ## Virtual channels and data types (R69) -/

section
variable {s : State} {p : Fin 16} {vc : BitVec 2}

/-- A packet of an enabled virtual channel with its VCX bits zero is looked at by its type (R69). -/
theorem vcOk_enabled (hvc : s.bit (inkP p 0x008) vc.toNat = true) : s.vcOk p vc false = true := by rw [State.vcOk, hvc]; rfl

theorem vcOk_disabled {vcx : Bool} (hvc : s.bit (inkP p 0x008) vc.toNat = false ∨ vcx = true) : s.vcOk p vc vcx = false := by
  rcases hvc with hvc | rfl
  · rw [State.vcOk, hvc, Bool.false_and]
  · rw [State.vcOk, Bool.not_true, Bool.and_false]

theorem longPacket_event (hvc : s.vcOk p vc false = true) (crc : Bool) (payload : List Byte) :
    s.longPacket p vc false 0x30 crc payload = s.eventPacket p crc payload := by rw [State.longPacket, hvc]; rfl

theorem longPacket_block (hvc : s.vcOk p vc false = true) (crc : Bool) (payload : List Byte) :
    s.longPacket p vc false 0x31 crc payload = s.blockPacket p vc false crc payload := by rw [State.longPacket, State.blockPacket, hvc]; rfl

theorem longPacket_other {vcx : Bool} {dt : BitVec 6} (hevent : dt ≠ 0x30) (hblock : dt ≠ 0x31) (crc : Bool) (payload : List Byte) :
    s.longPacket p vc vcx dt crc payload = s.bump (inkP p 0x058) := by
  rw [State.longPacket, beq_false_of_ne hevent, beq_false_of_ne hblock, Bool.and_false]
  rfl

theorem longPacket_disabled {vcx : Bool} (hvc : s.vcOk p vc vcx = false) (dt : BitVec 6) (crc : Bool) (payload : List Byte) :
    s.longPacket p vc vcx dt crc payload = s.bump (inkP p 0x058) := by rw [State.longPacket, hvc]; rfl

theorem blockPacket_enabled (hvc : s.vcOk p vc false = true) (crc : Bool) (payload : List Byte) :
    s.blockPacket p vc false crc payload = if crc then s.statusBlock p payload else s.bump (inkP p 0x04C) := by rw [State.blockPacket, hvc]; rfl

theorem blockPacket_disabled {vcx : Bool} (hvc : s.vcOk p vc vcx = false) (crc : Bool) (payload : List Byte) :
    s.blockPacket p vc vcx crc payload = s.bump (inkP p 0x058) := by rw [State.blockPacket, hvc]; rfl

end

/-! ## The two rules -/

theorem packetRule_holds : packetRule := by
  intro p vc dt payload s hhears hbit
  have hvc := vcOk_enabled hbit
  have hlong (dt : BitVec 6) (crc : Bool) : exec (.csi2LongPacket p vc false dt .ok crc payload) s = .next (s.longPacket p vc false dt crc payload) := by
    rw [exec_csi2LongPacket, framed_ok _ hhears]
  have hblock (crc : Bool) : exec (.statusBlockPacket p vc false .ok crc payload) s = .next (s.blockPacket p vc false crc payload) := by
    rw [exec_statusBlockPacket, framed_ok _ hhears]
  have hshort : exec (.csi2ShortPacket p dt .ok) s = .next (s.shortPacket p dt) := by rw [exec_csi2ShortPacket, framed_ok _ hhears]
  have hblocks (crc : Bool) (i : Instr) (hi : i ∈ [Instr.csi2LongPacket p vc false 0x31 .ok crc payload, .statusBlockPacket p vc false .ok crc payload]) :
      exec i s = .next (if crc then s.statusBlock p payload else s.bump (inkP p 0x04C)) := by
    rw [← blockPacket_enabled hvc]
    simp only [List.mem_cons, List.not_mem_nil, or_false] at hi
    rcases hi with rfl | rfl
    · rw [hlong, longPacket_block hvc]
    · rw [hblock]
  refine ⟨?event, ?badCrc, fun i hi => ?block, fun i hi => hblocks false i hi, fun hevent hother crc => ?other, fun hlow => ?sync, fun hhigh => ?generic⟩
  case event =>
    have htakes := eventPacket_takesPayload s p payload
    exact ⟨s.eventPacket p true payload, by rw [hlong, longPacket_event hvc], eventPacket_joins s p payload, eventPacket_discarded s p payload,
      htakes.long, htakes.odd, htakes.regs, htakes.cells, htakes.others⟩
  case badCrc =>
    obtain ⟨flow, heq⟩ := eventPacket_badCrc s p payload
    refine ⟨s.eventPacket p false payload, by rw [hlong, longPacket_event hvc], ?_⟩
    rw [heq, port_modPort_same]
    exact ⟨counted_bump s _, rfl, rfl⟩
  case block =>
    obtain ⟨hcnt, hports, hcells⟩ := statusBlock_frame s p payload
    exact ⟨s.statusBlock p payload, hblocks true i hi, statusBlock_word s p payload, statusBlock_length s p payload, hcnt, hports, hcells⟩
  case other => rw [hlong, longPacket_other hevent hother]
  case sync => rw [hshort, State.shortPacket, if_pos hlow]
  case generic => rw [hshort, State.shortPacket, if_neg (Nat.not_lt.2 hhigh)]

/-- The three packets of a port, each with this header. -/
def packetsOf (p : Fin 16) (vc : BitVec 2) (vcx : Bool) (dt : BitVec 6) (crc : Bool) (payload : List Byte) (h : HeaderCond) : List Instr :=
  [.csi2LongPacket p vc vcx dt h crc payload, .csi2ShortPacket p dt h, .statusBlockPacket p vc vcx h crc payload]

/-- The header decides first, and what is then done does not depend on it (R70, R71). -/
theorem exec_packetsOf (p : Fin 16) (vc : BitVec 2) (vcx : Bool) (dt : BitVec 6) (crc : Bool) (payload : List Byte) (n : Nat) :
    ∃ taken : State → State, ∀ h, ∀ i ∈ (packetsOf p vc vcx dt crc payload h)[n]?, ∀ s, exec i s = .next (s.framed p h taken) := by
  match n with
  | 0 => exact ⟨_, fun h i hi s => by cases hi; exact exec_csi2LongPacket p vc vcx dt h crc payload s⟩
  | 1 => exact ⟨_, fun h i hi s => by cases hi; exact exec_csi2ShortPacket p dt h s⟩
  | 2 => exact ⟨_, fun h i hi s => by cases hi; exact exec_statusBlockPacket p vc vcx h crc payload s⟩
  | _ + 3 => exact ⟨id, fun _ _ hi => by cases hi⟩

theorem burstRule_holds : burstRule := by
  intro p s
  refine ⟨fun hon => ?begins, fun hoff => ?disabled, ?lost, fun vc vcx dt crc payload => ⟨fun hhears => ⟨?bad, ?corrected, ?channel⟩, ?deaf⟩⟩
  case begins =>
    exact ⟨s.modPort p fun x => { x with rx := true, lock := true }, congrArg Host.Outcome.next (if_pos hon), port_modPort_same ..,
      fun _ => port_modPort_ne s _, rfl, rfl⟩
  case disabled => exact congrArg Host.Outcome.next (if_neg (Bool.eq_false_iff.1 hoff))
  case lost => exact ⟨s.modPort p fun x => { x with lock := false }, rfl, port_modPort_same .., fun _ => port_modPort_ne s _, rfl, rfl⟩
  case bad =>
    intro i hi
    obtain ⟨n, hn⟩ := List.mem_iff_getElem?.1 hi
    obtain ⟨taken, hexec⟩ := exec_packetsOf p vc vcx dt crc payload n
    refine ⟨s.framed p .bad taken, hexec .bad i hn s, ?_⟩
    rw [framed_bad taken hhears, port_modPort_same]
    exact ⟨counted_bump s _, rfl, rfl⟩
  case corrected =>
    intro n _ i hi j hj
    obtain ⟨taken, hexec⟩ := exec_packetsOf p vc vcx dt crc payload n
    rw [hexec .corrected i hi, hexec .ok j hj, framed_corrected taken hhears]
  case channel =>
    intro hvc i hi
    have hoff := vcOk_disabled hvc
    simp only [List.mem_cons, List.not_mem_nil, or_false] at hi
    rcases hi with rfl | rfl
    · rw [exec_csi2LongPacket, framed_ok _ hhears, longPacket_disabled hoff]
    · rw [exec_statusBlockPacket, framed_ok _ hhears, blockPacket_disabled hoff]
  case deaf =>
    intro hdeaf h i hi
    obtain ⟨n, hn⟩ := List.mem_iff_getElem?.1 hi
    obtain ⟨taken, hexec⟩ := exec_packetsOf p vc vcx dt crc payload n
    rw [hexec h i hn s, framed_deaf taken hdeaf]

end Sys2Proof.Machine

open Sys2Proof.Machine

/-- Settles O29: a header decides before the packet does, an event payload changes its port and counters alone, and a status block writes registers alone. -/
theorem packetResult : Obligations.PacketResult := ⟨packetRule_holds, burstRule_holds⟩
end

section
/-! SUPPORT. The coherence check and the disable of a port (R38 to R40, R94, R98): what they and the notices they post leave alone. -/

namespace Sys2Proof.Machine

/-! ## Registers under notices and DEVICE faults -/

theorem updAttn_reg (s : State) : s.updAttn.reg = s.reg := by
  unfold State.updAttn
  split <;> rfl

/-- A record written or dropped changes no register but the number of the ring that dropped one (R411). -/
theorem writeRing_reg (s : State) (h : Fin 2) (n : Nat) (words : List DWord) (k : Nat) (hk : k ≠ hifR h 0x0C) : (s.writeRing h n words).reg k = s.reg k := by
  unfold State.writeRing
  extract_lets bytes size p pos pad used
  split
  · rw [updAttn_reg]
    rfl
  · exact (State.reg_setReg _ _ k _).trans (if_neg hk)

theorem postTo_reg (s : State) (h : Fin 2) (n kind : Nat) (words : List DWord) (k : Nat) (hk : k ≠ hifR h 0x0C) :
    (s.postTo h n kind words).reg k = s.reg k := by
  unfold State.postTo State.putRecord
  split
  · split
    · exact writeRing_reg s h n words k hk
    · rfl
  · rfl

theorem notice_reg (s : State) (type : Nat) (p0 p1 : DWord) (k : Nat) (hk : ∀ h, k ≠ hifR h 0x0C) : (s.notice type p0 p1).reg k = s.reg k :=
  (postTo_reg _ 1 1 1 _ k (hk 1)).trans (postTo_reg s 0 1 1 _ k (hk 0))

theorem notice_writesRings (s : State) (type : Nat) (p0 p1 : DWord) : WritesRings s (s.notice type p0 p1) :=
  (postTo_writesRings s 0 ..).trans (postTo_writesRings _ 1 ..)

/-- What a DEVICE fault leaves alone beside what `Faulted` says: the sensor ports, and registers and counters but its own and those of the notice rings. -/
structure FaultFrame (s t : State) : Prop where
  ports : t.ports = s.ports
  reg : ∀ k, (∀ h, k ≠ hifR h 0x0C) → t.reg k = s.reg k
  ctr : ∀ k, k ≠ 0xB0080 → (∀ h, k ≠ hifR h 0x44) → t.ctr k = s.ctr k

theorem deviceFault_frame (s : State) (cause b unit ukind : Nat) (detail : Word) (stays : Bool) :
    FaultFrame s (s.deviceFault cause b unit ukind detail stays) := by
  rw [deviceFault_eq]
  have hnoted := faultNoted_eq s (faultWord cause unit ukind 2) b detail stays
  generalize s.faultNoted (faultWord cause unit ukind 2) b detail stays = n at hnoted
  have hctr (k : Nat) (hk : k ≠ 0xB0080) : n.ctr k = s.ctr k := by rw [hnoted]; exact (State.ctr_bump s _ k 1).trans (if_neg hk)
  split
  · exact ⟨by rw [hnoted]; rfl, fun k _ => by rw [hnoted]; rfl, fun k hk _ => hctr k hk⟩
  · have hrings := faultNotice_writesRings (n.latchFault (faultWord cause unit ukind 2) b) (faultWord cause unit ukind 2) detail
    have hreg := notice_reg (n.latchFault (faultWord cause unit ukind 2) b) 0x05
    exact {
      ports := by
        change State.ports (State.faultNotice ..) = _
        rw [hrings.frame, hnoted]
        rfl
      reg := fun k hk => by
        change State.reg (State.notice ..) k = _
        rw [hreg _ _ k hk, hnoted]
        rfl
      ctr := fun k hk hdrop => (hrings.ctr k hdrop).trans (hctr k hk) }

/-! ## The coherence check (R38 to R40) -/

/-- A port with the marks of the coherence check, and the state they may move it to, as in `y`. -/
def Port.judgedAs (x y : Port) : Port :=
  { x with mode := y.mode, trail := y.trail, lead := y.lead, suspect := y.suspect, excluded := y.excluded, cohRun := y.cohRun }

/-- `s` with what the coherence check may change as in `t`: the ports, the host's side, the reference horizon's place and the latest device horizon. -/
def State.judgedAs (s t : State) : State :=
  { s.hostSideOf t with
    ports := t.ports, step := { s.step with refHz := t.step.refHz }, ego := { s.ego with lastHorizon := t.ego.lastHorizon } }

/-- From `s` to `t` ports came to be judged and notices of it were posted. -/
structure PortsJudged (s t : State) : Prop where
  frame : t = s.judgedAs t
  port : ∀ n, t.port n = (s.port n).judgedAs (t.port n)
  reg : ∀ k, (∀ h, k ≠ hifR h 0x0C) → t.reg k = s.reg k
  ctr : ∀ k, (∀ h, k ≠ hifR h 0x44) → t.ctr k = s.ctr k

theorem PortsJudged.refl (s : State) : PortsJudged s s := ⟨rfl, fun _ => rfl, fun _ _ => rfl, fun _ _ => rfl⟩

theorem PortsJudged.trans {s t u : State} (h : PortsJudged s t) (g : PortsJudged t u) : PortsJudged s u where
  frame := calc
    u = t.judgedAs u := g.frame
    _ = (s.judgedAs t).judgedAs u := by rw [← h.frame]
    _ = s.judgedAs u := rfl
  port n := calc
    u.port n = (t.port n).judgedAs (u.port n) := g.port n
    _ = ((s.port n).judgedAs (t.port n)).judgedAs (u.port n) := by rw [← h.port n]
    _ = (s.port n).judgedAs (u.port n) := rfl
  reg k hk := (g.reg k hk).trans (h.reg k hk)
  ctr k hk := (g.ctr k hk).trans (h.ctr k hk)

theorem PortsJudged.each {β : Type} {f : State → β → State} (hf : ∀ s x, PortsJudged s (f s x)) (l : List β) (s : State) : PortsJudged s (s.each l f) := by
  induction l generalizing s with
  | nil => exact .refl s
  | cons x l ih => exact (hf s x).trans (ih _)

/-- A port whose marks alone change. -/
theorem PortsJudged.setPort (s : State) (p : Fin 16) (x : Port) (hx : x = (s.port p).judgedAs x) : PortsJudged s (s.setPort p x) where
  frame := rfl
  port n := by
    rw [State.port_setPort]
    split
    next hn => rw [hn, ← hx]
    next => rfl
  reg _ _ := rfl
  ctr _ _ := rfl

theorem PortsJudged.notice (s : State) (type : Nat) (p0 p1 : DWord) : PortsJudged s (s.notice type p0 p1) where
  frame := by
    have hframe := (notice_writesRings s type p0 p1).frame
    generalize s.notice type p0 p1 = t at hframe
    rw [hframe]
    rfl
  port n := by rw [(notice_writesRings s type p0 p1).frame]; rfl
  reg := notice_reg s type p0 p1
  ctr := (notice_writesRings s type p0 p1).ctr

theorem judgePort_judged (s : State) (ref : Nat) (p : Fin 16) : PortsJudged s (s.judgePort ref p) := by
  unfold State.judgePort
  dsimp only
  split
  · exact .refl s
  · split
    · split
      · exact (PortsJudged.setPort s p _ rfl).trans (.notice ..)
      · exact .setPort s p _ rfl
    · exact .setPort s p _ rfl

theorem coherenceOnce_judged (s : State) : PortsJudged s s.coherenceOnce := by
  have hnoted (r : Option Nat) : PortsJudged s { s with step := { s.step with refHz := r } } := ⟨rfl, fun _ => rfl, fun _ _ => rfl, fun _ _ => rfl⟩
  unfold State.coherenceOnce
  split
  · exact .refl s
  · dsimp only
    split
    · exact hnoted _
    · exact (hnoted _).trans (.each (fun t _ => .each (fun u p => judgePort_judged u _ p) _ t) _ _)

theorem noteHorizon_judged (s : State) : PortsJudged s s.noteHorizon := by
  unfold State.noteHorizon
  split
  · exact ⟨rfl, fun _ => rfl, fun _ _ => rfl, fun _ _ => rfl⟩
  · exact .refl s

/-- All that a moved horizon brings about (R38). -/
theorem horizonMoved_judged (s : State) : PortsJudged s s.horizonMoved :=
  (PortsJudged.each (fun t _ => coherenceOnce_judged t) (List.range 17) s).trans (noteHorizon_judged _)

/-! ## The disable of a port (R94, R98) -/

theorem inkP_ne_hifR (p : Fin 16) (o : Nat) (ho : o < 0x1000) (h : Fin 2) (j : Nat) (hj : j < 0x100) : inkP p o ≠ hifR h j := by
  unfold inkP hifR portStride
  omega

/-- A field of one bit cleared. -/
theorem bit_setFld_zero (s : State) (k : Nat) : (s.setFld k 0 0 0).bit k 0 = false := by
  have hlt := (s.reg k).isLt
  rw [State.bit, State.setFld, State.reg_setReg, if_pos rfl]
  simp only [bitAt, bitsOf, BitVec.toNat_ofNat, beq_eq_false_iff_ne]
  omega

/-- A port that two disagreeing copies of the Intake have disabled (R98): off, its FIFO discarded, CMP set, the mismatch counted, cause 0x20 latched. -/
structure Mismatched (s t : State) (p : Fin 16) : Prop where
  off : t.portOn p = false
  fifo : s.portOn p = true → (t.port p).fifo = []
  cmp : (t.port p).cmp = true
  count : counted s t (inkP p 0x260)
  latched : t.saf.latched.getLsbD 0 = true
  cells : t.cells = s.cells

/-- A disable empties the FIFO and touches no cell and, of the port's counters, none (R94). -/
theorem portOff_spec (s : State) (p : Fin 16) :
    (s.portOff p).portOn p = false ∧ (s.portOn p = true → ((s.portOff p).port p).fifo = []) ∧
      (∀ o, o < 0x1000 → (s.portOff p).ctr (inkP p o) = s.ctr (inkP p o)) ∧ (s.portOff p).cells = s.cells := by
  cases hon : s.portOn p with
  | false =>
    rw [State.portOff, hon]
    exact ⟨hon, nofun, fun _ _ => rfl, rfl⟩
  | true =>
    rw [State.portOff, if_pos hon]
    have h := horizonMoved_judged ((s.setFld (inkP p 0) 0 0 0).modPort p offPort)
    generalize State.horizonMoved _ = t at h
    refine ⟨?_, fun _ => ?_, fun o ho => h.ctr _ fun j => inkP_ne_hifR p o ho j _ (by decide), (congrArg State.cells h.frame :)⟩
    · rw [State.portOn, State.bit, h.reg _ fun j => inkP_ne_hifR p 0 (by decide) j _ (by decide)]
      exact bit_setFld_zero s (inkP p 0)
    · rw [h.port p, port_modPort_same]
      rfl

theorem intakeMismatch_mismatched (s : State) (p : Fin 16) (stage : Nat) : Mismatched s (s.intakeMismatch p stage) p := by
  unfold State.intakeMismatch
  obtain ⟨hoff, hfifo, hctr, hcells⟩ := portOff_spec s p
  generalize s.portOff p = u at hoff hfifo hctr hcells
  have hfault := deviceFault_faulted ((u.modPort p fun x => { x with cmp := true }).bump (inkP p 0x260)) 0x20 0 p.val 2 (BitVec.ofNat 32 stage) false (by decide)
  have hframe := deviceFault_frame ((u.modPort p fun x => { x with cmp := true }).bump (inkP p 0x260)) 0x20 0 p.val 2 (BitVec.ofNat 32 stage) false
  dsimp only
  generalize State.deviceFault .. = t at hfault hframe
  have hport : t.port p = { u.port p with cmp := true } := by
    rw [State.port, hframe.ports]
    exact port_modPort_same u p fun x => { x with cmp := true }
  exact {
    off := by
      rw [State.portOn, State.bit, hframe.reg _ fun j => inkP_ne_hifR p 0 (by decide) j _ (by decide)]
      exact hoff
    fifo := fun hon => by rw [hport]; exact hfifo hon
    cmp := by rw [hport]
    count := by
      have hown : inkP p 0x260 ≠ 0xB0080 := by unfold inkP; omega
      rw [counted, hframe.ctr _ hown fun j => inkP_ne_hifR p _ (by decide) j _ (by decide), State.ctr_bump, if_pos rfl, State.modPort_ctr, hctr _ (by decide)]
    latched := hfault.latched
    cells := hfault.cells.trans hcells }

end Sys2Proof.Machine
end

section
/-! SUPPORT. The decoder's words (R77, R83, R85, R98, R99): how each leaves the FIFO, and that what is then done with it reads no further word. -/

namespace Sys2Proof.Machine

/-! ## What a decoded word leaves alone -/

/-- What a decoded word must leave alone once it is read: the cells, the clutches, and each port's words with the count of those read. -/
def State.unread (s : State) : Vector Cell 256 × Vector Clutch 16 × (Fin 16 → List (List Word) × Nat) :=
  (s.cells, s.clutches, fun n => ((s.port n).fifo, (s.port n).rd))

@[simp] theorem bump_unread (s : State) (k n : Nat) : (s.bump k n).unread = s.unread := rfl

@[simp] theorem setReg_unread (s : State) (k : Nat) (v : Word) : (s.setReg k v).unread = s.unread := rfl

theorem setPort_unread (s : State) (p : Fin 16) (x : Port) (hx : (x.fifo, x.rd) = ((s.port p).fifo, (s.port p).rd)) : (s.setPort p x).unread = s.unread := by
  have hports : (fun n => (((s.setPort p x).port n).fifo, ((s.setPort p x).port n).rd)) = fun n => ((s.port n).fifo, (s.port n).rd) := by
    funext n
    rw [State.port_setPort]
    split
    next hn => rw [hn, hx]
    next => rfl
  rw [State.unread, hports]
  rfl

/-- A change of a port in neither its words nor their count. -/
theorem modPort_unread (s : State) (p : Fin 16) (f : Port → Port) (hf : ∀ x, ((f x).fifo, (f x).rd) = (x.fifo, x.rd)) : (s.modPort p f).unread = s.unread :=
  setPort_unread s p _ (hf _)

theorem PortsJudged.unread {s t : State} (h : PortsJudged s t) : t.unread = s.unread := by
  have hports : (fun n => ((t.port n).fifo, (t.port n).rd)) = fun n => ((s.port n).fifo, (s.port n).rd) := by
    funext n
    rw [h.port n]
    rfl
  rw [State.unread, hports, h.frame]
  rfl

theorem decoded_judged (s : State) (p : Fin 16) : PortsJudged s (s.decoded p) := by
  have hmode (m : PortMode) : PortsJudged s (s.modPort p fun x => { x with mode := m }) := .setPort s p _ rfl
  unfold State.decoded
  split
  · split
    · exact hmode .returning
    · exact (hmode .active).trans (horizonMoved_judged _)
  · exact .refl s

@[simp] theorem decoded_unread (s : State) (p : Fin 16) : (s.decoded p).unread = s.unread := (decoded_judged s p).unread

@[simp] theorem meetStamp_unread (s : State) (p : Fin 16) (stamp : Nat) : (s.meetStamp p stamp).unread = s.unread := by
  have hstamp : (s.modPort p fun x => { x with horizon := some stamp }).unread = s.unread := modPort_unread s p _ fun _ => rfl
  unfold State.meetStamp
  refine (horizonMoved_judged _).unread.trans ?_
  split
  · exact hstamp
  · split
    · exact bump_unread ..
    · exact hstamp

/-! ## Events on their way to the lanes (R44, R88, R100 to R102) -/

@[simp] theorem refractory_unread (s : State) (p : Fin 16) (e : Event) : (s.refractory p e).1.unread = s.unread := by
  have hput (refr : Port → Assoc (List (Option RefrEntry))) : (s.modPort p fun x => { x with refr := refr x }).unread = s.unread :=
    modPort_unread s p _ fun _ => rfl
  unfold State.refractory
  extract_lets m set l put
  split
  · rfl
  · split
    · split
      · exact bump_unread ..
      · exact hput _
    · split
      · exact hput _
      · exact (bump_unread ..).trans (hput _)

@[simp] theorem filterEvent_unread (s : State) (p : Fin 16) (e : Event) : (s.filterEvent p e).unread = s.unread := by
  unfold State.filterEvent
  extract_lets s1 r
  have hs1 : s1.unread = s.unread := modPort_unread _ p _ fun _ => rfl
  have hr : r.1.unread = s.unread := (refractory_unread s1 p e).trans hs1
  split
  · exact (bump_unread ..).trans hs1
  · split
    · exact (modPort_unread r.1 p (fun x => { x with ready := x.ready ++ [.event e] }) fun _ => rfl).trans hr
    · exact hr

@[simp] theorem gate_unread (s : State) (p : Fin 16) (e : Event) : (s.gate p e).unread = s.unread := by
  have hheld : (s.modPort p fun x => { x with held := x.held ++ [e] }).unread = s.unread := modPort_unread s p _ fun _ => rfl
  unfold State.gate
  extract_lets k
  split
  · split
    · exact hheld
    · split
      · exact filterEvent_unread ..
      · exact filterEvent_unread ..
  · split
    · exact hheld
    · rfl

@[simp] theorem pix_unread (s : State) (p : Fin 16) (e : Event) : (s.pix p e).unread = s.unread := by
  unfold State.pix
  split
  · exact bump_unread ..
  · exact gate_unread ..

/-! ## Triggers (R91, R117) -/

@[simp] theorem pushItem_unread (s : State) (p : Fin 16) (o : OutItem) : (s.pushItem p o).unread = s.unread := by
  unfold State.pushItem
  split
  · extract_lets s1 s2
    split <;> rfl
  · rfl

@[simp] theorem pushHead_unread (s : State) (p : Fin 16) : (s.pushHead p).unread = s.unread := by
  unfold State.pushHead
  split
  · rfl
  · split
    · exact (State.each_view State.unread _ (fun t o => pushItem_unread t p o) _ _).trans (modPort_unread s p _ fun _ => rfl)
    · rfl

@[simp] theorem routeTrigger_unread (s : State) (p : Fin 16) (stamp chan : Nat) : (s.routeTrigger p stamp chan).unread = s.unread := by
  unfold State.routeTrigger
  split
  · split
    · exact (pushHead_unread ..).trans (modPort_unread s p _ fun _ => rfl)
    · exact modPort_unread s p _ fun _ => rfl
  · rfl

/-! ## Reading words -/

/-- What stands at a port once words of its head item are read; `FLOW` follows the depth. -/
theorem readWords_port (s : State) (p : Fin 16) (n : Nat) : ∃ flow,
    (s.readWords p n).port p = { s.port p with fifo := dropWords (s.port p).fifo n, rd := (s.port p).rd + n, flow := flow } := by
  unfold State.readWords State.updFlow
  rw [port_modPort_same, port_modPort_same]
  exact ⟨_, rfl⟩

theorem readWords_port_ne (s : State) {p m : Fin 16} (n : Nat) (h : m ≠ p) : (s.readWords p n).port m = s.port m := by
  unfold State.readWords State.updFlow
  rw [port_modPort_ne _ _ h, port_modPort_ne _ _ h]

/-- Reading makes of the unread words what `readOff` says of them. -/
theorem readWords_unread (s : State) (p : Fin 16) (n : Nat) : (s.readWords p n).unread =
    (s.cells, s.clutches, fun m => if m = p then (dropWords (s.port p).fifo n, (s.port p).rd + n) else ((s.port m).fifo, (s.port m).rd)) := by
  have hports : (fun m => (((s.readWords p n).port m).fifo, ((s.readWords p n).port m).rd)) =
      fun m => if m = p then (dropWords (s.port p).fifo n, (s.port p).rd + n) else ((s.port m).fifo, (s.port m).rd) := by
    funext m
    split
    next hm =>
      obtain ⟨flow, hport⟩ := readWords_port s p n
      rw [hm, hport]
    next hm => rw [readWords_port_ne s n hm]
  rw [State.unread, hports]
  rfl

/-- A later reading depends on nothing but the words that stood unread. -/
theorem readWords_unread_congr {s t : State} (h : t.unread = s.unread) (p : Fin 16) (n : Nat) : (t.readWords p n).unread = (s.readWords p n).unread := by
  simp only [State.unread, Prod.mk.injEq] at h
  obtain ⟨hcells, hclutches, hports⟩ := h
  have hport (m : Fin 16) : (t.port m).fifo = (s.port m).fifo ∧ (t.port m).rd = (s.port m).rd := by simpa only [Prod.mk.injEq] using congrFun hports m
  rw [readWords_unread, readWords_unread, hcells, hclutches]
  simp only [hport]

/-- The words of one item read one after the other are read at once. -/
theorem dropWords_dropWords (w m : Word) (rest : List Word) (items : List (List Word)) :
    dropWords (dropWords ((w :: m :: rest) :: items) 1) 1 = dropWords ((w :: m :: rest) :: items) 2 := by
  cases rest <;> rfl

/-! ## The frame of every word (R83, R98, R99) -/

section
variable {s : State} {p : Fin 16} {w : Word} {types : Nat → Bool}

theorem nextWord_of_head {rest : List Word} {items : List (List Word)} (hdecodes : s.decodes p = true) (hfifo : (s.port p).fifo = (w :: rest) :: items)
    (htype : types (typeOf w) = true) : s.nextWord p types = some w := by
  rw [State.nextWord, if_pos hdecodes, State.headItem, hfifo]
  exact if_pos htype

variable (hnext : s.nextWord p types = some w) (needsTb : Bool) (body : State → Word → State)
include hnext

theorem onWord_parity : s.onWord p .parity types needsTb body = s.poisonItem p := by rw [State.onWord, hnext]

theorem onWord_mismatch (i : Fin 3) : s.onWord p (.mismatch i) types needsTb body = s.intakeMismatch p (i.val + 1) := by rw [State.onWord, hnext]

/-- Without a time base a word that needs one is read and counted (R83). -/
theorem onWord_noTb (htb : (s.port p).notb = true) : s.onWord p .none types true body = (s.readWords p 1).bump (inkP p 0x064) := by
  rw [State.onWord, hnext]
  simp only [htb, if_true]

/-- Any other word read well is acted on, in a state where as many words stand unread as after its reading. -/
theorem onWord_acts (h : needsTb = false ∨ (s.port p).notb = false) :
    ∃ t, t.unread = (s.readWords p 1).unread ∧ s.onWord p .none types needsTb body = body t w := by
  rw [State.onWord, hnext]
  dsimp only
  cases htb : (s.port p).notb with
  | false => exact ⟨(s.readWords p 1).decoded p, decoded_unread .., rfl⟩
  | true =>
    rw [htb] at h
    obtain rfl := h.resolve_right nofun
    exact ⟨s.readWords p 1, rfl, rfl⟩

end

/-- A word of bad parity takes its whole item with it, counted once, and moves neither the port's horizon nor what is ready there (R99). -/
theorem poisonItem_spec (s : State) (p : Fin 16) (item : List Word) (items : List (List Word)) (hfifo : (s.port p).fifo = item :: items) :
    let t := s.poisonItem p
    (t.port p).fifo = items ∧ counted s t (inkP p 0x25C) ∧ (t.port p).ready = (s.port p).ready ∧ (t.port p).horizon = (s.port p).horizon := by
  let u := (s.readWords p (s.headItem p).length).bump (inkP p 0x25C)
  have hpoison : PortsJudged u (s.poisonItem p) := by
    unfold State.poisonItem
    dsimp only
    split
    · exact .refl _
    · exact decoded_judged ..
  have hhead : dropWords (s.port p).fifo (s.headItem p).length = items := by
    rw [State.headItem, hfifo]
    exact if_pos (Nat.le_refl _)
  obtain ⟨flow, hport⟩ := readWords_port s p (s.headItem p).length
  have hu : u.port p = (s.readWords p (s.headItem p).length).port p := rfl
  dsimp only
  rw [hpoison.port p, hu, hport, counted, hpoison.ctr _ fun h => inkP_ne_hifR p _ (by decide) h _ (by decide), hhead]
  exact ⟨rfl, counted_bump (s.readWords p (s.headItem p).length) _, rfl, rfl⟩

/-! ## The nine words -/

/-- A VEC word and the MASK that goes with it (R85). -/
def withMask (w : Word) (next : Option Word) : Prop := (typeOf w = 2 ∨ typeOf w = 3) ∧ next.any (fun m => typeOf m == 8) = true

/-- A word's meaning reads the MASK of a VEC word, and nothing else, off the FIFO. -/
def readsMask (p : Fin 16) (next : Option Word) (body : State → Word → State) (types : Nat → Bool) (needsTb : Bool) : Prop :=
  ∀ w, types (typeOf w) = true → ∀ t, (withMask w next → needsTb = true ∧ (body t w).unread = (t.readWords p 1).unread) ∧
    (¬withMask w next → (body t w).unread = t.unread)

/-- A word of another type than VEC reads no further word. -/
theorem readsMask_of_unread (p : Fin 16) (next : Option Word) (body : State → Word → State) (types : Nat → Bool) (needsTb : Bool)
    (htypes : types 2 = false ∧ types 3 = false) (hbody : ∀ t w, (body t w).unread = t.unread) : readsMask p next body types needsTb := by
  intro w htype t
  refine ⟨fun ⟨hvec, _⟩ => ?_, fun _ => hbody t w⟩
  rcases hvec with hvec | hvec <;> rw [hvec] at htype
  · exact absurd htype (Bool.eq_false_iff.1 htypes.1)
  · exact absurd htype (Bool.eq_false_iff.1 htypes.2)

/-- An instruction is the frame of every word around a meaning that reads no further word but a MASK. -/
def framesWord (s : State) (p : Fin 16) (r : (WordFault → Instr) × (Nat → Bool) × Bool) : Prop :=
  ∃ body, (∀ f, exec (r.1 f) s = .next (s.onWord p f r.2.1 r.2.2 body)) ∧ readsMask p (s.headItem p)[1]? body r.2.1 r.2.2

section
variable (s : State) (p : Fin 16)

theorem evWord_framesWord : framesWord s p (.evWord p, fun t => decide (t < 2), true) :=
  ⟨_, fun _ => rfl, readsMask_of_unread _ _ _ _ _ ⟨rfl, rfl⟩ fun _ _ => (pix_unread ..).trans (meetStamp_unread ..)⟩

/-- Its MASK is read before its pixels are looked at; without one it is an orphan (R85, R86). -/
theorem vecWord_framesWord : framesWord s p (.vecWord p, fun t => t == 2 || t == 3, true) := by
  refine ⟨_, fun _ => rfl, fun w htype t => ?_⟩
  have hvec : typeOf w = 2 ∨ typeOf w = 3 := by simpa only [Bool.or_eq_true, beq_iff_eq] using htype
  dsimp only
  cases (s.headItem p)[1]? with
  | none => exact ⟨fun h => absurd h.2 nofun, fun _ => bump_unread ..⟩
  | some m =>
    dsimp only
    split
    next hmask =>
      refine ⟨fun _ => ⟨rfl, ?_⟩, fun h => absurd ⟨hvec, hmask⟩ h⟩
      exact (State.each_view State.unread _ (fun u e => pix_unread u p e) _ _).trans (meetStamp_unread ..)
    next hmask => exact ⟨fun h => absurd h.2 hmask, fun _ => bump_unread ..⟩

theorem maskWord_framesWord : framesWord s p (.maskWord p, fun t => t == 8, true) :=
  ⟨_, fun _ => rfl, readsMask_of_unread _ _ _ _ _ ⟨rfl, rfl⟩ fun _ _ => bump_unread ..⟩

theorem tbLo_framesWord : framesWord s p (.tbLo p, fun t => t == 4, false) := by
  refine ⟨_, fun _ => rfl, readsMask_of_unread _ _ _ _ _ ⟨rfl, rfl⟩ fun t w => ?_⟩
  extract_lets x hi lo time s1 s2 s3
  have hs1 : s1.unread = t.unread := setPort_unread t p _ rfl
  have hs2 : s2.unread = t.unread := by
    refine Eq.trans ?_ hs1
    unfold s2
    split
    · exact decoded_unread ..
    · rfl
  refine (meetStamp_unread s3 p time).trans (Eq.trans ?_ hs2)
  unfold s3
  split
  · split
    · exact bump_unread ..
    · rfl
  · rfl

theorem tbHi_framesWord : framesWord s p (.tbHi p, fun t => t == 5, false) :=
  ⟨_, fun _ => rfl, readsMask_of_unread _ _ _ _ _ ⟨rfl, rfl⟩ fun t _ => modPort_unread t p _ fun _ => rfl⟩

theorem statusWord_framesWord : framesWord s p (.statusWord p, fun t => t == 7, true) := by
  refine ⟨_, fun _ => rfl, readsMask_of_unread _ _ _ _ _ ⟨rfl, rfl⟩ fun t w => ?_⟩
  dsimp only
  split
  · rw [bump_unread, setReg_unread]
  · split
    · rw [bump_unread, setReg_unread]
    · rw [setReg_unread]

theorem triggerWord_framesWord : framesWord s p (.triggerWord p, fun t => t == 9, true) := by
  refine ⟨_, fun _ => rfl, readsMask_of_unread _ _ _ _ _ ⟨rfl, rfl⟩ fun t w => ?_⟩
  dsimp only
  split
  · exact (routeTrigger_unread ..).trans (modPort_unread _ p _ fun _ => rfl)
  · rfl

theorem padWord_framesWord : framesWord s p (.padWord p, fun t => t == 14, false) :=
  ⟨_, fun _ => rfl, readsMask_of_unread _ _ _ _ _ ⟨rfl, rfl⟩ fun _ _ => rfl⟩

theorem reservedWord_framesWord : framesWord s p (.reservedWord p, fun t => t == 6 || (decide (10 ≤ t) && t != 14), false) :=
  ⟨_, fun _ => rfl, readsMask_of_unread _ _ _ _ _ ⟨rfl, rfl⟩ fun _ _ => bump_unread ..⟩

theorem linkWords_framesWord (r : (WordFault → Instr) × (Nat → Bool) × Bool) (hr : r ∈ linkWords p) : framesWord s p r := by
  simp only [linkWords, List.mem_cons, List.not_mem_nil, or_false] at hr
  rcases hr with rfl | rfl | rfl | rfl | rfl | rfl | rfl | rfl | rfl
  · exact evWord_framesWord s p
  · exact vecWord_framesWord s p
  · exact maskWord_framesWord s p
  · exact tbLo_framesWord s p
  · exact tbHi_framesWord s p
  · exact statusWord_framesWord s p
  · exact triggerWord_framesWord s p
  · exact padWord_framesWord s p
  · exact reservedWord_framesWord s p

end

/-! ## A word read well -/

section
variable {s t : State} {p : Fin 16} {w : Word} {rest : List Word} {items : List (List Word)}

/-- What stands unread after a reading, put as the obligation asks for it. -/
theorem readOff_of_unread (n : Nat) (h : t.unread =
      (s.cells, s.clutches, fun m => if m = p then (dropWords (s.port p).fifo n, (s.port p).rd + n) else ((s.port m).fifo, (s.port m).rd))) :
    readOff s t p n ∧ (∀ m, m ≠ p → (t.port m).fifo = (s.port m).fifo) ∧ t.cells = s.cells ∧ t.clutches = s.clutches := by
  simp only [State.unread, Prod.mk.injEq] at h
  obtain ⟨hcells, hclutches, hports⟩ := h
  have hp := (congrFun hports p).trans (if_pos rfl)
  exact ⟨⟨congrArg Prod.fst hp, congrArg Prod.snd hp⟩, fun m hm => congrArg Prod.fst ((congrFun hports m).trans (if_neg hm)), hcells, hclutches⟩

/-- A second word read leaves what a reading of two leaves. -/
theorem readWords_readWords_unread {m : Word} (hfifo : (s.port p).fifo = (w :: m :: rest) :: items) :
    ((s.readWords p 1).readWords p 1).unread = (s.readWords p 2).unread := by
  obtain ⟨flow, hport⟩ := readWords_port s p 1
  rw [readWords_unread, readWords_unread, hport, hfifo, dropWords_dropWords]
  simp only [Prod.mk.injEq]
  refine ⟨rfl, rfl, funext fun n => ?_⟩
  split
  · rfl
  next hn => rw [readWords_port_ne s 1 hn]

/-- A word read well takes itself off the FIFO, with a time base its MASK too (R77, R83, R85). -/
theorem onWord_unread {types : Nat → Bool} {needsTb : Bool} {body : State → Word → State} (hnext : s.nextWord p types = some w)
    (hfifo : (s.port p).fifo = (w :: rest) :: items) (htype : types (typeOf w) = true) (hreads : readsMask p rest.head? body types needsTb) :
    (s.onWord p .none types needsTb body).unread = (s.readWords p (if (typeOf w = 2 ∨ typeOf w = 3) ∧ (s.port p).notb = false ∧
      rest.head?.any (fun m => typeOf m == 8) = true then 2 else 1)).unread := by
  by_cases hact : needsTb = false ∨ (s.port p).notb = false
  · obtain ⟨t, ht, hword⟩ := onWord_acts hnext needsTb body hact
    obtain ⟨hmask, hplain⟩ := hreads w htype t
    rw [hword]
    by_cases hwith : withMask w rest.head?
    · obtain ⟨hneeds, hbody⟩ := hmask hwith
      have htb : (s.port p).notb = false := hact.resolve_left (by rw [hneeds]; nofun)
      rw [if_pos ⟨hwith.1, htb, hwith.2⟩, hbody, readWords_unread_congr ht]
      cases rest with
      | nil => exact absurd hwith.2 nofun
      | cons m rest => exact readWords_readWords_unread hfifo
    · rw [if_neg fun h => hwith ⟨h.1, h.2.2⟩, hplain hwith, ht]
  · simp only [not_or, Bool.not_eq_false] at hact
    obtain ⟨rfl, htb⟩ := hact
    rw [onWord_noTb hnext body htb, if_neg fun h => Bool.eq_false_iff.1 h.2.1 htb]
    exact bump_unread ..

end

end Sys2Proof.Machine

open Sys2Proof.Machine

/-- Settles O31: every word is acted on within one frame, what it means reads no further word but a VEC's MASK, and an upset is met before it means anything. -/
theorem wordUpsetResult : Obligations.WordUpsetResult := by
  intro p s w rest items hdecodes hfifo r hr htype
  obtain ⟨body, hexec, hreads⟩ := linkWords_framesWord s p r hr
  have hnext := nextWord_of_head hdecodes hfifo htype
  refine ⟨?well, ?parity, fun i => ?mismatch⟩
  case well =>
    have hsecond : (s.headItem p)[1]? = rest.head? := by rw [State.headItem, hfifo, List.head?_eq_getElem?]; rfl
    rw [hsecond] at hreads
    exact ⟨_, hexec .none, readOff_of_unread _ ((onWord_unread hnext hfifo htype hreads).trans (readWords_unread ..))⟩
  case parity =>
    exact ⟨s.poisonItem p, by rw [hexec, onWord_parity hnext], poisonItem_spec s p (w :: rest) items hfifo⟩
  case mismatch =>
    have hon : s.portOn p = true := by
      simp only [State.decodes, Bool.and_eq_true] at hdecodes
      exact hdecodes.1.1.1.1
    have h := intakeMismatch_mismatched s p (i.val + 1)
    exact ⟨s.intakeMismatch p (i.val + 1), by rw [hexec, onWord_mismatch hnext], h.off, h.fifo hon, h.cmp, h.count, h.latched⟩
end
